-- ==== Sys2Proof/Word.lean ====
section
/-! DEFINITION. Word types of the TX-2480 and the table type that sparse state is kept in. -/

namespace Sys2Proof

/-- A 64-bit scalar register, address or window register (05 R75). -/
abbrev Word := BitVec 64

/-- A byte. -/
abbrev Byte := BitVec 8

/-- A W96 element: 96-bit two's complement, its least bit worth 2^-32 (04 R52). -/
abbrev W96 := BitVec 96

/-- A table from keys to values: keys strictly rising, no entry equal to the table's default
(`Tab.wf` in Machine/Store.lean). Absent keys read as the default. -/
abbrev Tab (β : Type) := List (Nat × β)

end Sys2Proof
end

