-- ==== Sys2Proof/Config.lean ====
section
/-! DEFINITION. What an implementation fixes, and the values the spec leaves open: functions without a body, so that
nothing can be proved of their values (DESIGN CHOICE, PRESUMED: log 2, 3, 4, 34). -/

namespace Sys2Proof.Config

/-- The architecture revision of the device (23 R355, ARCHREV). -/
def archRev : Nat := 1

/-- A fresh free value, by the counter `State.free` (DESIGN CHOICE: log 2): which of the allowed outcomes the machine takes. -/
opaque freeBit : Nat → Bool

/-- A line whose value no rule gives, by the counter `State.free`: what a failed copy leaves (12 R229; DESIGN CHOICE: log 2, 32). -/
opaque freeLine : Nat → BitVec 512

/-- The public key, X then Y big-endian, of the P-256 key pair that ROM derives from a fused seed (23 R348; PRESUMED: log 3). -/
opaque publicKey : (seed : BitVec 256) → BitVec 512

/-- The ECDSA P-256 signature, r then s big-endian, that the private key derived from a fused seed makes over a SHA-256 digest
(21 R328, 23 R348, R350; PRESUMED: log 3). -/
opaque sign : (seed digest : BitVec 256) → BitVec 512

/-- Whether a 64-byte signature over a SHA-256 digest verifies under the Gelran key whose SHA-256 is given
(23 R347; PRESUMED: log 3). -/
opaque verifies : (keyDigest digest : BitVec 256) → (signature : BitVec 512) → Bool

/-- The host physical address of the page of a host virtual address in which the event ring lies (23 R355; PRESUMED: log 34). -/
opaque ringPage : (va : BitVec 64) → BitVec 64

/-- The class that a peer grants a region's virtual device for the tenure after the one that began at a count, above 15 where it grants
none, where the world says nothing of its grant word (20 R315; DESIGN CHOICE: log 4). -/
opaque peerGrant : (rid peer boundary : Nat) → BitVec 5

/-- The host's translation of a host virtual address under a process tag, asked when a START's patch block is read
(16 R264, 10 R190; DESIGN CHOICE: log 4). -/
opaque hostTranslate : (asid : Nat) → (va : BitVec 64) → Option (BitVec 64)

/-- The latency in Firmament ticks at which training locked a spare pair, which decides whether it can meet a
bundle's latency (20 R303, R311; DESIGN CHOICE: log 4). -/
opaque spareFits : (pair : Nat) → (lat : BitVec 16) → Bool

end Sys2Proof.Config
end

