-- ==== Sys2Proof/Syntax.lean ====
section
/-! DEFINITION. The instructions: one constructor of `Instr` per row of spec/opcode_table.json, words and forms
of the sequencers first, then the commands and events of the module. -/

namespace Sys2Proof

/-- Sequencer kinds (03 R46); the four streams, the conductor, the service conductor. -/
inductive SeqKind where
  | load | exec | store | ctl | conductor | service
  deriving DecidableEq, Repr

/-- Element types, by their codes 0 to 13 (03 R39). -/
inductive ETy where
  | f32 | bf16 | f16 | e4m3 | e5m2 | e2m1 | i4 | i8 | i16 | i32 | i64 | u8 | u32 | w96
  deriving DecidableEq, Repr

/-- Rounding modes (04 R54). -/
inductive RMode where
  | rne | rtz | rup | rdn | sr
  deriving DecidableEq, Repr

/-- Conditions of VCMP (07 R148). -/
inductive CmpOp where
  | eq | ne | lt | le | gt | ge | un | ord
  deriving DecidableEq, Repr

/-- Operations of VSCAN and VRED (07 R155). -/
inductive ScanOp where
  | add | max | min
  deriving DecidableEq, Repr

/-- Operations of ATOM (03 R43). -/
inductive AtomOp where
  | add64 | min64 | max64 | minu64 | maxu64 | and64 | or64 | xor64 | add128
  deriving DecidableEq, Repr

/-- Operations of ATOMF (03 R43). -/
inductive AtomfOp where
  | add64 | swap64 | cas64
  deriving DecidableEq, Repr

/-- Patterns of COLL (13 R252). -/
inductive CollPat where
  | allreduce | reduce | broadcast | allgather
  deriving DecidableEq, Repr

/-- Combinations of COLL (13 R252). -/
inductive CollRed where
  | sum | max | min | topk
  deriving DecidableEq, Repr

/-- Scopes of COLL (13 R251). -/
inductive CollScope where
  | die | package | fabric
  deriving DecidableEq, Repr

/-- IDLE, S and GUARD of an R- or I-format word (03 R30, R31). -/
structure Head where
  idle : BitVec 3
  sq : Bool
  g : BitVec 3
  deriving DecidableEq, Repr

/-- IDLE and S of a W-format word, which has no guard (03 R33). -/
structure HeadW where
  idle : BitVec 3
  sq : Bool
  deriving DecidableEq, Repr

/-- A P-format word: IDLE, S, form index, FIELD and VALUE of its patch (03 R36). -/
structure HeadP where
  idle : BitVec 3
  sq : Bool
  form : BitVec 6
  fld : BitVec 4
  value : BitVec 16
  deriving DecidableEq, Repr

/-- Who submits a command: the host, a service conductor by RMCMD (10 R189), or the region manager itself at a tenure boundary or
a thermal trip (10 R206, 23 R354). -/
inductive Requester where
  | host
  | service (rid : Nat)
  | manager
  deriving DecidableEq, Repr

/-- A command descriptor, the address it is logged under, and its requester (10 R189). -/
structure Cmd where
  req : Requester
  addr : Word
  desc : BitVec 512
  deriving DecidableEq, Repr

/-- What a peer module brings to a fabric-scope operation: its rank, its parameters and its source bytes
(13 R251, R254). `rel` is false when the peer's part ended without completing (13 R257). -/
structure Peer where
  rank : Nat
  pat : CollPat
  red : CollRed
  ty : ETy
  count : BitVec 8
  fanin : BitVec 8
  root : BitVec 8
  len : Nat
  vdid : BitVec 16
  members : BitVec 8
  map : BitVec 512
  ok : Bool
  data : List Byte
  deriving DecidableEq, Repr

/-- How link training ends (20 R302): locked at full width, locked with fewer lanes or pairs, or a failed attempt. -/
inductive Training where
  | locked (lat : BitVec 16)
  | degraded (lat : BitVec 16) (width : BitVec 8)
  | failedAttempt
  deriving DecidableEq, Repr

/-- What fabric bring-up fixes: member index, group size, and the latency of each bundle that locked
(20 R310, R311). -/
structure Fabric where
  member : Nat
  size : Nat
  lat : List (Nat × BitVec 16)
  deriving DecidableEq, Repr

/-- An instruction: one constructor per row of the opcode table. -/
inductive Instr where
  -- R-format, all sequencers
  | nop (h : Head)
  | add (h : Head) (d a b : BitVec 4)
  | sub (h : Head) (d a b : BitVec 4)
  | and (h : Head) (d a b : BitVec 4)
  | or (h : Head) (d a b : BitVec 4)
  | xor (h : Head) (d a b : BitVec 4)
  | sll (h : Head) (d a b : BitVec 4)
  | srl (h : Head) (d a b : BitVec 4)
  | sra (h : Head) (d a b : BitVec 4)
  | mul (h : Head) (d a b : BitVec 4)
  | mulh (h : Head) (d a b : BitVec 4)
  | mulhu (h : Head) (d a b : BitVec 4)
  | div (h : Head) (d a b : BitVec 4)
  | divu (h : Head) (d a b : BitVec 4)
  | rem (h : Head) (d a b : BitVec 4)
  | remu (h : Head) (d a b : BitVec 4)
  | min (h : Head) (d a b : BitVec 4)
  | max (h : Head) (d a b : BitVec 4)
  | minu (h : Head) (d a b : BitVec 4)
  | maxu (h : Head) (d a b : BitVec 4)
  | slt (h : Head) (d a b : BitVec 4)
  | sltu (h : Head) (d a b : BitVec 4)
  | sel (h : Head) (d a b c : BitVec 4)
  | clz (h : Head) (d a : BitVec 4)
  | popc (h : Head) (d a : BitVec 4)
  | jr (h : Head) (a : BitVec 4)
  | tick (h : Head) (d : BitVec 4)
  | idx (h : Head) (d level : BitVec 4)
  | getc (h : Head) (d : BitVec 4) (c : BitVec 8)
  | setc (h : Head) (c : BitVec 8) (a : BitVec 4)
  | trap (h : Head) (n : BitVec 8)
  | endStream (h : Head)
  -- load stream
  | ldq (h : Head) (q a : BitVec 4)
  | ldt (h : Head) (q a b : BitVec 4)
  | ldb (h : Head) (q a : BitVec 4)
  | ldg (h : Head) (q a b : BitVec 4)
  | ldm (h : Head) (tag q a b : BitVec 4)
  | ldx (h : Head) (d a : BitVec 4)
  | ldxm (h : Head) (d a : BitVec 4)
  | recv (h : Head) (c : BitVec 8) (a : BitVec 4)
  | recvx (h : Head) (d : BitVec 4) (c : BitVec 8)
  | lstop (h : Head) (q : BitVec 4)
  -- store stream
  | stq (h : Head) (q a : BitVec 4)
  | stt (h : Head) (q a b : BitVec 4)
  | stm (h : Head) (q a b : BitVec 4)
  | stx (h : Head) (d a : BitVec 4)
  | stxm (h : Head) (d a : BitVec 4)
  | send (h : Head) (c : BitVec 8) (a : BitVec 4)
  | sendx (h : Head) (c : BitVec 8) (a : BitVec 4)
  | scat (h : Head) (q a b : BitVec 4)
  | atom (h : Head) (op : AtomOp) (a b : BitVec 4)
  | atomf (h : Head) (op : AtomfOp) (d a b : BitVec 4)
  | sstop (h : Head) (q : BitVec 4) (n : BitVec 8)
  -- execute stream, vector unit
  | vadd (h : Head) (ty : ETy) (d a b : BitVec 4)
  | vsub (h : Head) (ty : ETy) (d a b : BitVec 4)
  | vmul (h : Head) (ty : ETy) (d a b : BitVec 4)
  | vfma (h : Head) (ty : ETy) (d a b : BitVec 4)
  | vfms (h : Head) (ty : ETy) (d a b : BitVec 4)
  | vmin (h : Head) (ty : ETy) (d a b : BitVec 4)
  | vmax (h : Head) (ty : ETy) (d a b : BitVec 4)
  | vabs (h : Head) (ty : ETy) (d a : BitVec 4)
  | vneg (h : Head) (ty : ETy) (d a : BitVec 4)
  | vrcp (h : Head) (ty : ETy) (d a : BitVec 4)
  | vsqrt (h : Head) (ty : ETy) (d a : BitVec 4)
  | vrsq (h : Head) (ty : ETy) (d a : BitVec 4)
  | vexp (h : Head) (ty : ETy) (d a : BitVec 4)
  | vlog (h : Head) (ty : ETy) (d a : BitVec 4)
  | vtanh (h : Head) (ty : ETy) (d a : BitVec 4)
  | vsig (h : Head) (ty : ETy) (d a : BitVec 4)
  | vand (h : Head) (ty : ETy) (d a b : BitVec 4)
  | vor (h : Head) (ty : ETy) (d a b : BitVec 4)
  | vxor (h : Head) (ty : ETy) (d a b : BitVec 4)
  | vshl (h : Head) (ty : ETy) (d a b : BitVec 4)
  | vshr (h : Head) (ty : ETy) (d a b : BitVec 4)
  | vsra (h : Head) (ty : ETy) (d a b : BitVec 4)
  | vcmp (h : Head) (cc : CmpOp) (ty : ETy) (d b : BitVec 4)
  | vselm (h : Head) (d a b c : BitVec 4)
  | vcvt (h : Head) (toF32 : Bool) (rm : RMode) (ty : ETy) (d a : BitVec 4)
  | vmov (h : Head) (ty : ETy) (d a : BitVec 4)
  | vbcast (h : Head) (ty : ETy) (d a : BitVec 4)
  | vrot (h : Head) (ty : ETy) (d a b : BitVec 4)
  | vshuf (h : Head) (ty : ETy) (d a b : BitVec 4)
  | vtrn (h : Head) (ty : ETy) (d a : BitVec 4)
  | vscan (h : Head) (op : ScanOp) (ty : ETy) (d a : BitVec 4)
  | vred (h : Head) (op : ScanOp) (ty : ETy) (d a : BitVec 4)
  | vmadw (h : Head) (ty : ETy) (d a b : BitVec 4)
  | vaddw (h : Head) (ty : ETy) (d a p : BitVec 4)
  | vpop (h : Head) (d q k : BitVec 4)
  | vpush (h : Head) (ty : ETy) (q a k : BitVec 4)
  | qdrop (h : Head) (q : BitVec 4) (n : BitVec 8)
  | vdraw (h : Head) (ty : ETy) (d : BitVec 4)
  | vpopc (h : Head) (ty : ETy) (d a : BitVec 4)
  | vclass (h : Head) (ty : ETy) (d a : BitVec 4)
  | pand (h : Head) (d a b : BitVec 4)
  | por (h : Head) (d a b : BitVec 4)
  | pxor (h : Head) (d a b : BitVec 4)
  | pnot (h : Head) (d a : BitVec 4)
  | pset (h : Head) (ty : ETy) (d a r : BitVec 4)
  | pcnt (h : Head) (d a : BitVec 4)
  | pfirst (h : Head) (d a : BitVec 4)
  | vlane (h : Head) (ty : ETy) (d a : BitVec 4)
  -- execute stream, matrix array
  | mclr (h : Head) (d : BitVec 4)
  | mma (h : Head) (ty : ETy) (d a b : BitVec 4)
  | mread (h : Head) (ty : ETy) (d a b : BitVec 4)
  | maddw (h : Head) (d a j : BitVec 4)
  | mpush (h : Head) (d a j : BitVec 4)
  | mstat (h : Head) (d a : BitVec 4) (clr : Bool)
  -- control stream
  | cntw (h : Head) (c : BitVec 8) (a : BitVec 4)
  | cnts (h : Head) (c : BitVec 8) (a : BitVec 4)
  | cntr (h : Head) (d : BitVec 4) (c : BitVec 8)
  | drift (h : Head) (a : BitVec 4)
  | sealR (h : Head) (a b : BitVec 4)
  | unsealR (h : Head) (a b : BitVec 4)
  | bfmt (h : Head) (fmt a : BitVec 4)
  | dkey (h : Head) (a : BitVec 4)
  -- I-format
  | addi (h : Head) (d a : BitVec 4) (imm : BitVec 10)
  | andi (h : Head) (d a : BitVec 4) (imm : BitVec 10)
  | ori (h : Head) (d a : BitVec 4) (imm : BitVec 10)
  | xori (h : Head) (d a : BitVec 4) (imm : BitVec 10)
  | slli (h : Head) (d a : BitVec 4) (sh : BitVec 10)
  | srli (h : Head) (d a : BitVec 4) (sh : BitVec 10)
  | srai (h : Head) (d a : BitVec 4) (sh : BitVec 10)
  | slti (h : Head) (d a : BitVec 4) (imm : BitVec 10)
  | beq (h : Head) (d a : BitVec 4) (off : BitVec 10)
  | bne (h : Head) (d a : BitVec 4) (off : BitVec 10)
  | blt (h : Head) (d a : BitVec 4) (off : BitVec 10)
  | bge (h : Head) (d a : BitVec 4) (off : BitVec 10)
  | bltu (h : Head) (d a : BitVec 4) (off : BitVec 10)
  | bgeu (h : Head) (d a : BitVec 4) (off : BitVec 10)
  | loop (h : Head) (n : BitVec 3) (rot : Bool) (a : BitVec 4) (len : BitVec 10)
  | waitd (h : Head) (a : BitVec 4) (imm : BitVec 10)
  | formld (h : Head) (f : BitVec 10) (a : BitVec 4)
  | ldxo (h : Head) (d a : BitVec 4) (off : BitVec 10)
  | stxo (h : Head) (d a : BitVec 4) (off : BitVec 10)
  | vbcasti (h : Head) (ty : ETy) (d : BitVec 4) (imm : BitVec 10)
  -- W-format
  | li (h : HeadW) (d : BitVec 4) (imm : BitVec 19)
  | lih (h : HeadW) (d : BitVec 4) (imm : BitVec 19)
  | j (h : HeadW) (off : BitVec 19)
  | jal (h : HeadW) (d : BitVec 4) (off : BitVec 19)
  | waitt (h : HeadW) (d : BitVec 4) (imm : BitVec 19)
  -- P-format: the fields are those of the patched form
  | lstrm (h : HeadP) (g : BitVec 3) (q : BitVec 2) (areg : BitVec 4) (stride cnt : BitVec 16)
  | gathp (h : HeadP) (g : BitVec 3) (q : BitVec 2) (wreg preg : BitVec 4)
  | sstrm (h : HeadP) (g : BitVec 3) (q : BitVec 2) (areg : BitVec 4) (stride cnt : BitVec 16)
  | vtopk (h : HeadP) (g : BitVec 3) (ty : ETy) (k : BitVec 8) (vsrc xsrc vdst xdst : BitVec 4)
  | mmaForm (h : HeadP) (g : BitVec 3) (acc : Bool) (cnt : BitVec 5) (bpair : BitVec 3) (arow : BitVec 4)
      (bty aty : ETy) (tb ta : BitVec 4)
  | mreadForm (h : HeadP) (g : BitVec 3) (rm : RMode) (acc : Bool) (greg : BitVec 4)
      (bandB1 bandB0 bandA : BitVec 16) (b : BitVec 2) (ty : ETy) (td : BitVec 4)
  | dkeySplit (h : HeadP) (g : BitVec 3) (ireg creg : BitVec 4)
  | dkeySetCounter (h : HeadP) (g : BitVec 3) (ireg creg : BitVec 4)
  | copy (h : HeadP) (g : BitVec 3) (dk sk sr ctx : Bool) (wreg : BitVec 4) (wen : Bool) (wctr : BitVec 6)
      (cen : Bool) (ctr : BitVec 6) (nreg lreg dreg sreg : BitVec 4)
  | coll (h : HeadP) (g : BitVec 3) (scope : CollScope) (root fanin count : BitVec 8) (ty : ETy) (red : CollRed)
      (pat : CollPat) (wreg : BitVec 4) (wen : Bool) (wctr ctr : BitVec 6) (nreg lreg dreg sreg : BitVec 4)
  -- conductor
  | condStep (a b : BitVec 4)
  | fence (a b n : BitVec 4)
  | signal (c : BitVec 8) (a : BitVec 4)
  | launch (d a b : BitVec 4)
  | joinc (d : BitVec 4)
  | yieldp
  | hostn (a : BitVec 4) (code : BitVec 8)
  | endConductor
  | cntwConductor (c : BitVec 8) (a : BitVec 4)
  | cntsConductor (c : BitVec 8) (a : BitVec 4)
  | cntrConductor (d : BitVec 4) (c : BitVec 8)
  -- service conductor
  | tlbia (d a : BitVec 4)
  | tlbiv (d a b : BitVec 4)
  | pgret (d a : BitVec 4)
  | celr (d a : BitVec 4)
  | rmcmd (d a : BitVec 4)
  -- region commands
  | place (c : Cmd)
  | start (c : Cmd)
  | yieldCmd (c : Cmd)
  | freeze (c : Cmd)
  | resume (c : Cmd)
  | release (c : Cmd)
  -- events of a region
  | zeroFillComplete (rid : Nat)
  | graphRunBegin (rid : Nat)
  | stepStaged (rid : Nat)
  | stepRendezvous (rid : Nat)
  | planeSwap (rid : Nat)
  | resultWriteback (rid : Nat)
  | bankAccess (rid : Nat)
  | queueAppend (rid : Nat)
  | runningFormStep (rid : Nat)
  | mmaBlockAdd (rid : Nat)
  | channelAccess (rid : Nat)
  | memoryResponse (rid : Nat)
  | wordDeparture (rid : Nat)
  | wordDue (rid : Nat)
  | physicalArrival (rid tile : Nat)
  | linkHoldTimeout (link : Nat)
  | waitEnd (rid : Nat)
  | tickBound (rid : Nat)
  | counterHoldEnd (rid tile : Nat)
  | contextHoldEnd (rid tile : Nat)
  | cntsRelease (rid : Nat)
  | copyOpStart (rid tile ctx : Nat)
  | copyOpComplete (rid tile ctx : Nat)
  | collOpStart (rid : Nat) (scope : CollScope) (peers : List Peer)
  | collOpComplete (rid : Nat) (scope : CollScope)
  | stepStop (rid : Nat)
  | stepReexecute (rid : Nat)
  | runRestart (rid : Nat)
  | freezePoint (rid : Nat)
  | virgaDrainDone (rid : Nat)
  | contextSave (rid : Nat)
  | resumeRestored (rid : Nat)
  | regionFreed (rid : Nat)
  | quarantineSweepDone (die asid : Nat)
  -- tenure, Firmament, time, links
  | tenureBoundary
  | tenureSample
  | grantWordArrival (rid frm : Nat) (cls : BitVec 5)
  | tenureYieldTimeout
  | boundaryBeatSend
  | boundaryBeatArrival (b : Word)
  | boundaryBeatTimeout
  | firmamentBeatSend
  | firmamentBeatArrival (peer : Nat) (value : Word)
  | ppsEdge (sec : Word)
  | ppsSecondCount
  | linkTrainingDone (link : Nat) (t : Training)
  | linkLaneLoss (link : Nat) (lanes : BitVec 8)
  | hostTranslationResponse (rid tile ctx : Nat) (pa : Option Word)
  -- host windows
  | counterWindowWrite (rid c : Nat) (v : Word)
  | memoryWindowRead
  | memoryWindowWrite
  | memoryWindowDone
  | tableStoreWrite (die : Nat) (off : BitVec 28) (v : Word)
  | vdRecordWrite (rid : Nat) (v : BitVec 640)
  | eventRingHeadWrite (v : Word)
  | eventPostResume
  | eventRingConfigWrite (base : Bool) (v : Word)
  -- bring-up, power, identity
  | bootFabric (f : Fabric)
  | firmwareStagingWrite (off : BitVec 22) (data : List Byte)
  | pcapWrite (v : Word)
  | attestationRequest (v : Word)
  | celbaseWrite (v : Word)
  | registerWrite (off : BitVec 30) (v : Word)
  | retirementCopyDone (chan blk : Nat)
  | illegalInstruction (cause : BitVec 4)
  | powerGood
  | moduleReset
  | bootRom
  | bootFw
  | bootReady
  | firmwareCommit
  | attestationDone
  | thermalTrip
  | ppsokClear
  deriving DecidableEq, Repr

end Sys2Proof
end

