-- ==== Sys2Proof/Machine/State.lean ====
section
/-! DEFINITION. The machine state: every piece of state the spec names, as plain data (INVENTORY.md, State). -/

namespace Sys2Proof.Machine

open Host (Cell)

/-- Why a step stops with no next state. -/
inductive Fault where
  /-- An instruction word is executed although the cursor names no sequencer that could issue it.
  Raised by the issue operations; no scheduled step reaches it. Safe: the machine stops. -/
  | noSequencer
  /-- An event of a region or engine is executed although that event is not due.
  Raised by the event meanings; no scheduled step reaches it. Safe: the machine stops. -/
  | notDue
  deriving DecidableEq, Repr

/-- What the model gives no meaning to. -/
inductive Refusal where
  /-- An instruction that has no meaning yet; raised by Dispatch.lean alone. Safe. -/
  | notModelled (mnemonic : String)
  deriving DecidableEq, Repr

/-- A byte memory: cells at strictly rising addresses, none of them zero; an unlisted address reads as zero
(DESIGN CHOICE: log 5). -/
abbrev Memory := List Cell

/-- The sixteen scalar registers of a sequencer, keyed 0 to 15; absent registers are zero (05 R75). -/
abbrev Regs := Tab Word

/-! ## Streams and tiles -/

/-- Stream states (05 R69). -/
inductive StreamSt where
  | empty | loaded | running | waiting | ended | faulted | frozen
  deriving DecidableEq, Repr

/-- An active LOOP (05 R93): byte offsets of the first and last body word, stage count, rotation, kernel
iteration and trip count. -/
structure Loop where
  first : Nat
  last : Nat
  n : Nat
  rot : Bool
  m : Nat
  trips : Nat
  deriving DecidableEq, Repr

/-- One stream of a tile (05). `base` is the tick from which the next word's IDLE counts (01 R13). -/
structure Stream where
  st : StreamSt := .empty
  was : StreamSt := .empty
  pc : Nat := 0
  base : Nat := 0
  s : Regs := []
  forms : Tab (BitVec 128) := []
  plane : Tab (BitVec 32) := []
  shadow : Tab (BitVec 32) := []
  loops : List Loop := []
  endPc : Nat := 0
  lastPc : Nat := 0
  lastTick : Option Nat := none
  deriving DecidableEq, Repr

/-- Where an effect comes from: tile, stream, issue tick, PC and word of its instruction, its S bit (10 R196). -/
structure Org where
  tile : Nat
  k : SeqKind
  issue : Nat
  pc : Nat
  word : BitVec 32
  sq : Bool
  deriving DecidableEq, Repr

/-- A queue entry (06 R113). -/
structure QEntry where
  pay : BitVec 8192
  side : BitVec 1024
  tag : BitVec 4
  deriving DecidableEq, Repr

/-- A queue entry with the instruction that pushed it and the tick at which it was appended (06 R114). -/
structure QSlot where
  ent : QEntry
  org : Org
  tick : Nat
  addr : Word
  deriving DecidableEq, Repr

/-- A row write of a tile register: row key 16·register + row, the bits that are written, their values (07 R142). -/
structure RowW where
  key : Nat
  mask : BitVec 4096
  val : BitVec 4096
  deriving DecidableEq, Repr

/-- A vector operation as it runs through its row groups (07 R140). -/
inductive VOp where
  | add (ty : ETy) | sub (ty : ETy) | mul (ty : ETy) | fma (ty : ETy) | fms (ty : ETy)
  | min (ty : ETy) | max (ty : ETy) | abs (ty : ETy) | neg (ty : ETy)
  | rcp (ty : ETy) | sqrt (ty : ETy) | rsq (ty : ETy) | exp (ty : ETy) | log (ty : ETy) | tanh (ty : ETy) | sig (ty : ETy)
  | and (ty : ETy) | or (ty : ETy) | xor (ty : ETy) | shl (ty : ETy) | shr (ty : ETy) | sra (ty : ETy)
  | cmp (cc : CmpOp) (ty : ETy) | selm | cvt (toF32 : Bool) (rm : RMode) (ty : ETy)
  | mov (ty : ETy) | bcast (ty : ETy) | bcasti (ty : ETy) | lane (ty : ETy)
  | rot (ty : ETy) | shuf (ty : ETy) | trn (ty : ETy) | scan (op : ScanOp) (ty : ETy) | red (op : ScanOp) (ty : ETy)
  | madw (ty : ETy) | addw (ty : ETy) (p : Nat) | draw (ty : ETy) | popc (ty : ETy) | cls (ty : ETy)
  | topk (ty : ETy) (k : Nat)
  deriving DecidableEq, Repr

/-- The operands a vector operation fixed at issue: physical registers, element mask, scalar, index rows and
draw inputs (05 R95, 07 R138, R141, 04 R64). -/
structure VEnv where
  d : Nat
  a : Nat
  b : Nat
  c : Nat
  mask : BitVec 512
  x : BitVec 64
  idx : BitVec 8192
  key : BitVec 64
  ctr : BitVec 64
  did : BitVec 64
  lat : Nat
  deriving DecidableEq, Repr

/-- The readout of an MREAD (08 R172). -/
structure MRead where
  ty : ETy
  rm : RMode
  bandA : BitVec 16
  bandB0 : BitVec 16
  bandB1 : BitVec 16
  row : BitVec 32
  col : BitVec 32
  key : BitVec 64
  ctr : BitVec 64
  deriving DecidableEq, Repr

/-- A scratchpad read at its bank tick (06 R111): of which tile and where it goes. -/
inductive BankRd where
  /-- LDQ: lines from `off` into load queue `q`, landing at `land`. -/
  | ldq (q : Nat) (off : Nat) (land : Nat)
  /-- LDB: one line into every line of the entry. -/
  | ldb (q : Nat) (off : Nat) (land : Nat)
  /-- LDT: sixteen lines `stride` bytes apart, turned (R118). -/
  | ldt (q : Nat) (off : Nat) (stride : Nat) (land : Nat)
  /-- LDG's index line. -/
  | ldgIdx (q : Nat) (base : Word) (off : Nat)
  /-- LDG's sixteen lines. -/
  | ldg (q : Nat) (offs : List Nat) (land : Nat)
  /-- GATHP's window and pattern (R121). -/
  | gathp (q : Nat) (win : Nat) (pat : Nat) (land : Nat)
  /-- LDX and LDXO: eight bytes into scalar register `d`. -/
  | ldx (d : BitVec 4) (off : Nat) (land : Nat)
  /-- FORMLD: sixteen bytes into form entry `f`. -/
  | formld (f : Nat) (off : Nat) (land : Nat)
  /-- SEND's line, offered to circuit `c`. -/
  | send (c : Nat) (off : Nat)
  /-- SCAT's index line. -/
  | scatIdx (base : Word) (off : Nat) (ent : QEntry)
  deriving DecidableEq, Repr

/-- A scratchpad write at its bank tick. -/
inductive BankWr where
  /-- STQ and SSTRM (R115). -/
  | stq (off : Nat) (ent : QEntry)
  /-- STT (R126). -/
  | stt (off : Nat) (stride : Nat) (ent : QEntry)
  /-- SCAT's lines. -/
  | scat (offs : List Nat) (ent : QEntry)
  /-- STX and STXO. -/
  | stx (off : Nat) (v : Word)
  /-- RECV. -/
  | recv (off : Nat) (line : BitVec 512)
  deriving DecidableEq, Repr

/-- What an HBM4E line request does at its channel tick (06 R131, R134). -/
inductive ChanOp where
  | read
  /-- bytes written, from byte `lo` of the line -/
  | write (lo : Nat) (n : Nat) (v : BitVec 512)
  | atom (op : AtomOp) (lo : Nat) (x y : Word)
  | atomf (op : AtomfOp) (lo : Nat) (x y : Word)
  deriving DecidableEq, Repr

/-- Where a word on a circuit arrives from (10 R196, R198). -/
inductive Src where
  | north | east | south | west | loc | mem | pipe
  deriving DecidableEq, Repr

/-- What an effect does when it is due. A bank read with `drop` takes place and claims its port, but what it would land or
do next has been cancelled. -/
inductive Act where
  | reg (d : BitVec 4) (v : Word)
  | form (f : Nat) (v : BitVec 128)
  | rows (ws : List RowW) (sets : List (Nat × BitVec 1024))
  | pmask (p : Nat) (v : BitVec 512)
  | ctrl (c : BitVec 8) (v : Word)
  | driftw
  | key (v : BitVec 64)
  | fmt (bank : Nat) (f : BitVec 4)
  | mclr (m : Bool)
  | msatClr (m : Bool)
  | mread (p : MRead) (d : Nat) (i : Nat) (rows : List (BitVec 12288))
  | maddw (m : Bool) (row : Nat) (rows : List (BitVec 4096))
  | mmaAdd (m : Bool) (aty bty : ETy) (aRow : BitVec 4096) (aSet : BitVec 1024) (aHi : Bool)
      (b0 b1 : BitVec 4096) (s0 s1 : BitVec 1024)
  | front (c : Nat) (v : Word)
  | release (c : Nat) (v : Word)
  | push (q : Nat) (ent : QEntry) (addr : Word)
  | trim (q : Nat)
  | vec (op : VOp) (e : VEnv) (g : Nat)
  | maddwRd (m : Bool) (row : Nat) (a : Nat) (g : Nat)
  | mmaBlk (m : Bool) (aty bty : ETy) (ta tb : Nat) (arow : Nat) (bpair : Nat) (left : Nat)
  | lstrm (q : Nat) (addr : Word) (stride : Int) (k : Nat) (left : Nat)
  | sstrm (q : Nat) (addr : Word) (stride : Int) (k : Nat) (left : Nat)
  | bankRd (r : BankRd) (drop : Bool)
  | bankWr (w : BankWr)
  | chan (req : Nat) (pos : Nat) (va : Word) (op : ChanOp)
  | resp (req : Nat) (queue : Bool)
  | depart (c : Nat) (line : BitVec 512)
  | word (c : Nat) (line : BitVec 512) (src : Src)
  | fault (cls cause : Nat) (addr : Word)
  deriving DecidableEq, Repr

/-- An effect in flight: due tick, phase of its tick, the tile whose state it acts on, its origin, and a rank
among effects of one instruction. -/
structure Eff where
  due : Nat
  phase : Nat
  tile : Nat
  org : Org
  sub : Nat
  act : Act
  deriving DecidableEq, Repr

/-- Why a tile does not begin its next tick (02 R27; 12 R231, R235; 13 R254). `pc` and `word` are those of the
instruction that holds. -/
inductive Hold where
  | none
  | counter (c : Nat) (n : Word) (org : Org)
  | context (ctx : Nat) (org : Org)
  /-- a word of a link has not physically arrived -/
  | word (link : Nat)
  deriving DecidableEq, Repr

/-- A soft error standing in a word of the tile (21 R324). -/
inductive Soft where
  | none | single | double
  deriving DecidableEq, Repr

/-- One logical tile of a region. `before` holds, with its tick, what a row was before that tick's writes (07 R143). Scratchpad lines are keyed by line number, banks by bank number, rows by
16·register + row, sets by 8·register + pair, accumulator rows by 64·accumulator + row, queues lq0 to lq3 by 0 to 3
and sq0 to sq3 by 4 to 7, soft errors by 64-bit word: ten of a line, the last two its sideband; `virgaSoft` are those of the virga area. -/
structure Tile where
  tick : Nat := 0
  hold : Hold := .none
  ld : Stream := {}
  ex : Stream := {}
  st : Stream := {}
  ct : Stream := {}
  rotb : Nat := 0
  driftw : Bool := false
  key : BitVec 64 := 0
  drawCtr : Word := 0
  drawId : Word := 0
  spad : Memory := []
  side : Memory := []
  zflag : BitVec 24576 := 0
  wflag : BitVec 24576 := 0
  banks : Tab (BitVec 8) := []
  queues : Tab (List QSlot) := []
  rows : Tab (BitVec 4096) := []
  sets : Tab (BitVec 1024) := []
  masks : Tab (BitVec 512) := []
  acc : Tab (BitVec 12288) := []
  sat0 : Bool := false
  sat1 : Bool := false
  arrayBusy : Nat := 0
  outst : List (Nat × Nat) := []
  armed : Bool := false
  virga : List (Src × Eff) := []
  /-- the window of a DRIFT that found the tile idle, and whether it is accelerated (20 R316, R317) -/
  drift : Option (Nat × Nat × Bool) := none
  soft : Tab Soft := []
  virgaSoft : List Soft := []
  before : List (Nat × Nat × BitVec 4096) := []
  deriving DecidableEq, Repr

/-! ## Steps -/

/-- A loop-nest record (11 R213). -/
structure Nest where
  depth : Nat
  perm : List Nat
  ext : List Nat
  deriving DecidableEq, Repr

/-- A footprint record (16 R268). -/
structure Foot where
  base : Word
  count : Nat
  big : Bool
  w : Bool
  repl : Bool
  deriving DecidableEq, Repr

/-- A circuit record (13 R244). -/
structure Circ where
  c : Nat
  plog : Nat
  slot : Nat
  x0 : Nat
  y0 : Nat
  x1 : Nat
  y1 : Nat
  mc : Bool
  group : Nat
  deriving DecidableEq, Repr

/-- A seam declaration (10 R185): axis 0 none, 1 x, 2 y; boundary; latency. -/
structure Seam where
  axis : Nat := 0
  pos : Nat := 0
  lat : Nat := 0
  deriving DecidableEq, Repr

/-- A filled line: line number, payload and sideband (11 R211). -/
structure Fill where
  line : Nat
  data : BitVec 512
  side : BitVec 128
  deriving DecidableEq, Repr

/-- A loaded channel-TLB entry (16 R269). -/
structure Tlb where
  va : Word
  big : Bool
  frame : Nat
  rframe : Nat
  w : Bool
  repl : Bool
  deriving DecidableEq, Repr

/-- A step image as its STEP reads it (11 R210 to R213), with the parameter and the run's key. -/
structure Img where
  va : Word
  param : Word
  key : BitVec 64
  len : Nat
  arch : BitVec 16
  energy : Nat
  tregs : Nat
  freezen : Nat
  seam : Seam
  draws : Word
  planes : List (Tab (BitVec 32))
  forms : List (Tab (BitVec 128))
  banks : Tab (BitVec 8)
  nest : Option Nest
  foot : List Foot
  circs : List Circ
  groups : Tab (BitVec 128)
  carried : BitVec 24576
  anyCarried : Bool
  fills : List Fill
  /-- the entries its admission loads into the channel TLBs (16 R269) -/
  tlb : List Tlb
  deriving DecidableEq, Repr

/-- A fault of a step as it is recorded (21 R318, R320). `setidx` is the channel-set index of the line that a memory fault names
(16 R270). -/
structure FaultRec where
  tick : Nat
  tile : Nat
  seq : Nat
  issue : Nat
  cls : Nat
  cause : Nat
  pc : Nat
  word : BitVec 32
  addr : Word
  aux : Word
  setidx : Nat
  deriving DecidableEq, Repr

/-- What the device logs of a request that broke an obligation: the region's ASID and the address; the fault, with what R270 and R281
ask for, or none where an engine operation failed (00 R11; 12 R229; 16 R270, R281). -/
structure Logged where
  asid : Nat
  addr : Word
  fault : Option FaultRec
  deriving DecidableEq, Repr

/-- A pending SEAL or UNSEAL (16 R275). -/
structure SealEff where
  org : Org
  add : Bool
  base : Word
  len : Word
  deriving DecidableEq, Repr

/-- Where the answer of a timed HBM4E access goes: nowhere, into a load queue with a tag, or eight bytes from `lo` of its
line into a scalar register. -/
inductive Dest where
  | none
  | queue (q : Nat) (tag : BitVec 4)
  | reg (d : BitVec 4) (lo : Nat)
  deriving DecidableEq, Repr

/-- A request of a timed HBM4E access (06 R131, R132): payload lines of `nline`, the lines as they come back, and the
first failure's cause and channel-set index. A branch drops it (03 R34); LSTOP stops its push (06 R124). -/
structure Req where
  id : Nat
  org : Org
  addr : Word
  dest : Dest
  npay : Nat
  nline : Nat
  got : List (Nat × BitVec 512) := []
  fail : Option (Nat × Nat) := none
  dropped : Bool := false
  stopped : Bool := false
  deriving DecidableEq, Repr

/-- A place a copy reads or writes: lines of a tile's copy banks, or a range of virtual addresses (12 R233). -/
inductive Loc where
  | spad (tile : Nat) (off : Nat)
  | va (a : Word)
  deriving DecidableEq, Repr

/-- States of an engine operation. -/
inductive OpSt where
  | waiting | started | done
  deriving DecidableEq, Repr

/-- A copy operation (12 R235). `hostSrc` and `hostDst` are the host's answers for the pages of a host side so far, `refused` the address
whose translation it refused (16 R264). -/
structure CopyOp where
  tile : Nat
  ctx : Nat
  issue : Nat
  src : Loc
  dst : Loc
  len : Nat
  dlen : Nat
  sr : Bool
  key : BitVec 64
  num : Word
  ctr : Option Nat
  wait : Option (Nat × Word)
  st : OpSt
  hostSrc : List Word
  hostDst : List Word
  refused : Option Word
  deriving DecidableEq, Repr

/-- One participant's COLL of an operation (13 R254). -/
structure Contrib where
  tile : Nat
  rank : Nat
  issue : Nat
  src : Loc
  dst : Loc
  wait : Option (Nat × Word)
  pat : CollPat
  red : CollRed
  ty : ETy
  count : BitVec 8
  fanin : BitVec 8
  root : BitVec 8
  len : Nat
  ctr : Nat
  deriving DecidableEq, Repr

/-- A collective operation of a region on one scope (13 R254). -/
structure CollOp where
  scope : CollScope
  idx : Nat
  num : Word
  ctr : Nat
  parts : List Contrib
  peers : List Peer
  st : OpSt
  failed : Bool
  /-- the address that is logged where the operation fails (12 R229) -/
  addr : Word
  /-- ranks' source lines that are not there, or a rank's whole source -/
  lost : List (Nat × Option Nat)
  /-- operation's sources as they stood when it started, by rank (R255) -/
  data : List (Nat × List Byte)
  deriving DecidableEq, Repr

/-- What a CNTW of a tile acquired (12 R231): counter, value, tick. -/
structure Acq where
  tile : Nat
  c : Nat
  n : Word
  tick : Nat
  deriving DecidableEq, Repr

/-- A line's contents before the step first wrote it; `atomic` where its first writer was an atomic (17 R289). -/
structure Undo where
  line : Nat
  data : BitVec 512
  stamp : BitVec 32
  atomic : Bool
  deriving DecidableEq, Repr

/-- A range of bytes that an operation reads or writes (12 R237). -/
structure OpRange where
  loc : Loc
  n : Nat
  w : Bool
  deriving DecidableEq, Repr

/-- A channel tick that a line of a tile has claimed (06 R132). -/
structure Claim where
  ch : Nat
  tick : Nat
  tile : Nat
  line : Nat
  read : Bool
  deriving DecidableEq, Repr

/-- The running step of a region. -/
structure Run where
  img : Img
  epoch : Nat
  effs : List Eff := []
  reqs : List Req := []
  nextReq : Nat := 0
  lastDep : Tab Nat := []
  ports : List (Nat × Nat × Nat × Bool) := []
  chans : List Claim := []
  faults : List FaultRec := []
  stop : Option Nat := none
  f : Option Nat := none
  copies : List CopyOp := []
  acqs : List Acq := []
  /-- changes of a counter's FRONT and bindings in this step: counter, tick, tile, FRONT and whether it was BOUND before -/
  fronts : List (Nat × Nat × Nat × Word × Bool) := []
  seals : List SealEff := []
  sealed0 : List (Word × Word) := []
  undo : List Undo := []
  /-- lines that the step has written since the host was last told of its writes, as they were then (17 R291) -/
  fresh : List Undo := []
  lost : List (Nat × Nat) := []
  badCarried : Bool := false
  /-- uncorrectable errors that tiles have read in their scratchpads: tile, tick, word (21 R327) -/
  errs : List (Nat × Nat × Nat) := []
  reexec : Nat := 0
  fabric : Bool := false
  /-- COLLs issued by each rank of each scope when the step began (13 R254; 21 R324) -/
  collCount0 : Tab Nat := []
  deriving DecidableEq, Repr

/-! ## Conductors, counters and regions -/

/-- A conductor run of a graph (11 R219 to R226). `kids` are its PENDING children: ordinal, graph VA, argument, and
whether the pool entry is a shared one. -/
structure Graph where
  va : Word
  clen : Nat
  arch : BitVec 16
  imgBase : Word
  imgLen : Nat
  pbuf : Word
  plen : Nat
  key : BitVec 64
  ctr : Nat
  depth : Nat
  ord : Nat
  arg : Word
  shared : Bool
  pc : Nat
  s : Regs
  nextOrd : Nat
  kids : List (Nat × Word × Word × Bool)
  /-- JOINC, END or LAUNCH in progress: children run so far -/
  joined : Nat
  deriving DecidableEq, Repr

/-- A launch record (10 R190, 11 R220); `now` marks the graph that runs now and has not begun yet: it is not queued. -/
structure Launch where
  graph : Word
  ctr : Nat
  patch : List Byte
  now : Bool
  deriving DecidableEq, Repr

/-- Counter states (12 R227). -/
inductive CtrSt where
  | free | signalled | bound
  deriving DecidableEq, Repr

/-- A timeline counter (12 R227, R239). `first` and `addr` are the number of the first failed operation and the address it failed at
(12 R229); `ctx` is the code of the owning context and `tile` its tile; `ctrOf` marks the
completion counter of the running START. -/
structure Ctr where
  value : Word := 0
  front : Word := 0
  st : CtrSt := .free
  ctx : Nat := 0
  tile : Nat := 0
  err : Bool := false
  first : Word := 0
  addr : Word := 0
  ctrOf : Bool := false
  deriving DecidableEq, Repr

/-- Region states (10 R188). -/
inductive RegSt where
  | free | zeroing | placed | running | yielding | halting | frozen | yielded | resuming | releasing
  deriving DecidableEq, Repr

/-- A placement (10 R182). -/
structure Place where
  x0 : Nat
  y0 : Nat
  rot : Nat
  deriving DecidableEq, Repr

/-- Conductor state that a yield or a restart keeps (10 R200, 21 R325). -/
structure Kept where
  graphs : List Graph
  shared : Nat
  reserved : Tab Nat
  afterYield : Bool
  collCount : Tab Nat
  deriving DecidableEq, Repr

/-- An event entry before it is posted (20 R306): source, kind, code, command, payload. -/
structure Event where
  src : Nat
  kind : Nat
  code : Nat
  cmd : Nat
  payload : Word
  deriving DecidableEq, Repr

/-- What a word learned of a counter at its issue tick: counter, tick, tile, and whether it claimed it. Two kinds of further keys stand
beside the counters: 64 the pending seals, 66 to 68 the operations of an engine scope. -/
structure Look where
  key : Nat
  tick : Nat
  tile : Nat
  claims : Bool
  deriving DecidableEq, Repr

/-- A COPY or COLL that was issued, or that failed at its issue, with its ranges, and those for which channels judged claims before it
(12 R237; 17 R287). -/
structure Tried where
  tile : Nat
  tick : Nat
  ranges : List OpRange
  judged : List OpRange
  deriving DecidableEq, Repr

/-- A tile that is due something from a held one, and holds in turn (02 R27): `tile` does not begin tick `tick` as long as tile
`behind` cannot begin tick `upto`; with `only`, that stream alone issues nothing at `tick` or later. -/
structure Bar where
  tile : Nat
  tick : Nat
  behind : Nat
  upto : Nat
  only : Option SeqKind := none
  deriving DecidableEq, Repr

/-- What a running step was when a tile held and the others went on, to go back to where it shows that one of them was due
something from the held tile (02 R27; 01 R13). `lines` and `host` are what has been written since, `looks` what words have
learned, `due` the effects of other tiles that were there when their tile began its tick, `tried` the COPYs and COLLs so far and `last`
the newest one, `late` what has shown. DEDUCED: log 31. -/
structure Mark where
  tiles : List Tile
  run : Run
  colls : List CollOp
  collCount : Tab Nat
  ctrs : Tab Ctr
  logged : Nat
  lines : List Undo := []
  host : List (Nat × List Byte) := []
  looks : List Look := []
  due : List Eff := []
  tried : List Tried := []
  last : Option Tried := none
  late : List Bar := []
  deriving DecidableEq, Repr

/-- A line that a step wrote, as it was, of a step that has been published to the host: the position in the event ring of the first event
that publishes it, and the counters that do (17 R291, R241). The host has seen the write once it has seen one of these. -/
structure Shown where
  was : Undo
  event : Option Nat
  ctrs : List Nat
  deriving DecidableEq, Repr

/-- A region. `crc` counts the mismatches of each tile's transfers; `restage` is a step whose shadow copy a freeze has discarded,
`restaging` says that it is staged again, `stepPc` and `stepWord` are those of its STEP (11 R212, R217); `unpub` holds what lines held before steps that have ended wrote them, as long as nothing has published those
steps to the host, `shown` what has been published and the host has not seen (17 R291); `awaits` are the peers whose grant words are due in this tenure
(20 R315). -/
structure Region where
  st : RegSt := .free
  w : Nat := 1
  h : Nat := 1
  place : Place := ⟨0, 0, 0⟩
  holds : Bool := false
  saved : Bool := false
  k : Nat := 0
  cs : List Nat := []
  asid : Nat := 0
  service : Bool := false
  shared : Bool := false
  slot : Nat := 0
  rotmask : BitVec 4 := 0
  seam : Seam := {}
  descAddr : Word := 0
  startQ : List Launch := []
  cmdQ : List Cmd := []
  ctrs : Tab Ctr := []
  graphs : List Graph := []
  begun : Bool := false
  poolShared : Nat := 0
  poolRes : Tab Nat := []
  afterYield : Bool := false
  staging : Option Img := none
  crc : Tab Nat := []
  staged : Option Img := none
  restage : Option Img := none
  restaging : Bool := false
  stepPc : Nat := 0
  stepWord : BitVec 32 := 0
  run : Option Run := none
  tiles : List Tile := []
  steps : Nat := 0
  colls : List CollOp := []
  collCount : Tab Nat := []
  seals : List (Word × Word) := []
  admitted : Tab Nat := []
  draining : Bool := false
  frames : List (BitVec 512) := []
  condFault : Option FaultRec := none
  restart : Option Kept := none
  /-- STEPs that have been STAGED since the restart record was taken or gone back to, and the most of them that the measurement holds
  (23 R349) -/
  sinceRecord : Nat := 0
  measured : Nat := 0
  kept : Option Kept := none
  grant : Option Nat := some 15
  nextGrant : Option Nat := some 15
  vd : BitVec 640 := 0
  split : Bool := false
  grantWords : Tab Nat := []
  awaits : List Nat := []
  rmeas : BitVec 256 := 0
  evSeq : BitVec 16 := 0
  unpub : List Undo := []
  shown : List Shown := []
  log : List Logged := []
  mark : Option Mark := none
  bars : List Bar := []
  deriving DecidableEq, Repr

/-! ## The module -/

/-- Boot, firmware and identity (02 R21; 23 R346 to R350, R355, R356). `st` is BOOTST.STATE; `fabric` says that the work of state FABRIC
is done, `fused` that the identity block has been fused, with `seed` as the seed of its key pair. -/
structure Boot where
  st : Nat := 0
  cause : Nat := 0
  slotb : Nat := 0
  slot : Nat := 0
  flash0 : Memory := []
  flash1 : Memory := []
  version : BitVec 32 := 0
  fwdig : BitVec 256 := 0
  good0 : BitVec 64 := BitVec.allOnes 64
  good1 : BitVec 64 := BitVec.allOnes 64
  resets : Word := 1
  minv : BitVec 32 := 0
  vkey : BitVec 256 := 0
  seed : BitVec 256 := 0
  fused : Bool := false
  pub : BitVec 512 := 0
  cert : BitVec 8192 := 0
  fabric : Bool := false
  deriving DecidableEq, Repr

/-- Power and heat (23 R351 to R354, R356). `tj` is the hottest junction over the last 100 µs in 1/64 °C, `flowOk`
whether the flow is within its rating, `flowLow` whether it has been below it for 1 s, `tripping` whether a trip is due. -/
structure Power where
  pcap : BitVec 11 := 1800
  thead : BitVec 11 := 0
  tjReg : BitVec 16 := 0
  trip : Bool := false
  tj : BitVec 16 := 1600
  flowOk : Bool := true
  flowLow : Bool := false
  tripping : Bool := false
  deriving DecidableEq, Repr

/-- A Firmament beat that a bundle owes: peer, count at which it is due, value it must hold (20 R312). -/
structure Beat where
  peer : Nat
  due : Nat
  value : Nat
  deriving DecidableEq, Repr

/-- A shared slot whose holder gives way to a chosen region, and the count of the 250 µs limit while it stands (10 R206). -/
structure Swap where
  slot : Nat
  holder : Option Nat
  chosen : Nat
  due : Option Nat
  deriving DecidableEq, Repr

/-- The Firmament count, real time and tenures (20 R312, R313; 10 R204; 23 R356). `secCount` is the count at which the
present second began, `counted` the number of seconds counted since the last edge, and `nextTenure` the number in that second of the tenure that begins next; `bprev` is the last tenure boundary,
`bnext` one that a boundary beat has announced; `beat` is the count of the next Firmament beats, `beats` those not yet come. -/
structure Time where
  count : Nat := 0
  member : Nat := 0
  size : Nat := 1
  ppsok : Bool := false
  tsec : Word := 0
  tcount : Word := 0
  secCount : Nat := 0
  counted : Nat := 0
  nextTenure : Nat := 0
  bprev : Nat := 0
  bnext : Option Nat := none
  sampled : Bool := true
  beat : Nat := 0
  beats : List Beat := []
  swaps : List Swap := []
  deriving DecidableEq, Repr

/-- Link states (20 R302). -/
inductive LinkSt where
  | down | training | locked | degraded | failed
  deriving DecidableEq, Repr

/-- A link (20 R304). -/
structure Link where
  st : LinkSt := .down
  lat : BitVec 16 := 0
  width : BitVec 8 := 0
  peer : BitVec 8 := 0
  fails : BitVec 8 := 0
  attempts : Nat := 0
  deriving DecidableEq, Repr

/-- The event ring (20 R306, R307; 23 R355). -/
structure Ring where
  base : Word := 0
  size : Word := 0
  head : Word := 0
  tail : Word := 0
  waiting : List Event := []
  modSeq : BitVec 16 := 0
  deriving DecidableEq, Repr

/-- The memory window (20 R309). -/
structure MemWin where
  asid : BitVec 10 := 0
  va : Word := 0
  write : Bool := false
  err : Bool := false
  done : Bool := false
  busy : Bool := false
  reason : BitVec 4 := 0
  data : BitVec 512 := 0
  deriving DecidableEq, Repr

/-- An event that the corrected-error log takes: kind, location, region, detail, count and time of its detection, and the event that its
entry causes; `pending` while its detail says nothing yet of how its step went on (21 R327, R329). -/
structure CelEv where
  kind : Nat
  loc : Nat
  region : Nat
  detail : BitVec 512
  count : Nat
  time : Word
  event : Option Event
  pending : Bool
  deriving DecidableEq, Repr

/-- The corrected-error log (21 R327 to R330). `entries` are keyed by ring position, `sigs` by slot; `wait` are events detected and not yet
appended, `lastCount` and `lastLoc` are those of the event detected last. -/
structure CelLog where
  head : Word := 0
  base : Word := 0
  ovf : Word := 0
  entries : Tab (BitVec 1024) := []
  sigs : Tab (BitVec 512) := []
  chain : BitVec 256 := 0
  wait : List CelEv := []
  lastCount : Nat := 0
  lastLoc : Nat := 0
  deriving DecidableEq, Repr

/-- Attestation (23 R350, R356). `body` holds bytes 0 to 127 of the report in progress. -/
structure Attest where
  nonce : BitVec 256 := 0
  rid : BitVec 5 := 0
  done : Bool := false
  err : Bool := false
  busy : Bool := false
  body : BitVec 1024 := 0
  rep : BitVec 1536 := 0
  deriving DecidableEq, Repr

/-- ASID states (16 R273). -/
inductive AsidSt where
  | free | bound (rid : Nat) | quarantined
  deriving DecidableEq, Repr

/-- A retirement frame that is COPYING or RETIRED (16 R279, R280). `lost` are its lost granules, by 1 KiB position. -/
structure Retire where
  chan : Nat
  blk : Nat
  spare : Nat
  retired : Bool
  lost : List Nat
  deriving DecidableEq, Repr

/-- A range the region manager holds sealed for a run (11 R219). -/
structure RmSeal where
  rid : Nat
  depth : Nat
  base : Word
  len : Nat
  deriving DecidableEq, Repr

/-- A page's leaf, recorded when the page became sealed, and whether its replica frames are filled (16 R277, R278). -/
structure PageRec where
  rid : Nat
  page : Word
  big : Bool
  leaf : Word
  replicated : Bool
  deriving DecidableEq, Repr

/-- Memory of the module: HBM4E bytes keyed channel·2^31 + local address with channel = 128·die + n, stamps and standing
errors by line, table stores keyed die·2^28 + offset, host bytes by host physical address. -/
structure Mem where
  hbm : Memory := []
  stamps : Tab (BitVec 32) := []
  ecc : Tab Soft := []
  table : Memory := []
  host : Memory := []
  walk : Tab Word := []
  retire : List Retire := []
  spares : Tab Nat := []
  withdrawn : List Nat := []
  store : Tab Nat := []
  rmSeals : List RmSeal := []
  pages : List PageRec := []
  deriving DecidableEq, Repr

/-- Which sequencer issues the word being executed; of a conductor, the word it fetched from its code; or that a region's oldest queued
command is taken. -/
inductive Cur where
  | none
  | stream (rid tile : Nat) (k : SeqKind)
  | conductor (rid : Nat) (word : BitVec 32)
  | queue
  deriving DecidableEq, Repr

/-- A change of the world outside the module that is no row of the table: manufacture, board and memory errors.
DEDUCED: log 12. -/
inductive Env where
  | flash (slot : Nat) (img : Memory)
  | identity (good0 good1 : BitVec 64) (vkey seed : BitVec 256) (cert : BitVec 8192)
  | host (addr : Nat) (data : List Byte)
  | heat (tj : BitVec 16) (flowOk flowLow : Bool)
  | softTile (rid tile word : Nat) (s : Soft)
  /-- an error in a tile's virga area -/
  | softVirga (rid tile : Nat) (s : Soft)
  /-- the next thing a tile of the region does reads a register, queue, form, plane or pipeline word with a parity error -/
  | parity (rid : Nat)
  | softLine (line : Nat) (s : Soft)
  | crcMismatch (rid tile : Nat)
  /-- ticks at which nothing happens go by -/
  | idle (rid tick : Nat)
  | lateWord (rid tile link : Nat)
  /-- the host has seen what the region has published -/
  | saw (rid : Nat)
  deriving DecidableEq, Repr

/-- Who moves next: an event or command named outright, a region's next step, the Firmament count, a read of the management aperture by
the host, or the world. -/
inductive Turn where
  | ext (i : Instr)
  | region (rid : Nat)
  | time
  | read (off : Nat)
  | env (e : Env)
  deriving DecidableEq, Repr

/-- The machine. `slots` holds the footprint of each shared slot, none where nothing of it is placed (10 R202); `got` is what the host's
last read of the management aperture returned, none where it was refused or lost. -/
structure State where
  regions : Tab Region
  mem : Mem
  boot : Boot
  power : Power
  time : Time
  links : Tab Link
  spareFor : Tab Nat
  asids : Tab AsidSt
  slots : Tab (List (Nat × Nat))
  tenureRows : Tab (BitVec 512)
  ring : Ring
  win : MemWin
  port : BitVec 512
  reqLog : Tab (BitVec 256)
  reqSeq : Word
  cel : CelLog
  att : Attest
  cur : Cur
  turns : List Turn
  got : Option Word
  free : Nat
  deriving DecidableEq, Repr

/-- The machine right after module reset: boot state ROM, every register at its reset value, nothing placed,
memory with nothing listed (23 R346; DESIGN CHOICE: log 5 to 9 for values the spec does not give). -/
def State.reset : State where
  regions := []
  mem := {}
  boot := {}
  power := {}
  time := {}
  links := []
  spareFor := []
  asids := []
  slots := []
  tenureRows := []
  ring := {}
  win := {}
  port := 0
  reqLog := []
  reqSeq := 0
  cel := {}
  att := {}
  cur := .none
  turns := []
  got := none
  free := 0

end Sys2Proof.Machine
end

