-- ==== Sys2Proof/Machine/Store.lean ====
section
/-! DEFINITION. Tables and byte memories in canonical form, and the bit helpers the machine's operations share. -/

namespace Sys2Proof.Machine

open Host (Cell)

/-! ## Tables -/

/-- The value of a table at a key, `d` where the key is absent. -/
def tabGet {β : Type} (d : β) (t : Tab β) (k : Nat) : β :=
  match t with
  | [] => d
  | (j, v) :: t => if j = k then v else tabGet d t k

/-- The table with `k` at `v`; writing the default removes the entry. -/
def tabSet {β : Type} [DecidableEq β] (d : β) (t : Tab β) (k : Nat) (v : β) : Tab β :=
  match t with
  | [] => if v = d then [] else [(k, v)]
  | (j, u) :: t =>
    if j < k then (j, u) :: tabSet d t k v
    else if j = k then (if v = d then t else (k, v) :: t)
    else if v = d then (j, u) :: t else (k, v) :: (j, u) :: t

/-- Canonical form: keys strictly rising, no entry equal to the default. -/
def tabWf {β : Type} [DecidableEq β] (d : β) : Tab β → Bool
  | [] => true
  | [(_, v)] => decide (v ≠ d)
  | (j, v) :: (k, u) :: t => decide (v ≠ d) && decide (j < k) && tabWf d ((k, u) :: t)

/-! ## Memories -/

/-- What an address that no cell lists reads as (DESIGN CHOICE: log 5). -/
def Memory.unlisted : Byte := 0

/-- The byte at an address. -/
def memGet (m : Memory) (a : Nat) : Byte := tabGet Memory.unlisted m a

/-- Canonical form of a memory. DESIGN CHOICE: log 5. -/
def Memory.wf (m : Memory) : Bool := tabWf Memory.unlisted m

/-- The low byte of a number shifted down by `i` bytes. -/
def byteOf (v i : Nat) : Byte := BitVec.ofNat 8 (v >>> (8 * i))

/-- The cells of `n` bytes of `v`, little-endian, from address `a` on; zero bytes are not listed. -/
def cellsOf (a v : Nat) : Nat → List Cell
  | 0 => []
  | n + 1 => (if byteOf v 0 = Memory.unlisted then [] else [(a, byteOf v 0)]) ++ cellsOf (a + 1) (v >>> 8) n

/-- The memory with `n` bytes of `v` written from address `a` on, little-endian (00 R6). -/
def memWrite (m : Memory) (a n v : Nat) : Memory :=
  m.filter (fun c => c.1 < a) ++ cellsOf a v n ++ m.filter (fun c => a + n ≤ c.1)

/-- The `n` bytes from address `a` on as a little-endian number. -/
def memRead (m : Memory) (a n : Nat) : Nat :=
  m.foldl (fun acc c => if a ≤ c.1 ∧ c.1 < a + n then acc ||| (c.2.toNat <<< (8 * (c.1 - a))) else acc) 0

/-- Bytes as a little-endian number. -/
def bytesToNat : List Byte → Nat
  | [] => 0
  | b :: bs => b.toNat ||| (bytesToNat bs <<< 8)

/-- The `n` bytes of a number, little-endian. -/
def natToBytes (v : Nat) : Nat → List Byte
  | 0 => []
  | n + 1 => BitVec.ofNat 8 v :: natToBytes (v >>> 8) n

/-! ## Bits -/

/-- Bits `[lo + len - 1 : lo]` of a number. -/
def bitsOf (v lo len : Nat) : Nat := (v >>> lo) % 2 ^ len

/-- The bits of a bit vector as a number. -/
def slice {n : Nat} (v : BitVec n) (lo len : Nat) : Nat := bitsOf v.toNat lo len

/-- A two's-complement number of `len` bits. -/
def signed (v len : Nat) : Int := if v < 2 ^ (len - 1) then (v : Int) else (v : Int) - (2 ^ len : Nat)

/-- A number modulo 2^w as a bit vector, for integers. -/
def wrap (w : Nat) (x : Int) : BitVec w := BitVec.ofInt w x

/-- Packs elements of `w` bits, the first at the bottom. -/
def packNat (w : Nat) : List Nat → Nat
  | [] => 0
  | e :: es => (e % 2 ^ w) ||| (packNat w es <<< w)

/-- The elements of `w` bits of a number, `n` of them, the lowest first. -/
def unpackNat (w v : Nat) : Nat → List Nat
  | 0 => []
  | n + 1 => v % 2 ^ w :: unpackNat w (v >>> w) n

/-- Packs elements of `w` bits from a function. -/
def packFn (w n : Nat) (f : Nat → Nat) : Nat := packNat w ((List.range n).map f)

/-- A mask of `n` elements of `w` bits, all ones where `p` holds. -/
def maskFn (w n : Nat) (p : Nat → Bool) : Nat := packFn w n (fun i => if p i then 2 ^ w - 1 else 0)

/-- The number of one bits among the lowest `n`. -/
def popN (v : Nat) : Nat → Nat
  | 0 => 0
  | n + 1 => v % 2 + popN (v >>> 1) n

/-- The index of the lowest one bit among `n`, or `n`. -/
def lowestBit (v : Nat) : Nat → Nat
  | 0 => 0
  | n + 1 => if v % 2 = 1 then 0 else 1 + lowestBit (v >>> 1) n

/-- The number of leading zero bits of a word of `n` bits. -/
def leadZeros (v n : Nat) : Nat := if v = 0 then n else n - 1 - v.log2

/-- The first entry of a list that satisfies `p`, replaced by `f` of it. -/
def mapFirst {α : Type} (p : α → Bool) (f : α → α) : List α → List α
  | [] => []
  | x :: xs => if p x then f x :: xs else x :: mapFirst p f xs

/-- The list with the first entry that satisfies `p` removed. -/
def dropFirst {α : Type} (p : α → Bool) : List α → List α
  | [] => []
  | x :: xs => if p x then xs else x :: dropFirst p xs

/-- The least of a list of numbers. -/
def leastOf : List Nat → Option Nat
  | [] => none
  | x :: xs =>
    match leastOf xs with
    | none => some x
    | some y => some (min x y)

end Sys2Proof.Machine
end

