-- ==== Sys2Proof/Machine/Crypto.lean ====
section
/-! DEFINITION. SHA-256 and CRC-32C, as their published standards define them (PRESUMED: log 3), for measurements, firmware
digests, the corrected-error log and the tile part (11 R212; 21 R328; 23 R347, R349, R350). -/

namespace Sys2Proof.Machine

/-! ## SHA-256 -/

/-- The largest `r` with `r ^ k ≤ x`, bit by bit from bit `n - 1` down, above those found. -/
def rootFrom (k x : Nat) : Nat → Nat → Nat
  | 0, r => r
  | n + 1, r => rootFrom k x n (if (r + 2 ^ n) ^ k ≤ x then r + 2 ^ n else r)

/-- The first 32 bits of the fraction of the `k`-th root of a number below 512. -/
def rootFraction (k p : Nat) : BitVec 32 := BitVec.ofNat 32 (rootFrom k (p * 2 ^ (32 * k)) 37 0)

/-- The first 64 primes. -/
def shaPrimes : List Nat :=
  (List.range 312).filter (fun p => decide (2 ≤ p) && [2, 3, 5, 7, 11, 13, 17].all (fun d => p == d || p % d != 0))

/-- The constants of the 64 rounds: fractions of the cube roots of the primes. -/
def shaConstants : List (BitVec 32) := shaPrimes.map (rootFraction 3)

/-- The eight words before the first block, the first one highest: fractions of the square roots of the first primes. -/
def shaStart : BitVec 256 :=
  (shaPrimes.take 8).foldl (fun v p => (v <<< 32) ||| (rootFraction 2 p).zeroExtend 256) 0

/-- The exclusive or of a word turned by three amounts. -/
def turn3 (i j k : Nat) (x : BitVec 32) : BitVec 32 := x.rotateRight i ^^^ (x.rotateRight j ^^^ x.rotateRight k)

/-- The exclusive or of a word turned by two amounts and shifted by one. -/
def turn2 (i j k : Nat) (x : BitVec 32) : BitVec 32 := (x >>> k) ^^^ (x.rotateRight j ^^^ x.rotateRight i)

/-- A block's words with `n` more of the schedule, the newest first. -/
def shaSchedule : Nat → List (BitVec 32) → List (BitVec 32)
  | 0, ws => ws
  | n + 1, ws =>
    let back (i : Nat) : BitVec 32 := (ws[i - 1]?).getD 0
    shaSchedule n ((turn2 17 19 10 (back 2) + back 7 + (turn2 7 18 3 (back 15) + back 16)) :: ws)

/-- One round: all eight words move on by one place, the lowest falls out, the fourth and the new first take the round's sum. -/
def shaMix (v : BitVec 256) (kw : BitVec 32 × BitVec 32) : BitVec 256 :=
  let word (i : Nat) : BitVec 32 := v.extractLsb' (224 - 32 * i) 32
  let pick := word 6 ^^^ (word 4 &&& (word 5 ^^^ word 6))
  let most := (word 0 &&& word 1) ||| (word 2 &&& (word 0 ||| word 1))
  let sum := kw.1 + kw.2 + (pick + (turn3 6 11 25 (word 4) + word 7))
  (sum + (most + turn3 2 13 22 (word 0))) ++ v.extractLsb' 160 96 ++ (sum + word 3) ++ v.extractLsb' 32 96

/-- The chaining value after a block of sixteen words: each word of the rounds' result added to what it was. -/
def shaAbsorb (v : BitVec 256) (block : List (BitVec 32)) : BitVec 256 :=
  let u := (shaConstants.zip (shaSchedule 48 block.reverse).reverse).foldl shaMix v
  (List.range 8).foldl
    (fun x i => (x <<< 32) ||| (v.extractLsb' (224 - 32 * i) 32 + u.extractLsb' (224 - 32 * i) 32).zeroExtend 256) 0

/-- A number as its bytes are read, the first one highest. -/
def numOfBytes (bs : List Byte) : Nat := bs.foldl (fun n b => 256 * n + b.toNat) 0

/-- The chaining value after `n` blocks of a byte string. -/
def shaOver : Nat → List Byte → BitVec 256 → BitVec 256
  | 0, _, v => v
  | n + 1, bs, v =>
    let block := (List.range 16).map (fun i => BitVec.ofNat 32 (numOfBytes ((bs.drop (4 * i)).take 4)))
    shaOver n (bs.drop 64) (shaAbsorb v block)

/-- SHA-256 of a byte string; the first byte of the digest is the most significant. A 1 bit and then 0 bits fill the last block up to the
length in bits, 64 of them. PRESUMED: log 3. -/
def sha256 (msg : List Byte) : BitVec 256 :=
  let blocks := (msg.length + 72) / 64
  let fill := 0x80#8 :: List.replicate (64 * blocks - 9 - msg.length) 0#8
  shaOver blocks (msg ++ fill ++ (natToBytes (8 * msg.length) 8).reverse) shaStart

/-- The bytes of a big-endian value, most significant first. -/
def beBytes (v : Nat) (n : Nat) : List Byte := (natToBytes v n).reverse

/-! ## CRC-32C -/

/-- Eight steps of the reflected Castagnoli polynomial. -/
def crcBits : Nat → BitVec 32 → BitVec 32
  | 0, c => c
  | n + 1, c => crcBits n (if c.getLsbD 0 then (c >>> 1) ^^^ 0x82F63B78 else c >>> 1)

/-- CRC-32C of a byte string (11 R212). PRESUMED: log 3. -/
def crc32c (msg : List Byte) : BitVec 32 :=
  ~~~(msg.foldl (fun c b => crcBits 8 (c ^^^ b.zeroExtend 32)) (BitVec.allOnes 32))

end Sys2Proof.Machine
end

