-- ==== Sys2Proof/WellFormed.lean ====
section
/-! DEFINITION. Well-formed instructions: the operands, types and limits that the encodings admit (03 R39 to R47 and
each instruction's own rule). What depends on the running step is checked at issue. -/

namespace Sys2Proof

/-- FL of 07 R144. -/
def ETy.isFL : ETy → Bool
  | .f32 | .bf16 | .f16 => true
  | _ => false

/-- IN of 07 R144. -/
def ETy.isIN : ETy → Bool
  | .i8 | .i16 | .i32 | .i64 | .u8 | .u32 => true
  | _ => false

/-- IN4 of 07 R144. -/
def ETy.isIN4 (t : ETy) : Bool := t.isIN || t == .i4

/-- Scaled types (06 R106). -/
def ETy.isScaled : ETy → Bool
  | .e4m3 | .e5m2 | .e2m1 => true
  | _ => false

/-- A 4-bit element (04 R51). -/
def ETy.isNibble : ETy → Bool
  | .e2m1 | .i4 => true
  | _ => false

/-- The bank format and tag codes of 06 R106. -/
def tagOk (t : BitVec 4) : Bool := t ∈ [0, 1, 2, 3, 4, 5, 7, 9, 13, 15]

/-- The scaled tags of 06 R106. -/
def tagScaled (t : BitVec 4) : Bool := t ∈ [3, 4, 5]

/-- VPUSH's tags (07 R160). -/
def ETy.isPushTag : ETy → Bool
  | .f32 | .bf16 | .f16 | .e4m3 | .e5m2 | .e2m1 | .i8 | .i32 | .w96 => true
  | _ => false

/-- MMA's types (08 R168). -/
def ETy.isMma : ETy → Bool
  | .e4m3 | .e5m2 | .e2m1 | .i4 | .i8 => true
  | _ => false

/-- Pairs of types the MMA form accepts (08 R171). -/
def mmaPair (a b : ETy) : Bool :=
  match a, b with
  | .e4m3, .e4m3 | .e4m3, .e5m2 | .e5m2, .e4m3 | .e5m2, .e5m2 => true
  | .e2m1, .e2m1 | .i8, .i8 | .i4, .i4 => true
  | _, _ => false

/-- Control registers of a sequencer kind (05 R78, 11 R221). -/
def ctrlOk (k : SeqKind) (c : BitVec 8) : Bool :=
  match k with
  | .load | .store => c ∈ [0x00, 0x01, 0x02, 0x03, 0x04]
  | .exec => c ∈ [0x00, 0x01, 0x02, 0x03, 0x04, 0x05, 0x06, 0x10, 0x11]
  | .ctl => c ∈ [0x00, 0x01, 0x02, 0x03, 0x04, 0x07]
  | .conductor | .service => c ∈ [0x00, 0x02, 0x20, 0x21, 0x22, 0x23, 0x24, 0x25]

/-- A stream kind. -/
def SeqKind.isStream : SeqKind → Bool
  | .load | .exec | .store | .ctl => true
  | .conductor | .service => false

/-- The limits of the MMA form's rows (08 R171). -/
def mmaRowsOk (cnt : BitVec 5) (bpair : BitVec 3) (arow : BitVec 4) (ty : ETy) : Bool :=
  let c := cnt.toNat
  1 ≤ c && c ≤ 16 &&
    (if ty.isNibble then arow.toNat + (c - 1) * 2 ≤ 15 && bpair.toNat + 2 * c - 1 ≤ 7
     else arow.toNat + (c - 1) ≤ 15 && bpair.toNat + c - 1 ≤ 7)

/-- The limits of the COLL form (13 R253). -/
def collOk (root fanin count : BitVec 8) (ty : ETy) (red : CollRed) (pat : CollPat) (wen : Bool)
    (wctr ctr : BitVec 6) : Bool :=
  1 ≤ count.toNat && count.toNat ≤ 128 && fanin.toNat ≠ 1 && fanin.toNat ≤ 128 &&
    (match pat with
     | .reduce | .broadcast => root.toNat < count.toNat
     | .allreduce | .allgather => root = 0) &&
    !(wen && wctr == ctr) &&
    (match pat, red with
     | .allreduce, .topk | .reduce, .topk => ty ∈ [.f32, .i32, .u32]
     | .allreduce, _ | .reduce, _ => ty ∈ [.f32, .bf16, .f16, .i32, .i64, .u32, .w96]
     | .broadcast, .sum | .allgather, .sum => true
     | .broadcast, _ | .allgather, _ => false)

/-- IDLE 0 and S 0, which a conductor word must have (11 R221). -/
def headPlain (h : Head) : Bool := h.idle == 0 && !h.sq

/-- The command a descriptor holds in bits [7:0] (10 R189). -/
def Cmd.code (c : Cmd) : BitVec 8 := c.desc.extractLsb' 0 8

/-- Well-formed for a sequencer of kind `k`: the word is an instruction there, whatever the running step declares. -/
def Instr.wf (k : SeqKind) : Instr → Bool
  | .nop h | .trap h _ => k.isStream || (headPlain h && h.g == 0)
  | .endStream _ => k.isStream
  | .add h _ _ _ | .sub h _ _ _ | .and h _ _ _ | .or h _ _ _ | .xor h _ _ _ | .sll h _ _ _ | .srl h _ _ _
  | .sra h _ _ _ | .mul h _ _ _ | .mulh h _ _ _ | .mulhu h _ _ _ | .div h _ _ _ | .divu h _ _ _ | .rem h _ _ _
  | .remu h _ _ _ | .min h _ _ _ | .max h _ _ _ | .minu h _ _ _ | .maxu h _ _ _ | .slt h _ _ _ | .sltu h _ _ _
  | .sel h _ _ _ _ | .clz h _ _ | .popc h _ _ | .jr h _ => k.isStream || (headPlain h && h.g == 0)
  | .tick _ _ => k.isStream
  | .idx _ _ l => k.isStream && l.toNat ≤ 5
  | .getc h _ c => ctrlOk k c && (k.isStream || (headPlain h && h.g == 0))
  | .setc h c _ => ctrlOk k c && (k.isStream || (headPlain h && h.g == 0))
  | .ldq _ q _ | .ldb _ q _ | .lstop _ q => k == .load && q.toNat < 4
  | .ldt _ q _ _ | .ldg _ q _ _ => k == .load && q.toNat < 4
  | .ldm _ t q _ b => k == .load && q.toNat < 4 && tagOk t && (tagScaled t || b == 0)
  | .ldx _ _ _ | .ldxm _ _ _ | .recv _ _ _ | .recvx _ _ _ => k == .load
  | .stq _ q _ => k == .store && q.toNat < 4
  | .stt _ q _ _ | .stm _ q _ _ | .scat _ q _ _ => k == .store && q.toNat < 4
  | .stx _ _ _ | .stxm _ _ _ | .send _ _ _ | .sendx _ _ _ => k == .store
  | .atom _ op _ b => k == .store && (op != .add128 || b.toNat % 2 == 0)
  | .atomf _ op _ _ b => k == .store && (op != .cas64 || b.toNat % 2 == 0)
  | .sstop _ q n => k == .store && q.toNat < 4 && n.toNat ≤ 16
  | .vadd _ t _ _ _ | .vsub _ t _ _ _ | .vmul _ t _ _ _ | .vmin _ t _ _ _ | .vmax _ t _ _ _ =>
    k == .exec && (t.isFL || t.isIN)
  | .vfma _ t _ _ _ | .vfms _ t _ _ _ => k == .exec && t.isFL
  | .vabs _ t _ _ | .vneg _ t _ _ => k == .exec && (t.isFL || t.isIN)
  | .vrcp _ t _ _ | .vsqrt _ t _ _ | .vrsq _ t _ _ | .vexp _ t _ _ | .vlog _ t _ _ | .vtanh _ t _ _ | .vsig _ t _ _ =>
    k == .exec && t.isFL
  | .vand _ _ _ _ _ | .vor _ _ _ _ _ | .vxor _ _ _ _ _ => k == .exec
  | .vshl _ t _ _ _ | .vshr _ t _ _ _ | .vsra _ t _ _ _ => k == .exec && t.isIN4
  | .vcmp _ _ t _ _ => k == .exec && (t.isFL || t.isIN)
  | .vselm _ _ _ _ _ => k == .exec
  | .vcvt _ _ _ t _ _ => k == .exec && t != .f32
  | .vmov _ _ _ _ | .vtrn _ _ _ _ | .vrot _ _ _ _ _ => k == .exec
  | .vbcast _ t _ _ => k == .exec && t != .w96
  | .vshuf _ t _ _ _ => k == .exec && !t.isNibble
  | .vscan _ _ t _ _ | .vred _ _ t _ _ => k == .exec && (t.isFL || t.isIN)
  | .vmadw _ t _ _ _ => k == .exec && t ∈ [.u8, .i8, .i16, .bf16, .f16, .f32]
  | .vaddw _ t _ _ p =>
    k == .exec && (if t ∈ [.u8, .i8, .f32] then p.toNat < 4 else t ∈ [.i16, .i32, .bf16, .f16] && p.toNat < 2)
  | .vpop _ _ q kk => k == .exec && q.toNat < 4 && kk.toNat < 8
  | .vpush _ t q _ kk => k == .exec && t.isPushTag && q.toNat < 4 && kk.toNat < 8
  | .qdrop _ q n => k == .exec && q.toNat < 4 && n.toNat ≤ 16
  | .vdraw _ t _ => k == .exec && (t == .u32 || t == .f32)
  | .vpopc _ t _ _ => k == .exec && t.isIN4
  | .vclass _ t _ _ => k == .exec && (t.isFL || t.isScaled)
  | .pand _ d a b | .por _ d a b | .pxor _ d a b =>
    k == .exec && d != 0 && d.toNat < 8 && a.toNat < 8 && b.toNat < 8
  | .pnot _ d a => k == .exec && d != 0 && d.toNat < 8 && a.toNat < 8
  | .pset _ t d _ _ => k == .exec && !t.isNibble && d != 0 && d.toNat < 8
  | .pcnt _ _ a | .pfirst _ _ a => k == .exec && a.toNat < 8
  | .vlane _ t _ _ => k == .exec && (t.isIN || t == .f32)
  | .mclr _ d => k == .exec && d.toNat < 2
  | .mma _ t d _ _ => k == .exec && t.isMma && d.toNat < 2
  | .mread _ t _ a b => k == .exec && t.isFL && a.toNat < 2 && b.toNat < 4
  | .maddw _ d _ _ => k == .exec && d.toNat < 2
  | .mpush _ _ a _ => k == .exec && a.toNat < 2
  | .mstat _ _ a _ => k == .exec && a.toNat < 2
  | .cntw _ c _ | .cnts _ c _ | .cntr _ _ c => k == .ctl && c.toNat < 64
  | .drift _ _ | .sealR _ _ _ | .unsealR _ _ _ | .dkey _ _ => k == .ctl
  | .bfmt _ f _ => k == .ctl && tagOk f
  | .addi h _ _ _ | .andi h _ _ _ | .ori h _ _ _ | .xori h _ _ _ | .slti h _ _ _ | .beq h _ _ _ | .bne h _ _ _
  | .blt h _ _ _ | .bge h _ _ _ | .bltu h _ _ _ | .bgeu h _ _ _ => k.isStream || (headPlain h && h.g == 0)
  | .slli h _ _ s | .srli h _ _ s | .srai h _ _ s => s.toNat < 64 && (k.isStream || (headPlain h && h.g == 0))
  | .loop _ n rot _ len => k.isStream && n != 0 && len != 0 && len.toNat < 512 && (!rot || k == .exec)
  | .waitd _ _ _ => k.isStream
  | .formld _ f _ => k.isStream && f.toNat < 64
  | .ldxo _ _ _ _ => k == .load
  | .stxo _ _ _ _ => k == .store
  | .vbcasti _ _ _ _ => k == .exec
  | .li h _ _ | .lih h _ _ | .j h _ | .jal h _ _ => k.isStream || (h.idle == 0 && !h.sq)
  | .waitt _ _ _ => k.isStream
  | .lstrm _ _ _ _ _ c => k == .load && 1 ≤ c.toNat && c.toNat ≤ 16
  | .gathp _ _ _ _ _ => k == .load
  | .sstrm _ _ _ _ _ c => k == .store && 1 ≤ c.toNat && c.toNat ≤ 16
  | .vtopk _ _ t kk _ _ vd xd =>
    k == .exec && t ∈ [.f32, .i32, .u32] && 1 ≤ kk.toNat && kk.toNat ≤ 128 && vd != xd
  | .mmaForm _ _ _ c bp ar bt at' _ _ => k == .exec && mmaPair at' bt && mmaRowsOk c bp ar at'
  | .mreadForm _ _ _ _ _ _ _ _ _ t _ => k == .exec && t.isFL
  | .dkeySplit _ _ _ _ | .dkeySetCounter _ _ _ _ => k == .ctl
  | .copy _ _ _ _ _ _ _ wen wctr _ ctr _ _ _ _ => k == .ctl && !(wen && wctr == ctr)
  | .coll _ _ _ root fanin count t red pat _ wen wctr ctr _ _ _ _ =>
    k == .ctl && collOk root fanin count t red pat wen wctr ctr
  | .condStep _ _ | .launch _ _ _ | .joinc _ | .yieldp | .hostn _ _ | .endConductor => !k.isStream
  | .fence _ _ n => !k.isStream && 1 ≤ n.toNat && n.toNat ≤ 12
  | .signal c _ | .cntwConductor c _ | .cntsConductor c _ | .cntrConductor _ c => !k.isStream && c.toNat < 64
  | .tlbia _ _ | .tlbiv _ _ _ | .celr _ _ | .rmcmd _ _ => k == .service
  | .pgret _ a => k == .service && a.toNat % 2 == 0
  | .place c => c.code == 1
  | .start c => c.code == 2
  | .yieldCmd c => c.code == 3
  | .freeze c => c.code == 4
  | .resume c => c.code == 5
  | .release c => c.code == 6
  | .zeroFillComplete r | .graphRunBegin r | .stepStaged r | .stepRendezvous r | .planeSwap r | .resultWriteback r
  | .bankAccess r | .queueAppend r | .runningFormStep r | .mmaBlockAdd r | .channelAccess r | .memoryResponse r
  | .wordDeparture r | .wordDue r | .waitEnd r | .tickBound r | .cntsRelease r | .stepStop r | .stepReexecute r
  | .runRestart r | .freezePoint r | .virgaDrainDone r | .contextSave r | .resumeRestored r | .regionFreed r => r < 32
  | .physicalArrival r t | .counterHoldEnd r t | .contextHoldEnd r t => r < 32 && t < 128
  | .copyOpStart r t c | .copyOpComplete r t c => r < 32 && t < 128 && c < 2
  | .collOpStart r _ _ | .collOpComplete r _ => r < 32
  | .linkHoldTimeout l | .linkTrainingDone l _ | .linkLaneLoss l _ => l < 489
  | .quarantineSweepDone d a => d < 2 && a < 1024
  | .tenureBoundary | .tenureSample | .tenureYieldTimeout | .boundaryBeatSend | .boundaryBeatArrival _
  | .boundaryBeatTimeout | .firmamentBeatSend | .ppsEdge _ | .ppsSecondCount => true
  | .grantWordArrival r f _ => r < 32 && f < 64
  | .firmamentBeatArrival p _ => p < 64
  | .hostTranslationResponse r t c _ => r < 32 && t < 128 && c < 2
  | .counterWindowWrite r c _ => r < 32 && c < 64
  | .memoryWindowRead | .memoryWindowWrite | .memoryWindowDone => true
  | .tableStoreWrite d off _ => d < 2 && off.toNat % 8 == 0
  | .vdRecordWrite r _ => r < 32
  | .eventRingHeadWrite _ | .eventPostResume | .eventRingConfigWrite _ _ => true
  | .powerGood | .moduleReset | .bootRom | .bootFw | .bootFabric _ | .bootReady | .firmwareCommit => true
  | .firmwareStagingWrite _ _ | .pcapWrite _ | .attestationRequest _ | .attestationDone | .celbaseWrite _ => true
  | .registerWrite _ _ | .thermalTrip | .ppsokClear => true
  | .retirementCopyDone c _ => c < 256
  | .illegalInstruction c => 1 ≤ c.toNat && c.toNat ≤ 9

end Sys2Proof
end

