-- ==== Sys2Proof/Decode.lean ====
section
/-! DEFINITION. The decoder, from the layouts and maps of 03 R30 to R47 and each instruction's field table, and after
it the encoder. Checks that depend on the running step (declared registers, LOOP bodies) are made at issue. -/

namespace Sys2Proof

/-! ## Fields -/

/-- IDLE, bits [31:29]. -/
def fIdle (w : BitVec 32) : BitVec 3 := w.extractLsb' 29 3
/-- S, bit 28. -/
def fS (w : BitVec 32) : Bool := w.extractLsb' 28 1 == 1
/-- CLASS, bits [27:26]. -/
def fClass (w : BitVec 32) : BitVec 2 := w.extractLsb' 26 2
/-- R: OP, bits [25:19]. -/
def rOp (w : BitVec 32) : BitVec 7 := w.extractLsb' 19 7
/-- R: GUARD, bits [18:16]. -/
def rG (w : BitVec 32) : BitVec 3 := w.extractLsb' 16 3
/-- R: D, bits [15:12]. -/
def rD (w : BitVec 32) : BitVec 4 := w.extractLsb' 12 4
/-- R: A, bits [11:8]. -/
def rA (w : BitVec 32) : BitVec 4 := w.extractLsb' 8 4
/-- R: B, bits [7:4]. -/
def rB (w : BitVec 32) : BitVec 4 := w.extractLsb' 4 4
/-- R: F, bits [3:0]. -/
def rF (w : BitVec 32) : BitVec 4 := w.extractLsb' 0 4
/-- R: {B,F}, bits [7:0]. -/
def rBF (w : BitVec 32) : BitVec 8 := w.extractLsb' 0 8
/-- I: OP, bits [25:21]. -/
def iOp (w : BitVec 32) : BitVec 5 := w.extractLsb' 21 5
/-- I: GUARD, bits [20:18]. -/
def iG (w : BitVec 32) : BitVec 3 := w.extractLsb' 18 3
/-- I: D, bits [17:14]. -/
def iD (w : BitVec 32) : BitVec 4 := w.extractLsb' 14 4
/-- I: A, bits [13:10]. -/
def iA (w : BitVec 32) : BitVec 4 := w.extractLsb' 10 4
/-- I: IMM10, bits [9:0]. -/
def iImm (w : BitVec 32) : BitVec 10 := w.extractLsb' 0 10
/-- W: OP, bits [25:23]. -/
def wOp (w : BitVec 32) : BitVec 3 := w.extractLsb' 23 3
/-- W: D, bits [22:19]. -/
def wD (w : BitVec 32) : BitVec 4 := w.extractLsb' 19 4
/-- W: IMM19, bits [18:0]. -/
def wImm (w : BitVec 32) : BitVec 19 := w.extractLsb' 0 19
/-- P: FORM, bits [25:20]. -/
def pForm (w : BitVec 32) : BitVec 6 := w.extractLsb' 20 6
/-- P: FIELD, bits [19:16]. -/
def pFld (w : BitVec 32) : BitVec 4 := w.extractLsb' 16 4
/-- P: VALUE, bits [15:0]. -/
def pVal (w : BitVec 32) : BitVec 16 := w.extractLsb' 0 16

/-- The head of an R word. -/
def rHead (w : BitVec 32) : Head := ⟨fIdle w, fS w, rG w⟩
/-- The head of an I word. -/
def iHead (w : BitVec 32) : Head := ⟨fIdle w, fS w, iG w⟩
/-- The head of a W word. -/
def wHead (w : BitVec 32) : HeadW := ⟨fIdle w, fS w⟩
/-- The head of a P word. -/
def pHead (w : BitVec 32) : HeadP := ⟨fIdle w, fS w, pForm w, pFld w, pVal w⟩

/-! ## Codes -/

/-- Type codes (03 R39). -/
def ETy.ofCode (c : BitVec 4) : Option ETy :=
  match c with
  | 0 => some .f32 | 1 => some .bf16 | 2 => some .f16 | 3 => some .e4m3 | 4 => some .e5m2 | 5 => some .e2m1
  | 6 => some .i4 | 7 => some .i8 | 8 => some .i16 | 9 => some .i32 | 10 => some .i64 | 11 => some .u8
  | 12 => some .u32 | 13 => some .w96 | _ => none

/-- The code of a type (03 R39). -/
def ETy.code : ETy → BitVec 4
  | .f32 => 0 | .bf16 => 1 | .f16 => 2 | .e4m3 => 3 | .e5m2 => 4 | .e2m1 => 5 | .i4 => 6 | .i8 => 7
  | .i16 => 8 | .i32 => 9 | .i64 => 10 | .u8 => 11 | .u32 => 12 | .w96 => 13

/-- Rounding codes (04 R54). -/
def RMode.ofCode (c : BitVec 3) : Option RMode :=
  match c with
  | 0 => some .rne | 1 => some .rtz | 2 => some .rup | 3 => some .rdn | 4 => some .sr | _ => none

/-- The code of a rounding mode. -/
def RMode.code : RMode → BitVec 3
  | .rne => 0 | .rtz => 1 | .rup => 2 | .rdn => 3 | .sr => 4

/-- Conditions of VCMP (07 R148). -/
def CmpOp.ofCode (c : BitVec 3) : CmpOp :=
  match c with
  | 0 => .eq | 1 => .ne | 2 => .lt | 3 => .le | 4 => .gt | 5 => .ge | 6 => .un | _ => .ord

/-- The code of a condition. -/
def CmpOp.code : CmpOp → BitVec 3
  | .eq => 0 | .ne => 1 | .lt => 2 | .le => 3 | .gt => 4 | .ge => 5 | .un => 6 | .ord => 7

/-- Operations of VSCAN and VRED (07 R155). -/
def ScanOp.ofCode (c : BitVec 4) : Option ScanOp :=
  match c with
  | 0 => some .add | 1 => some .max | 2 => some .min | _ => none

/-- The code of a scan operation. -/
def ScanOp.code : ScanOp → BitVec 4
  | .add => 0 | .max => 1 | .min => 2

/-- Operations of ATOM (03 R43). -/
def AtomOp.ofCode (c : BitVec 4) : Option AtomOp :=
  match c with
  | 0 => some .add64 | 1 => some .min64 | 2 => some .max64 | 3 => some .minu64 | 4 => some .maxu64
  | 5 => some .and64 | 6 => some .or64 | 7 => some .xor64 | 8 => some .add128 | _ => none

/-- The code of an ATOM operation. -/
def AtomOp.code : AtomOp → BitVec 4
  | .add64 => 0 | .min64 => 1 | .max64 => 2 | .minu64 => 3 | .maxu64 => 4 | .and64 => 5 | .or64 => 6 | .xor64 => 7
  | .add128 => 8

/-- Operations of ATOMF (03 R43). -/
def AtomfOp.ofCode (c : BitVec 4) : Option AtomfOp :=
  match c with
  | 0 => some .add64 | 1 => some .swap64 | 2 => some .cas64 | _ => none

/-- The code of an ATOMF operation. -/
def AtomfOp.code : AtomfOp → BitVec 4
  | .add64 => 0 | .swap64 => 1 | .cas64 => 2

/-- Patterns of COLL (13 R252). -/
def CollPat.ofCode (c : BitVec 3) : Option CollPat :=
  match c with
  | 0 => some .allreduce | 1 => some .reduce | 2 => some .broadcast | 3 => some .allgather | _ => none

/-- The code of a pattern. -/
def CollPat.code : CollPat → BitVec 3
  | .allreduce => 0 | .reduce => 1 | .broadcast => 2 | .allgather => 3

/-- Combinations of COLL (13 R252). -/
def CollRed.ofCode (c : BitVec 2) : CollRed :=
  match c with
  | 0 => .sum | 1 => .max | 2 => .min | _ => .topk

/-- The code of a combination. -/
def CollRed.code : CollRed → BitVec 2
  | .sum => 0 | .max => 1 | .min => 2 | .topk => 3

/-- Scopes of COLL (13 R251). -/
def CollScope.ofCode (c : BitVec 2) : Option CollScope :=
  match c with
  | 0 => some .die | 1 => some .package | 2 => some .fabric | _ => none

/-- The code of a scope. -/
def CollScope.code : CollScope → BitVec 2
  | .die => 0 | .package => 1 | .fabric => 2

/-! ## Words -/

/-- A decoded word, or the lowest cause number among the rules it breaks (03 R47). -/
abbrev Dec := Except Nat Instr

/-- A check of the given cause before the rest. -/
def chk (cause : Nat) (ok : Bool) (r : Dec) : Dec := if ok then r else .error cause

/-- A selector that must name something (cause 4 unless the table says otherwise). -/
def sel? {α : Type} (cause : Nat) (o : Option α) (r : α → Dec) : Dec :=
  match o with
  | some x => r x
  | none => .error cause

/-- R-format codes that some sequencer kind accepts (03 R44). -/
def rKnown (op : BitVec 7) : Bool :=
  let n := op.toNat
  n ≤ 0x29 || (0x30 ≤ n && n ≤ 0x3A) || (0x40 ≤ n && n ≤ 0x75) || 0x78 ≤ n

/-- The cause of an OP reserved on this sequencer kind (03 R47). -/
def rReserved (op : BitVec 7) : Dec := .error (if rKnown op then 2 else 1)

/-- R 0x00 to 0x1F on a sequencer of kind `k` (03 R40, R46). -/
def decShared (k : SeqKind) (w : BitVec 32) : Dec :=
  let h := rHead w; let d := rD w; let a := rA w; let b := rB w; let f := rF w; let n := rBF w
  match rOp w with
  | 0x00 => chk 3 (d == 0 && a == 0 && n == 0) (.ok (.nop h))
  | 0x01 => chk 3 (f == 0) (.ok (.add h d a b))
  | 0x02 => chk 3 (f == 0) (.ok (.sub h d a b))
  | 0x03 => chk 3 (f == 0) (.ok (.and h d a b))
  | 0x04 => chk 3 (f == 0) (.ok (.or h d a b))
  | 0x05 => chk 3 (f == 0) (.ok (.xor h d a b))
  | 0x06 => chk 3 (f == 0) (.ok (.sll h d a b))
  | 0x07 => chk 3 (f == 0) (.ok (.srl h d a b))
  | 0x08 => chk 3 (f == 0) (.ok (.sra h d a b))
  | 0x09 => chk 3 (f == 0) (.ok (.mul h d a b))
  | 0x0A => chk 3 (f == 0) (.ok (.mulh h d a b))
  | 0x0B => chk 3 (f == 0) (.ok (.mulhu h d a b))
  | 0x0C => chk 3 (f == 0) (.ok (.div h d a b))
  | 0x0D => chk 3 (f == 0) (.ok (.divu h d a b))
  | 0x0E => chk 3 (f == 0) (.ok (.rem h d a b))
  | 0x0F => chk 3 (f == 0) (.ok (.remu h d a b))
  | 0x10 => chk 3 (f == 0) (.ok (.min h d a b))
  | 0x11 => chk 3 (f == 0) (.ok (.max h d a b))
  | 0x12 => chk 3 (f == 0) (.ok (.minu h d a b))
  | 0x13 => chk 3 (f == 0) (.ok (.maxu h d a b))
  | 0x14 => chk 3 (f == 0) (.ok (.slt h d a b))
  | 0x15 => chk 3 (f == 0) (.ok (.sltu h d a b))
  | 0x16 => .ok (.sel h d a b f)
  | 0x17 => chk 3 (n == 0) (.ok (.clz h d a))
  | 0x18 => chk 3 (n == 0) (.ok (.popc h d a))
  | 0x19 => chk 3 (d == 0 && n == 0) (.ok (.jr h a))
  | 0x1A => if k.isStream then chk 3 (a == 0 && n == 0) (.ok (.tick h d)) else .error 2
  | 0x1B => if k.isStream then chk 3 (a == 0 && b == 0 && f.toNat ≤ 5) (.ok (.idx h d f)) else .error 2
  | 0x1C => chk 3 (a == 0) (chk 5 (ctrlOk k n) (.ok (.getc h d n)))
  | 0x1D => chk 3 (d == 0) (chk 5 (ctrlOk k n) (.ok (.setc h n a)))
  | 0x1E => chk 3 (d == 0 && a == 0) (.ok (.trap h n))
  | 0x1F => chk 3 (d == 0 && a == 0 && n == 0) (.ok (if k.isStream then .endStream h else .endConductor))
  | _ => rReserved (rOp w)

/-- R 0x20 to 0x29 on the load stream (06 R116). -/
def decLoad (w : BitVec 32) : Dec :=
  let h := rHead w; let d := rD w; let a := rA w; let b := rB w; let f := rF w; let n := rBF w
  match rOp w with
  | 0x20 => chk 3 (n == 0) (chk 5 (d.toNat < 4) (.ok (.ldq h d a)))
  | 0x21 => chk 3 (f == 0) (chk 5 (d.toNat < 4) (.ok (.ldt h d a b)))
  | 0x22 => chk 3 (n == 0) (chk 5 (d.toNat < 4) (.ok (.ldb h d a)))
  | 0x23 => chk 3 (f == 0) (chk 5 (d.toNat < 4) (.ok (.ldg h d a b)))
  | 0x24 => chk 3 (!tagOk f || tagScaled f || b == 0) (chk 4 (tagOk f) (chk 5 (d.toNat < 4) (.ok (.ldm h f d a b))))
  | 0x25 => chk 3 (n == 0) (.ok (.ldx h d a))
  | 0x26 => chk 3 (n == 0) (.ok (.ldxm h d a))
  | 0x27 => chk 3 (d == 0) (.ok (.recv h n a))
  | 0x28 => chk 3 (a == 0) (.ok (.recvx h d n))
  | 0x29 => chk 3 (a == 0 && n == 0) (chk 5 (d.toNat < 4) (.ok (.lstop h d)))
  | _ => rReserved (rOp w)

/-- R 0x30 to 0x3A on the store stream (06 R125, R134). -/
def decStore (w : BitVec 32) : Dec :=
  let h := rHead w; let d := rD w; let a := rA w; let b := rB w; let f := rF w; let n := rBF w
  match rOp w with
  | 0x30 => chk 3 (n == 0) (chk 5 (d.toNat < 4) (.ok (.stq h d a)))
  | 0x31 => chk 3 (f == 0) (chk 5 (d.toNat < 4) (.ok (.stt h d a b)))
  | 0x32 => chk 3 (f == 0) (chk 5 (d.toNat < 4) (.ok (.stm h d a b)))
  | 0x33 => chk 3 (n == 0) (.ok (.stx h d a))
  | 0x34 => chk 3 (n == 0) (.ok (.stxm h d a))
  | 0x35 => chk 3 (d == 0) (.ok (.send h n a))
  | 0x36 => chk 3 (d == 0) (.ok (.sendx h n a))
  | 0x37 => chk 3 (f == 0) (chk 5 (d.toNat < 4) (.ok (.scat h d a b)))
  | 0x38 => chk 3 (d == 0 && (f != 8 || b.toNat % 2 == 0)) (sel? 4 (AtomOp.ofCode f) fun op => .ok (.atom h op a b))
  | 0x39 => chk 3 (f != 2 || b.toNat % 2 == 0) (sel? 4 (AtomfOp.ofCode f) fun op => .ok (.atomf h op d a b))
  | 0x3A => chk 3 (a == 0 && n.toNat ≤ 16) (chk 5 (d.toNat < 4) (.ok (.sstop h d n)))
  | _ => rReserved (rOp w)

/-- The groups g of VADDW for a narrow type code (07 R152, R153); 16 where the type is refused under cause 4. -/
def vaddwGroups (f : BitVec 4) : Nat :=
  match f with
  | 11 | 7 | 0 => 4
  | 8 | 9 | 1 | 2 => 2
  | _ => 16

/-- R 0x40 to 0x75 on the execute stream (07, 08). -/
def decExec (w : BitVec 32) : Dec :=
  let h := rHead w; let d := rD w; let a := rA w; let b := rB w; let f := rF w; let n := rBF w
  match rOp w with
  | 0x40 => sel? 4 (ETy.ofCode f) fun t => chk 4 (t.isFL || t.isIN) (.ok (.vadd h t d a b))
  | 0x41 => sel? 4 (ETy.ofCode f) fun t => chk 4 (t.isFL || t.isIN) (.ok (.vsub h t d a b))
  | 0x42 => sel? 4 (ETy.ofCode f) fun t => chk 4 (t.isFL || t.isIN) (.ok (.vmul h t d a b))
  | 0x43 => sel? 4 (ETy.ofCode f) fun t => chk 4 (t.isFL) (.ok (.vfma h t d a b))
  | 0x44 => sel? 4 (ETy.ofCode f) fun t => chk 4 (t.isFL) (.ok (.vfms h t d a b))
  | 0x45 => sel? 4 (ETy.ofCode f) fun t => chk 4 (t.isFL || t.isIN) (.ok (.vmin h t d a b))
  | 0x46 => sel? 4 (ETy.ofCode f) fun t => chk 4 (t.isFL || t.isIN) (.ok (.vmax h t d a b))
  | 0x47 => chk 3 (b == 0) (sel? 4 (ETy.ofCode f) fun t => chk 4 (t.isFL || t.isIN) (.ok (.vabs h t d a)))
  | 0x48 => chk 3 (b == 0) (sel? 4 (ETy.ofCode f) fun t => chk 4 (t.isFL || t.isIN) (.ok (.vneg h t d a)))
  | 0x49 => chk 3 (b == 0) (sel? 4 (ETy.ofCode f) fun t => chk 4 (t.isFL) (.ok (.vrcp h t d a)))
  | 0x4A => chk 3 (b == 0) (sel? 4 (ETy.ofCode f) fun t => chk 4 (t.isFL) (.ok (.vsqrt h t d a)))
  | 0x4B => chk 3 (b == 0) (sel? 4 (ETy.ofCode f) fun t => chk 4 (t.isFL) (.ok (.vrsq h t d a)))
  | 0x4C => chk 3 (b == 0) (sel? 4 (ETy.ofCode f) fun t => chk 4 (t.isFL) (.ok (.vexp h t d a)))
  | 0x4D => chk 3 (b == 0) (sel? 4 (ETy.ofCode f) fun t => chk 4 (t.isFL) (.ok (.vlog h t d a)))
  | 0x4E => chk 3 (b == 0) (sel? 4 (ETy.ofCode f) fun t => chk 4 (t.isFL) (.ok (.vtanh h t d a)))
  | 0x4F => chk 3 (b == 0) (sel? 4 (ETy.ofCode f) fun t => chk 4 (t.isFL) (.ok (.vsig h t d a)))
  | 0x50 => sel? 4 (ETy.ofCode f) fun t => .ok (.vand h t d a b)
  | 0x51 => sel? 4 (ETy.ofCode f) fun t => .ok (.vor h t d a b)
  | 0x52 => sel? 4 (ETy.ofCode f) fun t => .ok (.vxor h t d a b)
  | 0x53 => sel? 4 (ETy.ofCode f) fun t => chk 4 (t.isIN4) (.ok (.vshl h t d a b))
  | 0x54 => sel? 4 (ETy.ofCode f) fun t => chk 4 (t.isIN4) (.ok (.vshr h t d a b))
  | 0x55 => sel? 4 (ETy.ofCode f) fun t => chk 4 (t.isIN4) (.ok (.vsra h t d a b))
  | 0x56 => chk 3 (a.toNat < 8) (sel? 4 (ETy.ofCode f) fun t => chk 4 (t.isFL || t.isIN) (.ok (.vcmp h (CmpOp.ofCode (a.extractLsb' 0 3)) t d b)))
  | 0x57 => .ok (.vselm h d a b f)
  | 0x58 => sel? 4 (RMode.ofCode (b.extractLsb' 0 3)) fun rm => sel? 4 (ETy.ofCode f) fun t => chk 4 (t != .f32) (.ok (.vcvt h (b.extractLsb' 3 1 == 1) rm t d a))
  | 0x59 => chk 3 (b == 0) (sel? 4 (ETy.ofCode f) fun t => .ok (.vmov h t d a))
  | 0x5A => chk 3 (b == 0) (sel? 4 (ETy.ofCode f) fun t => chk 4 (t != .w96) (.ok (.vbcast h t d a)))
  | 0x5B => sel? 4 (ETy.ofCode f) fun t => .ok (.vrot h t d a b)
  | 0x5C => sel? 4 (ETy.ofCode f) fun t => chk 4 (!t.isNibble) (.ok (.vshuf h t d a b))
  | 0x5D => chk 3 (b == 0) (sel? 4 (ETy.ofCode f) fun t => .ok (.vtrn h t d a))
  | 0x5E => sel? 3 (ScanOp.ofCode b) fun op => sel? 4 (ETy.ofCode f) fun t => chk 4 (t.isFL || t.isIN) (.ok (.vscan h op t d a))
  | 0x5F => sel? 3 (ScanOp.ofCode b) fun op => sel? 4 (ETy.ofCode f) fun t => chk 4 (t.isFL || t.isIN) (.ok (.vred h op t d a))
  | 0x60 => sel? 4 (ETy.ofCode f) fun t => chk 4 (t ∈ [.u8, .i8, .i16, .bf16, .f16, .f32]) (.ok (.vmadw h t d a b))
  | 0x61 => chk 3 (b.toNat < vaddwGroups f) (sel? 4 (ETy.ofCode f) fun t => chk 4 (t ∈ [.u8, .i8, .f32, .i16, .i32, .bf16, .f16]) (.ok (.vaddw h t d a b)))
  | 0x62 => chk 3 (b == 0 && f.toNat < 8) (chk 5 (a.toNat < 4) (.ok (.vpop h d a f)))
  | 0x63 => chk 3 (b.toNat < 8) (sel? 4 (ETy.ofCode f) fun t => chk 4 t.isPushTag (chk 5 (d.toNat < 4) (.ok (.vpush h t d a b))))
  | 0x64 => chk 3 (d == 0 && n.toNat ≤ 16) (chk 5 (a.toNat < 4) (.ok (.qdrop h a n)))
  | 0x65 => chk 3 (a == 0 && b == 0) (sel? 4 (ETy.ofCode f) fun t => chk 4 (t == .u32 || t == .f32) (.ok (.vdraw h t d)))
  | 0x66 => chk 3 (b == 0) (sel? 4 (ETy.ofCode f) fun t => chk 4 (t.isIN4) (.ok (.vpopc h t d a)))
  | 0x67 => chk 3 (b == 0) (sel? 4 (ETy.ofCode f) fun t => chk 4 (t.isFL || t.isScaled) (.ok (.vclass h t d a)))
  | 0x68 => chk 3 (f == 0) (chk 5 (d != 0 && d.toNat < 8 && a.toNat < 8 && b.toNat < 8) (.ok (.pand h d a b)))
  | 0x69 => chk 3 (f == 0) (chk 5 (d != 0 && d.toNat < 8 && a.toNat < 8 && b.toNat < 8) (.ok (.por h d a b)))
  | 0x6A => chk 3 (f == 0) (chk 5 (d != 0 && d.toNat < 8 && a.toNat < 8 && b.toNat < 8) (.ok (.pxor h d a b)))
  | 0x6B => chk 3 (n == 0) (chk 5 (d != 0 && d.toNat < 8 && a.toNat < 8) (.ok (.pnot h d a)))
  | 0x6C => sel? 4 (ETy.ofCode f) fun t => chk 4 (!t.isNibble) (chk 5 (d != 0 && d.toNat < 8) (.ok (.pset h t d a b)))
  | 0x6D => chk 3 (n == 0) (chk 5 (a.toNat < 8) (.ok (.pcnt h d a)))
  | 0x6E => chk 3 (n == 0) (chk 5 (a.toNat < 8) (.ok (.pfirst h d a)))
  | 0x6F => chk 3 (b == 0) (sel? 4 (ETy.ofCode f) fun t => chk 4 (t.isIN || t == .f32) (.ok (.vlane h t d a)))
  | 0x70 => chk 3 (a == 0 && n == 0) (chk 5 (d.toNat < 2) (.ok (.mclr h d)))
  | 0x71 => sel? 4 (ETy.ofCode f) fun t => chk 4 t.isMma (chk 5 (d.toNat < 2) (.ok (.mma h t d a b)))
  | 0x72 => chk 3 (b.toNat < 4) (sel? 4 (ETy.ofCode f) fun t => chk 4 t.isFL (chk 5 (a.toNat < 2) (.ok (.mread h t d a b))))
  | 0x73 => chk 3 (f == 0) (chk 5 (d.toNat < 2) (.ok (.maddw h d a b)))
  | 0x74 => chk 3 (f == 0) (chk 5 (a.toNat < 2) (.ok (.mpush h d a b)))
  | 0x75 => chk 3 (b == 0 && f.toNat < 2) (chk 5 (a.toNat < 2) (.ok (.mstat h d a (f == 1))))
  | _ => rReserved (rOp w)

/-- R 0x78 to 0x7F on the control stream (12 R230, 20 R316, 16 R275, 06 R110, 04 R66). -/
def decCtl (w : BitVec 32) : Dec :=
  let h := rHead w; let d := rD w; let a := rA w; let b := rB w; let f := rF w; let n := rBF w
  match rOp w with
  | 0x78 => chk 3 (d == 0 && n.toNat < 64) (.ok (.cntw h n a))
  | 0x79 => chk 3 (d == 0 && n.toNat < 64) (.ok (.cnts h n a))
  | 0x7A => chk 3 (a == 0 && n.toNat < 64) (.ok (.cntr h d n))
  | 0x7B => chk 3 (d == 0 && n == 0) (.ok (.drift h a))
  | 0x7C => chk 3 (d == 0 && f == 0) (.ok (.sealR h a b))
  | 0x7D => chk 3 (d == 0 && f == 0) (.ok (.unsealR h a b))
  | 0x7E => chk 3 (d == 0 && b == 0) (chk 4 (tagOk f) (.ok (.bfmt h f a)))
  | 0x7F => chk 3 (d == 0 && n == 0) (.ok (.dkey h a))
  | _ => rReserved (rOp w)

/-- R 0x20 to 0x26 and 0x78 to 0x7A on a conductor (11 R222, 12 R230). -/
def decCond (w : BitVec 32) : Dec :=
  let h := rHead w; let d := rD w; let a := rA w; let b := rB w; let f := rF w; let n := rBF w
  match rOp w with
  | 0x20 => chk 3 (d == 0 && f == 0) (.ok (.condStep a b))
  | 0x21 => chk 3 (d == 0 && 1 ≤ f.toNat && f.toNat ≤ 12) (.ok (.fence a b f))
  | 0x22 => chk 3 (d == 0 && n.toNat < 64) (.ok (.signal n a))
  | 0x23 => chk 3 (f == 0) (.ok (.launch d a b))
  | 0x24 => chk 3 (a == 0 && n == 0) (.ok (.joinc d))
  | 0x25 => chk 3 (d == 0 && a == 0 && n == 0) (.ok .yieldp)
  | 0x26 => chk 3 (d == 0) (.ok (.hostn a n))
  | 0x78 => chk 3 (d == 0 && n.toNat < 64) (.ok (.cntwConductor n a))
  | 0x79 => chk 3 (d == 0 && n.toNat < 64) (.ok (.cntsConductor n a))
  | 0x7A => chk 3 (a == 0 && n.toNat < 64) (.ok (.cntrConductor d n))
  | _ => rReserved (rOp w)

/-- R 0x30 to 0x34 on a service conductor, and what a conductor accepts (10 R208, 16 R272). -/
def decService (w : BitVec 32) : Dec :=
  let h := rHead w; let d := rD w; let a := rA w; let b := rB w; let f := rF w; let n := rBF w
  match rOp w with
  | 0x30 => chk 3 (n == 0) (.ok (.tlbia d a))
  | 0x31 => chk 3 (f == 0) (.ok (.tlbiv d a b))
  | 0x32 => chk 3 (n == 0 && a.toNat % 2 == 0) (.ok (.pgret d a))
  | 0x33 => chk 3 (n == 0) (.ok (.celr d a))
  | 0x34 => chk 3 (n == 0) (.ok (.rmcmd d a))
  | _ => decCond w

/-- An R-format word on a sequencer of kind `k` (03 R44, R46). -/
def decodeR (k : SeqKind) (w : BitVec 32) : Dec :=
  if (rOp w).toNat < 0x20 then decShared k w
  else match k with
    | .load => decLoad w
    | .store => decStore w
    | .exec => decExec w
    | .ctl => decCtl w
    | .conductor => decCond w
    | .service => decService w

/-- An I-format word on a sequencer of kind `k` (03 R41, R45, R46; 05 R92). -/
def decodeI (k : SeqKind) (w : BitVec 32) : Dec :=
  let h := iHead w; let d := iD w; let a := iA w; let m := iImm w
  match iOp w with
  | 0x00 => .ok (.addi h d a m)
  | 0x01 => .ok (.andi h d a m)
  | 0x02 => .ok (.ori h d a m)
  | 0x03 => .ok (.xori h d a m)
  | 0x04 => chk 3 (m.toNat < 64) (.ok (.slli h d a m))
  | 0x05 => chk 3 (m.toNat < 64) (.ok (.srli h d a m))
  | 0x06 => chk 3 (m.toNat < 64) (.ok (.srai h d a m))
  | 0x07 => .ok (.slti h d a m)
  | 0x08 => .ok (.beq h d a m)
  | 0x09 => .ok (.bne h d a m)
  | 0x0A => .ok (.blt h d a m)
  | 0x0B => .ok (.bge h d a m)
  | 0x0C => .ok (.bltu h d a m)
  | 0x0D => .ok (.bgeu h d a m)
  | 0x0E => if k.isStream then
      chk 3 (d.extractLsb' 0 3 != 0 && m != 0 && m.toNat < 512 && (d.extractLsb' 3 1 == 0 || k == .exec))
        (.ok (.loop h (d.extractLsb' 0 3) (d.extractLsb' 3 1 == 1) a m)) else .error 2
  | 0x0F => if k.isStream then chk 3 (d == 0) (.ok (.waitd h a m)) else .error 2
  | 0x10 => if k.isStream then chk 3 (d == 0 && m.toNat < 64) (.ok (.formld h m a)) else .error 2
  | 0x11 => if k == .load then .ok (.ldxo h d a m) else .error 2
  | 0x12 => if k == .store then .ok (.stxo h d a m) else .error 2
  | 0x13 => if k == .exec then sel? 4 (ETy.ofCode a) fun t => .ok (.vbcasti h t d m) else .error 2
  | _ => .error 1

/-- A W-format word on a sequencer of kind `k` (03 R41, R45, R46). -/
def decodeW (k : SeqKind) (w : BitVec 32) : Dec :=
  let h := wHead w; let d := wD w; let m := wImm w
  match wOp w with
  | 0 => .ok (.li h d m)
  | 1 => .ok (.lih h d m)
  | 2 => chk 3 (d == 0) (.ok (.j h m))
  | 3 => .ok (.jal h d m)
  | 4 => if k.isStream then .ok (.waitt h d m) else .error 2
  | _ => .error 1

/-! ## Forms -/

/-- A stored form as FIELD and VALUE patch it (03 R36). -/
def patchForm (form : BitVec 128) (fld : BitVec 4) (v : BitVec 16) : BitVec 128 :=
  if fld.toNat < 8 then
    let sh := 16 * fld.toNat
    (form &&& ~~~((0xFFFF#128) <<< sh)) ||| ((v.zeroExtend 128) <<< sh)
  else form

/-- FOPC, byte 15 of a form (03 R35). -/
def formFopc (f : BitVec 128) : BitVec 8 := f.extractLsb' 120 8
/-- FGUARD (03 R35). -/
def formGuard (f : BitVec 128) : BitVec 3 := f.extractLsb' 117 3
/-- FSPEC (03 R35). -/
def formSpec (f : BitVec 128) : BitVec 5 := f.extractLsb' 112 5

/-- Field `n` of a form, and bits of it. -/
def fb (f : BitVec 128) (lo len : Nat) : BitVec len := f.extractLsb' lo len

/-- A patched form on a stream of kind `k`; every breach has cause 8 (03 R38, R47). -/
def decodeForm (k : SeqKind) (h : HeadP) (f : BitVec 128) : Dec :=
  let g := formGuard f
  match k, formFopc f with
  | .load, 0x01 => chk 8 (fb f 114 3 == 0 && fb f 4 12 == 0 && fb f 48 64 == 0 &&
      1 ≤ (fb f 32 16).toNat && (fb f 32 16).toNat ≤ 16)
      (.ok (.lstrm h g (fb f 112 2) (fb f 0 4) (fb f 16 16) (fb f 32 16)))
  | .load, 0x09 => chk 8 (fb f 114 3 == 0 && fb f 4 12 == 0 && fb f 20 12 == 0 && fb f 32 80 == 0)
      (.ok (.gathp h g (fb f 112 2) (fb f 0 4) (fb f 16 4)))
  | .store, 0x02 => chk 8 (fb f 114 3 == 0 && fb f 4 12 == 0 && fb f 48 64 == 0 &&
      1 ≤ (fb f 32 16).toNat && (fb f 32 16).toNat ≤ 16)
      (.ok (.sstrm h g (fb f 112 2) (fb f 0 4) (fb f 16 16) (fb f 32 16)))
  | .exec, 0x07 => sel? 8 (ETy.ofCode (fb f 112 4)) fun t =>
      chk 8 (fb f 116 1 == 0 && fb f 32 80 == 0 && fb f 24 8 == 0 && t ∈ [.f32, .i32, .u32] &&
        1 ≤ (fb f 16 8).toNat && (fb f 16 8).toNat ≤ 128 && fb f 8 4 != fb f 12 4)
      (.ok (.vtopk h g t (fb f 16 8) (fb f 0 4) (fb f 4 4) (fb f 8 4) (fb f 12 4)))
  | .exec, 0x03 => sel? 8 (ETy.ofCode (fb f 12 4)) fun bt => sel? 8 (ETy.ofCode (fb f 8 4)) fun at' =>
      chk 8 (fb f 113 4 == 0 && fb f 48 64 == 0 && fb f 37 11 == 0 && fb f 23 9 == 0 && mmaPair at' bt &&
        mmaRowsOk (fb f 32 5) (fb f 20 3) (fb f 16 4) at')
      (.ok (.mmaForm h g (fb f 112 1 == 1) (fb f 32 5) (fb f 20 3) (fb f 16 4) bt at' (fb f 4 4) (fb f 0 4)))
  | .exec, 0x04 => sel? 8 (RMode.ofCode (fb f 113 3)) fun rm => sel? 8 (ETy.ofCode (fb f 4 4)) fun t =>
      chk 8 (fb f 116 1 == 0 && fb f 68 44 == 0 && fb f 10 6 == 0 && t.isFL)
      (.ok (.mreadForm h g rm (fb f 112 1 == 1) (fb f 64 4) (fb f 48 16) (fb f 32 16) (fb f 16 16) (fb f 8 2) t
        (fb f 0 4)))
  | .ctl, 0x08 => chk 8 (fb f 8 104 == 0 && (formSpec f).toNat ≤ 1)
      (.ok (if formSpec f == 0 then .dkeySplit h g (fb f 0 4) (fb f 4 4) else .dkeySetCounter h g (fb f 0 4) (fb f 4 4)))
  | .ctl, 0x05 => chk 8 (fb f 116 1 == 0 && fb f 48 64 == 0 && fb f 44 4 == 0 && fb f 39 1 == 0 && fb f 23 9 == 0 &&
        !(fb f 38 1 == 1 && fb f 32 6 == fb f 16 6))
      (.ok (.copy h g (fb f 115 1 == 1) (fb f 114 1 == 1) (fb f 113 1 == 1) (fb f 112 1 == 1) (fb f 40 4)
        (fb f 38 1 == 1) (fb f 32 6) (fb f 22 1 == 1) (fb f 16 6) (fb f 12 4) (fb f 8 4) (fb f 4 4) (fb f 0 4)))
  | .ctl, 0x06 => sel? 8 (CollScope.ofCode (fb f 112 2)) fun sc => sel? 8 (CollPat.ofCode (fb f 48 3)) fun pat =>
      sel? 8 (ETy.ofCode (fb f 56 4)) fun t =>
      chk 8 (fb f 114 3 == 0 && fb f 104 8 == 0 && fb f 88 8 == 0 && fb f 72 8 == 0 && fb f 60 4 == 0 &&
        fb f 54 2 == 0 && fb f 51 1 == 0 && fb f 44 4 == 0 && fb f 39 1 == 0 && fb f 22 10 == 0 &&
        collOk (fb f 96 8) (fb f 80 8) (fb f 64 8) t (CollRed.ofCode (fb f 52 2)) pat (fb f 38 1 == 1)
          (fb f 32 6) (fb f 16 6))
      (.ok (.coll h g sc (fb f 96 8) (fb f 80 8) (fb f 64 8) t (CollRed.ofCode (fb f 52 2)) pat (fb f 40 4)
        (fb f 38 1 == 1) (fb f 32 6) (fb f 16 6) (fb f 12 4) (fb f 8 4) (fb f 4 4) (fb f 0 4)))
  | _, _ => .error 8

/-- A P-format word whose form entry holds `form` (03 R36, R47). -/
def decodeP (k : SeqKind) (form : BitVec 128) (w : BitVec 32) : Dec :=
  if !k.isStream then .error 2
  else
    let h := pHead w
    chk 7 (h.fld.toNat < 8 || (h.fld == 15 && h.value == 0))
      (chk 8 (h.fld != 7 || h.value.extractLsb' 8 8 == formFopc form)
        (decodeForm k h (patchForm form h.fld h.value)))

/-- What a conductor adds: IDLE and S must be 0 (cause 3) and a guard is outside every LOOP (cause 6)
(11 R221, 03 R33). -/
def condWrap (plain guarded : Bool) (r : Dec) : Dec :=
  match r with
  | .error c => .error (if plain then (if guarded then min 6 c else c) else min 3 c)
  | .ok i => if plain then (if guarded then .error 6 else .ok i) else .error 3

/-- The decoder: a word on a sequencer of kind `k` whose form entry `form` a P word names. -/
def decode (k : SeqKind) (form : BitVec 128) (w : BitVec 32) : Dec :=
  let plain := k.isStream || (fIdle w == 0 && !fS w)
  match fClass w with
  | 0 => condWrap plain (!k.isStream && rG w != 0) (decodeR k w)
  | 1 => condWrap plain (!k.isStream && iG w != 0) (decodeI k w)
  | 2 => condWrap plain false (decodeW k w)
  | _ => decodeP k form w

/-- The stage guard of a word, 0 for a lane-guarded word and for W words (03 R32, R33, R36). -/
def stageGuard (k : SeqKind) (form : BitVec 128) (w : BitVec 32) : BitVec 3 :=
  match fClass w with
  | 0 =>
    let n := (rOp w).toNat
    if k == .exec && ((0x40 ≤ n && n ≤ 0x61) || (0x65 ≤ n && n ≤ 0x67) || n == 0x6F) then 0 else rG w
  | 1 => if iOp w == 0x13 then 0 else iG w
  | 2 => 0
  | _ =>
    let f := patchForm form (pFld w) (pVal w)
    if formFopc f == 0x07 then 0 else formGuard f

/-! ## Encoder -/

/-- An R-format word (03 R31). -/
def mkR (h : Head) (op : BitVec 7) (d a b f : BitVec 4) : BitVec 32 :=
  h.idle ++ BitVec.ofBool h.sq ++ 0#2 ++ op ++ h.g ++ d ++ a ++ b ++ f

/-- An R-format word whose {B,F} is one field. -/
def mkR8 (h : Head) (op : BitVec 7) (d a : BitVec 4) (n : BitVec 8) : BitVec 32 :=
  h.idle ++ BitVec.ofBool h.sq ++ 0#2 ++ op ++ h.g ++ d ++ a ++ n

/-- An I-format word (03 R31). -/
def mkI (h : Head) (op : BitVec 5) (d a : BitVec 4) (imm : BitVec 10) : BitVec 32 :=
  h.idle ++ BitVec.ofBool h.sq ++ 1#2 ++ op ++ h.g ++ d ++ a ++ imm

/-- A W-format word (03 R31). -/
def mkW (h : HeadW) (op : BitVec 3) (d : BitVec 4) (imm : BitVec 19) : BitVec 32 :=
  h.idle ++ BitVec.ofBool h.sq ++ 2#2 ++ op ++ d ++ imm

/-- A P-format word (03 R31). -/
def mkP (h : HeadP) : BitVec 32 :=
  h.idle ++ BitVec.ofBool h.sq ++ 3#2 ++ h.form ++ h.fld ++ h.value

/-- The head of a conductor word. -/
def hd0 : Head := ⟨0, false, 0⟩

/-- The word of an instruction; none for commands and events, which have no word. -/
def encode : Instr → Option (BitVec 32)
  | .nop h => some (mkR8 h 0x00 0 0 0)
  | .add h d a b => some (mkR h 0x01 d a b 0)
  | .sub h d a b => some (mkR h 0x02 d a b 0)
  | .and h d a b => some (mkR h 0x03 d a b 0)
  | .or h d a b => some (mkR h 0x04 d a b 0)
  | .xor h d a b => some (mkR h 0x05 d a b 0)
  | .sll h d a b => some (mkR h 0x06 d a b 0)
  | .srl h d a b => some (mkR h 0x07 d a b 0)
  | .sra h d a b => some (mkR h 0x08 d a b 0)
  | .mul h d a b => some (mkR h 0x09 d a b 0)
  | .mulh h d a b => some (mkR h 0x0A d a b 0)
  | .mulhu h d a b => some (mkR h 0x0B d a b 0)
  | .div h d a b => some (mkR h 0x0C d a b 0)
  | .divu h d a b => some (mkR h 0x0D d a b 0)
  | .rem h d a b => some (mkR h 0x0E d a b 0)
  | .remu h d a b => some (mkR h 0x0F d a b 0)
  | .min h d a b => some (mkR h 0x10 d a b 0)
  | .max h d a b => some (mkR h 0x11 d a b 0)
  | .minu h d a b => some (mkR h 0x12 d a b 0)
  | .maxu h d a b => some (mkR h 0x13 d a b 0)
  | .slt h d a b => some (mkR h 0x14 d a b 0)
  | .sltu h d a b => some (mkR h 0x15 d a b 0)
  | .sel h d a b c => some (mkR h 0x16 d a b c)
  | .clz h d a => some (mkR8 h 0x17 d a 0)
  | .popc h d a => some (mkR8 h 0x18 d a 0)
  | .jr h a => some (mkR8 h 0x19 0 a 0)
  | .tick h d => some (mkR8 h 0x1A d 0 0)
  | .idx h d l => some (mkR h 0x1B d 0 0 l)
  | .getc h d c => some (mkR8 h 0x1C d 0 c)
  | .setc h c a => some (mkR8 h 0x1D 0 a c)
  | .trap h n => some (mkR8 h 0x1E 0 0 n)
  | .endStream h => some (mkR8 h 0x1F 0 0 0)
  | .ldq h q a => some (mkR8 h 0x20 q a 0)
  | .ldt h q a b => some (mkR h 0x21 q a b 0)
  | .ldb h q a => some (mkR8 h 0x22 q a 0)
  | .ldg h q a b => some (mkR h 0x23 q a b 0)
  | .ldm h t q a b => some (mkR h 0x24 q a b t)
  | .ldx h d a => some (mkR8 h 0x25 d a 0)
  | .ldxm h d a => some (mkR8 h 0x26 d a 0)
  | .recv h c a => some (mkR8 h 0x27 0 a c)
  | .recvx h d c => some (mkR8 h 0x28 d 0 c)
  | .lstop h q => some (mkR8 h 0x29 q 0 0)
  | .stq h q a => some (mkR8 h 0x30 q a 0)
  | .stt h q a b => some (mkR h 0x31 q a b 0)
  | .stm h q a b => some (mkR h 0x32 q a b 0)
  | .stx h d a => some (mkR8 h 0x33 d a 0)
  | .stxm h d a => some (mkR8 h 0x34 d a 0)
  | .send h c a => some (mkR8 h 0x35 0 a c)
  | .sendx h c a => some (mkR8 h 0x36 0 a c)
  | .scat h q a b => some (mkR h 0x37 q a b 0)
  | .atom h op a b => some (mkR h 0x38 0 a b op.code)
  | .atomf h op d a b => some (mkR h 0x39 d a b op.code)
  | .sstop h q n => some (mkR8 h 0x3A q 0 n)
  | .vadd h t d a b => some (mkR h 0x40 d a b t.code)
  | .vsub h t d a b => some (mkR h 0x41 d a b t.code)
  | .vmul h t d a b => some (mkR h 0x42 d a b t.code)
  | .vfma h t d a b => some (mkR h 0x43 d a b t.code)
  | .vfms h t d a b => some (mkR h 0x44 d a b t.code)
  | .vmin h t d a b => some (mkR h 0x45 d a b t.code)
  | .vmax h t d a b => some (mkR h 0x46 d a b t.code)
  | .vabs h t d a => some (mkR h 0x47 d a 0 t.code)
  | .vneg h t d a => some (mkR h 0x48 d a 0 t.code)
  | .vrcp h t d a => some (mkR h 0x49 d a 0 t.code)
  | .vsqrt h t d a => some (mkR h 0x4A d a 0 t.code)
  | .vrsq h t d a => some (mkR h 0x4B d a 0 t.code)
  | .vexp h t d a => some (mkR h 0x4C d a 0 t.code)
  | .vlog h t d a => some (mkR h 0x4D d a 0 t.code)
  | .vtanh h t d a => some (mkR h 0x4E d a 0 t.code)
  | .vsig h t d a => some (mkR h 0x4F d a 0 t.code)
  | .vand h t d a b => some (mkR h 0x50 d a b t.code)
  | .vor h t d a b => some (mkR h 0x51 d a b t.code)
  | .vxor h t d a b => some (mkR h 0x52 d a b t.code)
  | .vshl h t d a b => some (mkR h 0x53 d a b t.code)
  | .vshr h t d a b => some (mkR h 0x54 d a b t.code)
  | .vsra h t d a b => some (mkR h 0x55 d a b t.code)
  | .vcmp h cc t d b => some (mkR h 0x56 d (0#1 ++ cc.code) b t.code)
  | .vselm h d a b c => some (mkR h 0x57 d a b c)
  | .vcvt h dir rm t d a => some (mkR h 0x58 d a (BitVec.ofBool dir ++ rm.code) t.code)
  | .vmov h t d a => some (mkR h 0x59 d a 0 t.code)
  | .vbcast h t d a => some (mkR h 0x5A d a 0 t.code)
  | .vrot h t d a b => some (mkR h 0x5B d a b t.code)
  | .vshuf h t d a b => some (mkR h 0x5C d a b t.code)
  | .vtrn h t d a => some (mkR h 0x5D d a 0 t.code)
  | .vscan h op t d a => some (mkR h 0x5E d a op.code t.code)
  | .vred h op t d a => some (mkR h 0x5F d a op.code t.code)
  | .vmadw h t d a b => some (mkR h 0x60 d a b t.code)
  | .vaddw h t d a p => some (mkR h 0x61 d a p t.code)
  | .vpop h d q k => some (mkR h 0x62 d q 0 k)
  | .vpush h t q a k => some (mkR h 0x63 q a k t.code)
  | .qdrop h q n => some (mkR8 h 0x64 0 q n)
  | .vdraw h t d => some (mkR h 0x65 d 0 0 t.code)
  | .vpopc h t d a => some (mkR h 0x66 d a 0 t.code)
  | .vclass h t d a => some (mkR h 0x67 d a 0 t.code)
  | .pand h d a b => some (mkR h 0x68 d a b 0)
  | .por h d a b => some (mkR h 0x69 d a b 0)
  | .pxor h d a b => some (mkR h 0x6A d a b 0)
  | .pnot h d a => some (mkR8 h 0x6B d a 0)
  | .pset h t d a r => some (mkR h 0x6C d a r t.code)
  | .pcnt h d a => some (mkR8 h 0x6D d a 0)
  | .pfirst h d a => some (mkR8 h 0x6E d a 0)
  | .vlane h t d a => some (mkR h 0x6F d a 0 t.code)
  | .mclr h d => some (mkR8 h 0x70 d 0 0)
  | .mma h t d a b => some (mkR h 0x71 d a b t.code)
  | .mread h t d a b => some (mkR h 0x72 d a b t.code)
  | .maddw h d a j => some (mkR h 0x73 d a j 0)
  | .mpush h d a j => some (mkR h 0x74 d a j 0)
  | .mstat h d a clr => some (mkR h 0x75 d a 0 (0#3 ++ BitVec.ofBool clr))
  | .cntw h c a => some (mkR8 h 0x78 0 a c)
  | .cnts h c a => some (mkR8 h 0x79 0 a c)
  | .cntr h d c => some (mkR8 h 0x7A d 0 c)
  | .drift h a => some (mkR8 h 0x7B 0 a 0)
  | .sealR h a b => some (mkR h 0x7C 0 a b 0)
  | .unsealR h a b => some (mkR h 0x7D 0 a b 0)
  | .bfmt h f a => some (mkR h 0x7E 0 a 0 f)
  | .dkey h a => some (mkR8 h 0x7F 0 a 0)
  | .addi h d a m => some (mkI h 0x00 d a m)
  | .andi h d a m => some (mkI h 0x01 d a m)
  | .ori h d a m => some (mkI h 0x02 d a m)
  | .xori h d a m => some (mkI h 0x03 d a m)
  | .slli h d a m => some (mkI h 0x04 d a m)
  | .srli h d a m => some (mkI h 0x05 d a m)
  | .srai h d a m => some (mkI h 0x06 d a m)
  | .slti h d a m => some (mkI h 0x07 d a m)
  | .beq h d a m => some (mkI h 0x08 d a m)
  | .bne h d a m => some (mkI h 0x09 d a m)
  | .blt h d a m => some (mkI h 0x0A d a m)
  | .bge h d a m => some (mkI h 0x0B d a m)
  | .bltu h d a m => some (mkI h 0x0C d a m)
  | .bgeu h d a m => some (mkI h 0x0D d a m)
  | .loop h n rot a len => some (mkI h 0x0E (BitVec.ofBool rot ++ n) a len)
  | .waitd h a m => some (mkI h 0x0F 0 a m)
  | .formld h f a => some (mkI h 0x10 0 a f)
  | .ldxo h d a m => some (mkI h 0x11 d a m)
  | .stxo h d a m => some (mkI h 0x12 d a m)
  | .vbcasti h t d m => some (mkI h 0x13 d t.code m)
  | .li h d m => some (mkW h 0 d m)
  | .lih h d m => some (mkW h 1 d m)
  | .j h m => some (mkW h 2 0 m)
  | .jal h d m => some (mkW h 3 d m)
  | .waitt h d m => some (mkW h 4 d m)
  | .lstrm h _ _ _ _ _ => some (mkP h)
  | .gathp h _ _ _ _ => some (mkP h)
  | .sstrm h _ _ _ _ _ => some (mkP h)
  | .vtopk h _ _ _ _ _ _ _ => some (mkP h)
  | .mmaForm h _ _ _ _ _ _ _ _ _ => some (mkP h)
  | .mreadForm h _ _ _ _ _ _ _ _ _ _ => some (mkP h)
  | .dkeySplit h _ _ _ => some (mkP h)
  | .dkeySetCounter h _ _ _ => some (mkP h)
  | .copy h _ _ _ _ _ _ _ _ _ _ _ _ _ _ => some (mkP h)
  | .coll h _ _ _ _ _ _ _ _ _ _ _ _ _ _ _ _ => some (mkP h)
  | .condStep a b => some (mkR hd0 0x20 0 a b 0)
  | .fence a b n => some (mkR hd0 0x21 0 a b n)
  | .signal c a => some (mkR8 hd0 0x22 0 a c)
  | .launch d a b => some (mkR hd0 0x23 d a b 0)
  | .joinc d => some (mkR8 hd0 0x24 d 0 0)
  | .yieldp => some (mkR8 hd0 0x25 0 0 0)
  | .hostn a c => some (mkR8 hd0 0x26 0 a c)
  | .endConductor => some (mkR8 hd0 0x1F 0 0 0)
  | .cntwConductor c a => some (mkR8 hd0 0x78 0 a c)
  | .cntsConductor c a => some (mkR8 hd0 0x79 0 a c)
  | .cntrConductor d c => some (mkR8 hd0 0x7A d 0 c)
  | .tlbia d a => some (mkR8 hd0 0x30 d a 0)
  | .tlbiv d a b => some (mkR hd0 0x31 d a b 0)
  | .pgret d a => some (mkR8 hd0 0x32 d a 0)
  | .celr d a => some (mkR8 hd0 0x33 d a 0)
  | .rmcmd d a => some (mkR8 hd0 0x34 d a 0)
  | .place _ | .start _ | .yieldCmd _ | .freeze _ | .resume _ | .release _ | .zeroFillComplete _
  | .graphRunBegin _ | .stepStaged _ | .stepRendezvous _ | .planeSwap _ | .resultWriteback _ | .bankAccess _
  | .queueAppend _ | .runningFormStep _ | .mmaBlockAdd _ | .channelAccess _ | .memoryResponse _
  | .wordDeparture _ | .wordDue _ | .physicalArrival _ _ | .linkHoldTimeout _ | .waitEnd _ | .tickBound _
  | .counterHoldEnd _ _ | .contextHoldEnd _ _ | .cntsRelease _ | .copyOpStart _ _ _ | .copyOpComplete _ _ _
  | .collOpStart _ _ _ | .collOpComplete _ _ | .stepStop _ | .stepReexecute _ | .runRestart _ | .freezePoint _
  | .virgaDrainDone _ | .contextSave _ | .resumeRestored _ | .regionFreed _ | .quarantineSweepDone _ _
  | .tenureBoundary | .tenureSample | .grantWordArrival _ _ _ | .tenureYieldTimeout | .boundaryBeatSend
  | .boundaryBeatArrival _ | .boundaryBeatTimeout | .firmamentBeatSend | .firmamentBeatArrival _ _ | .ppsEdge _
  | .ppsSecondCount | .linkTrainingDone _ _ | .linkLaneLoss _ _ | .hostTranslationResponse _ _ _ _
  | .counterWindowWrite _ _ _ | .memoryWindowRead | .memoryWindowWrite | .memoryWindowDone
  | .tableStoreWrite _ _ _ | .vdRecordWrite _ _ | .eventRingHeadWrite _ | .eventPostResume
  | .eventRingConfigWrite _ _ | .powerGood | .moduleReset | .bootRom | .bootFw | .bootFabric _ | .bootReady
  | .firmwareCommit | .firmwareStagingWrite _ _ | .pcapWrite _ | .attestationRequest _ | .attestationDone
  | .celbaseWrite _ | .registerWrite _ _ | .thermalTrip | .retirementCopyDone _ _ | .illegalInstruction _
  | .ppsokClear => none

/-- The patched form of a form instruction (03 R35 and the tables of its rule); 0 for every other instruction. -/
def encodeForm : Instr → BitVec 128
  | .lstrm _ g q a st c => 0x01#8 ++ g ++ 0#3 ++ q ++ 0#64 ++ c ++ st ++ 0#12 ++ a
  | .gathp _ g q wr pr => 0x09#8 ++ g ++ 0#3 ++ q ++ 0#80 ++ 0#12 ++ pr ++ 0#12 ++ wr
  | .sstrm _ g q a st c => 0x02#8 ++ g ++ 0#3 ++ q ++ 0#64 ++ c ++ st ++ 0#12 ++ a
  | .vtopk _ g t k vs xs vd xd => 0x07#8 ++ g ++ 0#1 ++ t.code ++ 0#80 ++ 0#8 ++ k ++ xd ++ vd ++ xs ++ vs
  | .mmaForm _ g acc c bp ar bt at' tb ta =>
    0x03#8 ++ g ++ 0#4 ++ BitVec.ofBool acc ++ 0#64 ++ 0#11 ++ c ++ 0#9 ++ bp ++ ar ++ bt.code ++ at'.code ++ tb ++ ta
  | .mreadForm _ g rm acc gr b1 b0 ba b t td =>
    0x04#8 ++ g ++ 0#1 ++ rm.code ++ BitVec.ofBool acc ++ 0#44 ++ gr ++ b1 ++ b0 ++ ba ++ 0#6 ++ b ++ t.code ++ td
  | .dkeySplit _ g i c => 0x08#8 ++ g ++ 0#5 ++ 0#104 ++ c ++ i
  | .dkeySetCounter _ g i c => 0x08#8 ++ g ++ 1#5 ++ 0#104 ++ c ++ i
  | .copy _ g dk sk sr cx wr we wc ce ct n l d s =>
    0x05#8 ++ g ++ 0#1 ++ BitVec.ofBool dk ++ BitVec.ofBool sk ++ BitVec.ofBool sr ++ BitVec.ofBool cx ++ 0#64 ++ 0#4 ++
      wr ++ 0#1 ++ BitVec.ofBool we ++ wc ++ 0#9 ++ BitVec.ofBool ce ++ ct ++ n ++ l ++ d ++ s
  | .coll _ g sc root fan cnt t red pat wr we wc ct n l d s =>
    0x06#8 ++ g ++ 0#3 ++ sc.code ++ 0#8 ++ root ++ 0#8 ++ fan ++ 0#8 ++ cnt ++ 0#4 ++ t.code ++ 0#2 ++ red.code ++
      0#1 ++ pat.code ++ 0#4 ++ wr ++ 0#1 ++ BitVec.ofBool we ++ wc ++ 0#10 ++ ct ++ n ++ l ++ d ++ s
  | _ => 0

/-- The P word's patch, applied to the patched form, changes nothing: FIELD names a field that holds VALUE, or is 15
with VALUE 0 (03 R36). True of every instruction that is no form. -/
def patchOk (i : Instr) : Bool :=
  match i with
  | .lstrm h _ _ _ _ _ | .gathp h _ _ _ _ | .sstrm h _ _ _ _ _ | .vtopk h _ _ _ _ _ _ _
  | .mmaForm h _ _ _ _ _ _ _ _ _ | .mreadForm h _ _ _ _ _ _ _ _ _ _ | .dkeySplit h _ _ _ | .dkeySetCounter h _ _ _
  | .copy h _ _ _ _ _ _ _ _ _ _ _ _ _ _ | .coll h _ _ _ _ _ _ _ _ _ _ _ _ _ _ _ _ =>
    if h.fld.toNat < 8 then patchForm (encodeForm i) h.fld h.value == encodeForm i
    else h.fld == 15 && h.value == 0
  | _ => true

/-! ## The table's words -/

/-- The sequencer kinds on which a table word is tried: a conductor where IDLE, S and GUARD are 0, then the streams.
The same word is LDQ on a load stream and STEP on a conductor (03 R46), so a word alone does not name its row. -/
def tableKinds (w : BitVec 32) : List SeqKind :=
  if fIdle w == 0 && !fS w && rG w == 0 && fClass w == 0 && 0x1F ≤ (rOp w).toNat then
    [.conductor, .service, .load, .exec, .store, .ctl]
  else [.load, .exec, .store, .ctl]

/-- The first kind of `ks` that accepts `w`, with the instruction. -/
def firstDecode (w : BitVec 32) : List SeqKind → Option (SeqKind × Instr)
  | [] => none
  | k :: ks =>
    match decode k 0 w with
    | .ok i => some (k, i)
    | .error _ => firstDecode w ks

/-- The kind and the instruction of a table word. -/
def tableDecode (nbits w : Nat) : Option (SeqKind × Instr) :=
  let v := BitVec.ofNat 32 (w % 2 ^ (min nbits 32))
  firstDecode v (tableKinds v)

/-- The instruction the decoder reads from a word of the opcode table. -/
def decodeTableWord (nbits w : Nat) : Option Instr := (tableDecode nbits w).map (·.2)

end Sys2Proof
end

