-- ==== Sys2Proof/Machine/Num.lean ====
section
/-! DEFINITION. Number formats, exact values, rounding and draws (04). -/

namespace Sys2Proof

open Machine

/-! ## Exact values -/

/-- An exact value: NaN, an infinity, or (-1)^neg · num · 2^exp, where a zero keeps its sign (04 R49, R57). -/
inductive Val where
  | nan
  | inf (neg : Bool)
  | fin (neg : Bool) (num : Nat) (exp : Int)
  deriving DecidableEq, Repr

/-- Positive zero. -/
def Val.zero : Val := .fin false 0 0

/-- The exact value of an integer. -/
def Val.ofInt (x : Int) (exp : Int := 0) : Val := .fin (x < 0) x.natAbs exp

/-- A number times 2^k, for a k that is not negative. -/
def shl (x : Nat) (k : Int) : Nat := x <<< k.toNat

/-- The signed numerator of a finite value at exponent `e`, which is at most its own. -/
def Val.at (neg : Bool) (num : Nat) (exp e : Int) : Int :=
  let n := shl num (exp - e)
  if neg then -(n : Int) else n

/-- Exact product; 0 · ∞ is NaN; the sign is the XOR of the signs (04 R57). -/
def Val.mul : Val → Val → Val
  | .nan, _ | _, .nan => .nan
  | .inf s, .inf t => .inf (s != t)
  | .inf s, .fin t n _ => if n = 0 then .nan else .inf (s != t)
  | .fin s n _, .inf t => if n = 0 then .nan else .inf (s != t)
  | .fin s n e, .fin t m f => .fin (s != t) (n * m) (e + f)

/-- Exact sum; ∞ − ∞ is NaN; an exact zero is −0 only when both terms are −0 (04 R57). -/
def Val.add : Val → Val → Val
  | .nan, _ | _, .nan => .nan
  | .inf s, .inf t => if s = t then .inf s else .nan
  | .inf s, .fin _ _ _ => .inf s
  | .fin _ _ _, .inf t => .inf t
  | .fin s n e, .fin t m f =>
    if n = 0 ∧ m = 0 then .fin (s && t) 0 0
    else
      let g := min e f
      let x := Val.at s n e g + Val.at t m f g
      if x = 0 then .zero else .fin (x < 0) x.natAbs g

/-- The value with its sign changed. -/
def Val.neg : Val → Val
  | .nan => .nan
  | .inf s => .inf (!s)
  | .fin s n e => .fin (!s) n e

/-- The value without its sign. -/
def Val.abs : Val → Val
  | .nan => .nan
  | .inf _ => .inf false
  | .fin _ n e => .fin false n e

/-- Order of two values that are not NaN; −0 equals +0. -/
def Val.lt : Val → Val → Bool
  | .nan, _ | _, .nan => false
  | .inf s, .inf t => s && !t
  | .inf s, .fin _ _ _ => s
  | .fin _ _ _, .inf t => !t
  | .fin s n e, .fin t m f => let g := min e f; Val.at s n e g < Val.at t m f g

/-- A NaN. -/
def Val.isNan : Val → Bool
  | .nan => true
  | _ => false

/-- An infinity of either sign. -/
def Val.isInf : Val → Bool
  | .inf _ => true
  | _ => false

/-- A sign bit of 1. -/
def Val.sign : Val → Bool
  | .nan => false
  | .inf s => s
  | .fin s _ _ => s

/-- A zero of either sign. -/
def Val.isZero : Val → Bool
  | .fin _ 0 _ => true
  | _ => false

/-- Equality of values; NaN equals nothing, −0 equals +0. -/
def Val.eq (a b : Val) : Bool := !a.isNan && !b.isNan && !a.lt b && !b.lt a

/-- Maximum: any NaN gives NaN, max(+0, −0) is +0 (04 R60). -/
def Val.max (a b : Val) : Val :=
  if a.isNan || b.isNan then .nan
  else if a.lt b then b else if b.lt a then a else if a.sign then b else a

/-- Minimum: any NaN gives NaN, min(+0, −0) is −0 (04 R60). -/
def Val.min (a b : Val) : Val :=
  if a.isNan || b.isNan then .nan
  else if a.lt b then a else if b.lt a then b else if a.sign then a else b

/-! ## Formats -/

/-- The width of an element in a row or an entry (07 R136, 04 R52). -/
def ETy.width : ETy → Nat
  | .f32 | .i32 | .u32 => 32
  | .bf16 | .f16 | .i16 => 16
  | .e4m3 | .e5m2 | .i8 | .u8 => 8
  | .e2m1 | .i4 => 4
  | .i64 => 64
  | .w96 => 128

/-- Lanes of a tile-register row (07 R136). -/
def ETy.lanes (t : ETy) : Nat := 4096 / t.width

/-- A floating-point layout: exponent bits, mantissa bits, bias (04 R49). -/
structure Flt where
  ebits : Nat
  mbits : Nat
  bias : Nat
  /-- E4M3 and E2M1 have no infinity -/
  hasInf : Bool
  /-- the largest finite code without its sign -/
  maxCode : Nat
  /-- the canonical NaN (04 R50); 0 where the format has none (04 R55) -/
  nan : Nat

/-- The layout of a floating-point type (04 R49, R50). -/
def ETy.flt : ETy → Option Flt
  | .f32 => some ⟨8, 23, 127, true, 0x7F7FFFFF, 0x7FC00000⟩
  | .bf16 => some ⟨8, 7, 127, true, 0x7F7F, 0x7FC0⟩
  | .f16 => some ⟨5, 10, 15, true, 0x7BFF, 0x7E00⟩
  | .e5m2 => some ⟨5, 2, 15, true, 0x7B, 0x7E⟩
  | .e4m3 => some ⟨4, 3, 7, false, 0x7E, 0x7F⟩
  | .e2m1 => some ⟨2, 1, 1, false, 7, 0⟩
  | _ => none

/-- Whether an integer type is signed; W96 is. -/
def ETy.isSigned : ETy → Bool
  | .i4 | .i8 | .i16 | .i32 | .i64 | .w96 => true
  | _ => false

/-- The exponent of the unit of the smallest subnormal. -/
def Flt.uMin (f : Flt) : Int := 1 - (f.bias : Int) - f.mbits

/-- The value of a floating-point code (04 R49). -/
def Flt.val (f : Flt) (code : Nat) : Val :=
  let m := code % 2 ^ f.mbits
  let e := (code >>> f.mbits) % 2 ^ f.ebits
  let s := (code >>> (f.mbits + f.ebits)) % 2 = 1
  let mag := code % 2 ^ (f.mbits + f.ebits)
  if f.maxCode < mag then (if f.hasInf ∧ m = 0 then .inf s else .nan)
  else if e = 0 then .fin s m f.uMin
  else .fin s (2 ^ f.mbits + m) (f.uMin + e - 1)

/-- The value of an element of a type (04 R49 to R52). -/
def ETy.val (t : ETy) (code : Nat) : Val :=
  match t.flt with
  | some f => f.val (code % 2 ^ t.width)
  | none =>
    match t with
    | .w96 => .ofInt (signed (code % 2 ^ 96) 96) (-32)
    | t => .ofInt (if t.isSigned then signed (code % 2 ^ t.width) t.width else (code % 2 ^ t.width : Nat))

/-- A code as a result has it: a NaN is canonical (04 R50). -/
def ETy.canon (t : ETy) (code : Nat) : Nat :=
  match t.flt with
  | some f => if (f.val (code % 2 ^ t.width)).isNan then f.nan else code
  | none => code

/-- The value of an E3M5 block scale (04 R53). -/
def scaleVal (code : Nat) : Val :=
  let e := (code >>> 5) % 8
  let m := code % 32
  if e = 0 then .fin false m (-7) else .fin false (32 + m) ((e : Int) - 8)

/-! ## Rounding -/

/-- Whether a magnitude between `n` and `n + 1` units, with the fraction r/d, goes up to `n + 1` (04 R54, R56). -/
def roundsUp (rm : RMode) (neg : Bool) (draw n r d : Nat) : Bool :=
  match rm with
  | .rne => d < 2 * r || (2 * r == d && n % 2 == 1)
  | .rtz => false
  | .rup => r != 0 && !neg
  | .rdn => r != 0 && neg
  | .sr => draw >>> 8 < (r * 2 ^ 24) / d

/-- The floor of log2 of p·2^e/q, for p and q that are not zero. -/
def ratioLog2 (p q : Nat) (e : Int) : Int :=
  let est : Int := (p.log2 : Int) - q.log2
  let ok := if 0 ≤ est then shl q est ≤ p else q ≤ shl p (-est)
  (if ok then est else est - 1) + e

/-- p·2^e/q in units of 2^u: floor, remainder and denominator. -/
def inUnits (p q : Nat) (e u : Int) : Nat × Nat × Nat :=
  let k := e - u
  let num := if 0 ≤ k then shl p k else p
  let den := if 0 ≤ k then q else shl q (-k)
  (num / den, num % den, den)

/-- A magnitude p·2^e/q rounded into a floating-point format, with its sign (04 R54 to R56). -/
def Flt.round (f : Flt) (rm : RMode) (draw : Nat) (neg : Bool) (p q : Nat) (e : Int) : Nat :=
  let sgn := if neg then 2 ^ (f.mbits + f.ebits) else 0
  if p = 0 then sgn
  else
    let u := max f.uMin (ratioLog2 p q e - f.mbits)
    let (n, r, d) := inUnits p q e u
    let c0 := ((u - f.uMin).toNat <<< f.mbits) + n
    let inf := f.maxCode + 1
    let c :=
      if f.maxCode < c0 then
        match rm with
        | .rne | .sr => inf
        | .rtz => f.maxCode
        | .rup => if neg then f.maxCode else inf
        | .rdn => if neg then inf else f.maxCode
      else if roundsUp rm neg draw n r d then c0 + 1 else c0
    sgn + (if f.hasInf then min c inf else min c f.maxCode)

/-- A magnitude p·2^e/q rounded to a multiple of 2^u, as a signed number of units. -/
def roundUnits (rm : RMode) (draw : Nat) (neg : Bool) (p q : Nat) (e u : Int) : Int :=
  let (n, r, d) := inUnits p q e u
  let m := if roundsUp rm neg draw n r d then n + 1 else n
  if neg then -(m : Int) else m

/-- An integer at the nearer end of a range when it lies outside. -/
def clampInt (lo hi x : Int) : Int := if x < lo then lo else if hi < x then hi else x

/-- The least and greatest value of an integer type, in its units. -/
def ETy.intRange : ETy → Int × Int
  | .w96 => (-(2 ^ 95), 2 ^ 95 - 1)
  | t => if t.isSigned then (-(2 ^ (t.width - 1) : Nat), (2 ^ (t.width - 1) : Nat) - 1) else (0, (2 ^ t.width : Nat) - 1)

/-- The exponent of the unit of an integer type; 2^-32 for W96 (04 R52). -/
def ETy.unit : ETy → Int
  | .w96 => -32
  | _ => 0

/-- A ratio of a sign and a magnitude p·2^e/q converted into an element type (04 R52, R54 to R56). -/
def ETy.roundRatio (t : ETy) (rm : RMode) (draw : Nat) (neg : Bool) (p q : Nat) (e : Int) : Nat :=
  match t.flt with
  | some f => f.round rm draw neg p q e
  | none =>
    let (lo, hi) := t.intRange
    (wrap t.width (clampInt lo hi (roundUnits rm draw neg p q e t.unit))).toNat

/-- A value converted into an element type (04 R52, R54 to R56). -/
def ETy.round (t : ETy) (rm : RMode) (draw : Nat) (v : Val) : Nat :=
  match v with
  | .fin s n e => t.roundRatio rm draw s n 1 e
  | .nan =>
    match t.flt with
    | some f => f.nan
    | none => 0
  | .inf s =>
    match t.flt with
    | some f => (if s then 2 ^ (f.mbits + f.ebits) else 0) + (if f.hasInf then f.maxCode + 1 else f.maxCode)
    | none => let (lo, hi) := t.intRange; (wrap t.width (if s then lo else hi)).toNat

/-- A value converted into an E3M5 scale (04 R53). -/
def scaleRound (rm : RMode) (draw : Nat) (v : Val) : Nat :=
  match v with
  | .nan => 0
  | .inf s => if s then 0 else 0xFF
  | .fin s n e => if s then 0 else min 0xFF ((⟨3, 5, 3, false, 0xFF, 0⟩ : Flt).round rm draw false n 1 e)

/-- A W96 element from a signed number of units of 2^-32, saturated, and whether it saturated (08 R167). -/
def w96Sat (x : Int) : W96 × Bool :=
  let y := clampInt (-(2 ^ 95)) (2 ^ 95 - 1) x
  (wrap 96 y, y != x)

/-- A W96 element as a signed number of units. -/
def w96Int (v : W96) : Int := v.toInt

/-- Sixteen bytes of a stored W96 (04 R52): bits [127:96] are copies of bit 95. -/
def w96Store (v : W96) : BitVec 128 := v.signExtend 128

/-! ## Draws -/

/-- 32-bit rotation left. -/
def rotl32 (x : BitVec 32) (n : Nat) : BitVec 32 := x.rotateLeft n

/-- The rounds of D10 that are left (04 R62). -/
def d10Rounds : Nat → BitVec 32 → BitVec 32 → BitVec 32 × BitVec 32 × BitVec 32 × BitVec 32 →
    BitVec 32 × BitVec 32 × BitVec 32 × BitVec 32
  | 0, _, _, x => x
  | r + 1, k0, k1, (x0, x1, x2, x3) =>
    let x0 := x0 + x1 + k0
    let x2 := x2 + x3 + k1
    let x1 := rotl32 x1 12 ^^^ x2
    let x3 := rotl32 x3 24 ^^^ x0
    d10Rounds r (k0 + 0x6A09E667) (k1 + 0xA54FF53A) (x1, x2, x3, x0)

/-- D10 of a key, a counter and an identity (04 R62). -/
def d10 (key ctr id : BitVec 64) : BitVec 32 × BitVec 32 × BitVec 32 × BitVec 32 :=
  d10Rounds 10 (key.extractLsb' 0 32) (key.extractLsb' 32 32)
    (ctr.extractLsb' 0 32, ctr.extractLsb' 32 32, id.extractLsb' 0 32, id.extractLsb' 32 32)

/-- The draw: output word 0 of D10. -/
def drawWord (key ctr id : BitVec 64) : Nat := (d10 key ctr id).1.toNat

/-- A key from words 0 and 1 of D10 (04 R67, R68). -/
def d10Key (key ctr id : BitVec 64) : BitVec 64 :=
  let x := d10 key ctr id
  x.2.1 ++ x.1

end Sys2Proof
end

