-- ==== Sys2Proof/Machine/Funcs.lean ====
section
/-! DEFINITION. The correctly rounded functions (04 R58). Quotients and roots are exact; exponential, logarithm, tanh and
sigmoid are enclosed between two fixed-point bounds that are narrowed until both round alike. -/

namespace Sys2Proof

open Machine

/-- Integer square root, `b` bits of the root left to find. -/
def isqrtFrom (n r : Nat) : Nat → Nat
  | 0 => r
  | b + 1 => let c := r + 2 ^ b; isqrtFrom n (if c * c ≤ n then c else r) b

/-- The floor of the square root. -/
def isqrt (n : Nat) : Nat := isqrtFrom n 0 (n.log2 / 2 + 1)

/-- A root as a ratio: floor at `r` units of 2^u, and a half unit more where it is not exact, which rounds alike. -/
def sticky (r : Nat) (exact : Bool) : Nat := 2 * r + (if exact then 0 else 1)

/-- 1/x (04 R58). -/
def fnRcp (t : ETy) (v : Val) : Nat :=
  match v with
  | .nan => t.round .rne 0 .nan
  | .inf s => t.round .rne 0 (.fin s 0 0)
  | .fin s n e => if n = 0 then t.round .rne 0 (.inf s) else t.roundRatio .rne 0 s 1 n (-e)

/-- The square root (04 R58). -/
def fnSqrt (t : ETy) (v : Val) : Nat :=
  match v with
  | .nan => t.round .rne 0 .nan
  | .inf s => t.round .rne 0 (if s then .nan else .inf false)
  | .fin s n e =>
    if n = 0 then t.round .rne 0 (.fin s 0 0)
    else if s then t.round .rne 0 .nan
    else
      let par := (e % 2).toNat
      let m := n <<< (par + 128)
      let r := isqrt m
      t.roundRatio .rne 0 false (sticky r (r * r == m)) 1 ((e - par) / 2 - 65)

/-- 1/√x (04 R58). -/
def fnRsq (t : ETy) (v : Val) : Nat :=
  match v with
  | .nan => t.round .rne 0 .nan
  | .inf s => t.round .rne 0 (if s then .nan else .zero)
  | .fin s n e =>
    if n = 0 then t.round .rne 0 (.inf s)
    else if s then t.round .rne 0 .nan
    else
      let par := (e % 2).toNat
      let d := n <<< par
      let m := 2 ^ 256 / d
      let r := isqrt m
      t.roundRatio .rne 0 false (sticky r (r * r * d == 2 ^ 256)) 1 (-((e - par) / 2) - 129)

/-! ## Enclosures in units of 2^-p -/

/-- The sum of z^k/k! from the term `t` on, `k` the index of the next factor; the error is below one unit a term. -/
def expSum (p z : Nat) : Nat → Nat → Nat → Nat
  | 0, _, _ => 0
  | n + 1, k, t => t + expSum p z n (k + 1) (((t * z) >>> p) / k)

/-- Bounds squared `j` times. -/
def squareUp (p : Nat) : Nat → Nat × Nat → Nat × Nat
  | 0, b => b
  | j + 1, (lo, hi) => squareUp p j ((lo * lo) >>> p, ((hi * hi) >>> p) + 1)

/-- Bounds of e^x for x = n·2^e with 0 ≤ x < 2^11, in units of 2^-p. -/
def expBounds (p n : Nat) (e : Int) : Nat × Nat :=
  let j : Nat := 16
  let k := (p : Int) - j + e
  let z := if 0 ≤ k then shl n k else n >>> (-k).toNat
  let s := expSum p z (p / 4 + 40) 1 (2 ^ p)
  squareUp p j (s - 2, s + p + 200)

/-- The sum of z^(2i+1)/(2i+1) from the power `t` on. -/
def atanhSum (p z2 : Nat) : Nat → Nat → Nat → Nat
  | 0, _, _ => 0
  | n + 1, i, t => t / (2 * i + 1) + atanhSum p z2 n (i + 1) ((t * z2) >>> p)

/-- 2·atanh(a/b) in units of 2^-p, for a/b at most 1/3; low by less than p + 64 units. -/
def logRatio (p a b : Nat) : Nat :=
  let z := (a <<< p) / b
  2 * atanhSum p ((z * z) >>> p) (p / 3 + 8) 0 z

/-- ln of x = n·2^e as bounds in units of 2^-p, signed. -/
def logBounds (p n : Nat) (e : Int) : Int × Int :=
  let l := n.log2
  let m := 2 ^ l
  let k := e + l
  let v : Int := logRatio p (n - m) (n + m) + k * logRatio p 1 3
  let err : Int := (k.natAbs + 2) * (2 * p + 200)
  (v - err, v + err)

/-- Two bounds of a magnitude, in units of 2^-p, that round alike give the result; `none` where they do not. -/
def agree (t : ETy) (neg : Bool) (p : Nat) (lo hi : Nat) : Option Nat :=
  let a := t.roundRatio .rne 0 neg lo 1 (-(p : Int))
  let b := t.roundRatio .rne 0 neg hi 1 (-(p : Int))
  if a = b then some a else none

/-- The first precision of 256, 512, 1024, … that decides, `fuel` of them; `last` where none does (no input of an accepted
format is known to need more than the second). -/
def firstAgree (f : Nat → Option Nat) (last : Nat) : Nat → Nat → Nat
  | 0, _ => last
  | fuel + 1, p =>
    match f p with
    | some r => r
    | none => firstAgree f last fuel (2 * p)

/-- x ≥ 2^k in magnitude. -/
def atLeastPow (n : Nat) (e k : Int) : Bool := k ≤ (n.log2 : Int) + e

/-- e^x (04 R58). -/
def fnExp (t : ETy) (v : Val) : Nat :=
  match v with
  | .nan => t.round .rne 0 .nan
  | .inf s => t.round .rne 0 (if s then .zero else .inf false)
  | .fin s n e =>
    if n = 0 then t.round .rne 0 (.ofInt 1)
    else if atLeastPow n e 10 then
      (if s then t.roundRatio .rne 0 false 1 1 (-1000) else t.roundRatio .rne 0 false 1 1 1000)
    else
      firstAgree (fun p =>
        let (lo, hi) := expBounds p n e
        if s then agree t false p (2 ^ (2 * p) / hi) (2 ^ (2 * p) / lo + 1) else agree t false p lo hi)
        0 6 512

/-- ln x (04 R58). -/
def fnLog (t : ETy) (v : Val) : Nat :=
  match v with
  | .nan => t.round .rne 0 .nan
  | .inf s => t.round .rne 0 (if s then .nan else .inf false)
  | .fin s n e =>
    if n = 0 then t.round .rne 0 (.inf true)
    else if s then t.round .rne 0 .nan
    else if Val.eq v (.ofInt 1) then t.round .rne 0 .zero
    else
      firstAgree (fun p =>
        let (lo, hi) := logBounds p n e
        if 0 ≤ lo then agree t false p lo.toNat hi.toNat
        else if hi ≤ 0 then agree t true p (-hi).toNat (-lo).toNat
        else none) 0 6 512

/-- tanh x (04 R58): 1 − 2/(e^2x + 1) for positive x. -/
def fnTanh (t : ETy) (v : Val) : Nat :=
  match v with
  | .nan => t.round .rne 0 .nan
  | .inf s => t.round .rne 0 (.fin s 1 0)
  | .fin s n e =>
    if n = 0 then t.round .rne 0 (.fin s 0 0)
    else if atLeastPow n e 6 then t.roundRatio .rne 0 s (2 ^ 60 - 1) 1 (-60)
    else
      firstAgree (fun p =>
        let (lo, hi) := expBounds p n (e + 1)
        let one := 2 ^ p
        agree t s p (one - (2 ^ (2 * p + 1) / (lo + one) + 1)) (one - 2 ^ (2 * p + 1) / (hi + one)))
        0 6 512

/-- 1/(1 + e^−x) (04 R58). -/
def fnSig (t : ETy) (v : Val) : Nat :=
  match v with
  | .nan => t.round .rne 0 .nan
  | .inf s => t.round .rne 0 (if s then .zero else .ofInt 1)
  | .fin s n e =>
    if n = 0 then t.round .rne 0 (.fin false 1 (-1))
    else if atLeastPow n e 10 then
      (if s then t.roundRatio .rne 0 false 1 1 (-1000) else t.roundRatio .rne 0 false (2 ^ 60 - 1) 1 (-60))
    else
      firstAgree (fun p =>
        let (lo, hi) := expBounds p n e
        let one := 2 ^ p
        if s then agree t false p (2 ^ (2 * p) / (hi + one)) (2 ^ (2 * p) / (lo + one) + 1)
        else agree t false p (one - (2 ^ (2 * p) / (lo + one) + 1)) (one - 2 ^ (2 * p) / (hi + one)))
        0 6 512

end Sys2Proof
end

