-- ==== Sys2Proof/Machine/Operands.lean ====
section
/-! DEFINITION. Operand forms: scalar registers, scratchpad and virtual addresses, rows, masks and elements. -/

namespace Sys2Proof.Machine

/-! ## Scalar registers -/

/-- A scalar register; s0 reads as zero (05 R75). -/
def regGet (s : Regs) (r : BitVec 4) : Word := if r = 0 then 0 else tabGet 0 s r.toNat

/-- A scalar register written; a write to s0 is discarded (05 R75). -/
def regSet (s : Regs) (r : BitVec 4) (v : Word) : Regs := if r = 0 then s else tabSet 0 s r.toNat v

/-! ## Scratchpad addresses (06 R103, R104) -/

/-- Bytes of a scratchpad. -/
def spadSize : Nat := 0x180000

/-- A scratchpad address that passes the checks R104 makes of the address alone. -/
structure SAddr where
  dx : Int
  dy : Int
  off : Nat

/-- Hops to the addressed tile. -/
def SAddr.hops (a : SAddr) : Nat := a.dx.natAbs + a.dy.natAbs

/-- The fields of a scratchpad address, where it is one. -/
def spadAddr (v : Word) : Option SAddr :=
  let off := slice v 0 21
  let dx := signed (slice v 21 4) 4
  let dy := signed (slice v 25 4) 4
  let a : SAddr := ⟨dx, dy, off⟩
  if slice v 29 35 = 0 ∧ off < spadSize ∧ dx ≠ -8 ∧ dy ≠ -8 ∧ a.hops ≤ 7 then some a else none

/-- The bank of a scratchpad offset. -/
def bankOf (off : Nat) : Nat := off / 32768

/-- The line of a scratchpad offset. -/
def lineOf (off : Nat) : Nat := off / 64

/-! ## Virtual addresses (16 R263) -/

/-- HALF, bit 56. -/
def vaDevice (v : Word) : Bool := v.getLsbD 56

/-- DIE, bits [55:49]. -/
def vaDie (v : Word) : Nat := slice v 49 7

/-- OFFSET, bits [48:0]. -/
def vaOff (v : Word) : Nat := slice v 0 49

/-- Bits [63:57] zero. -/
def vaClean (v : Word) : Bool := slice v 57 7 = 0

/-! ## Elements and rows -/

/-- Element `l` of width `w` of a row or entry. -/
def elemAt (row w l : Nat) : Nat := bitsOf row (w * l) w

/-- A row of elements of a type from a function of the lane. -/
def rowOf (t : ETy) (f : Nat → Nat) : Nat := packFn t.width t.lanes f

/-- Bits of a row that a lane mask lets an instruction write, at a width (07 R138, R142). -/
def laneMask (mask : BitVec 512) (w : Nat) : BitVec 4096 :=
  if mask = BitVec.allOnes 512 then BitVec.allOnes 4096
  else BitVec.ofNat 4096 (maskFn w (4096 / w) (fun l => mask.getLsbD (if w = 4 then l / 2 else l)))

/-- Whether a lane is present under a mask, at a width (07 R138). -/
def laneOn (mask : BitVec 512) (w l : Nat) : Bool := mask.getLsbD (if w = 4 then l / 2 else l)

/-- The scale byte of element `l` of row `i`, from the set of its row pair (07 R137). -/
def scaleOf (set : BitVec 1024) (t : ETy) (i l : Nat) : Nat :=
  slice set (8 * ((((i % 2) * t.lanes + l) / 8) % 128)) 8

/-- The value of a scaled element: element times block scale, exactly; a NaN element is NaN and an infinite element with
a zero scale is NaN (06 R107). -/
def scaledVal (t : ETy) (code scale : Nat) : Val :=
  if t.isScaled then Val.mul (t.val code) (scaleVal scale) else t.val code

/-- The signed or unsigned value of an integer element. -/
def intVal (t : ETy) (c : Nat) : Int :=
  if t.isSigned then signed (c % 2 ^ t.width) t.width else ((c % 2 ^ t.width : Nat) : Int)

end Sys2Proof.Machine
end

