-- ==== Sys2Proof/Machine/Flags.lean ====
section
/-! DEFINITION. Flags and conditions: branch conditions, VCMP, VCLASS, the order of selections, saturation. The device keeps
no arithmetic flags but W96 saturation (04 R50). -/

namespace Sys2Proof.Machine

/-- Conditions of the branches (05 R89). -/
inductive BrOp where
  | eq | ne | lt | ge | ltu | geu
  deriving DecidableEq, Repr

/-- Whether a branch condition holds of s[d] and s[a] (05 R89). -/
def brTaken (op : BrOp) (d a : Word) : Bool :=
  match op with
  | .eq => d == a
  | .ne => d != a
  | .lt => d.slt a
  | .ge => !d.slt a
  | .ltu => d.ult a
  | .geu => !d.ult a

/-- Whether a VCMP condition holds of two elements (07 R148). -/
def cmpHolds (cc : CmpOp) (t : ETy) (x y : Nat) : Bool :=
  let a := t.val x
  let b := t.val y
  let un := a.isNan || b.isNan
  match cc with
  | .eq => a.eq b
  | .ne => un || !a.eq b
  | .lt => a.lt b
  | .le => !un && !b.lt a
  | .gt => b.lt a
  | .ge => !un && !a.lt b
  | .un => un
  | .ord => !un

/-- The class code of a floating-point element's own encoding (07 R145). -/
def classCode (t : ETy) (code : Nat) : Nat :=
  match t.flt with
  | none => 0
  | some f =>
    let sub := (code >>> f.mbits) % 2 ^ f.ebits = 0
    match f.val code with
    | .nan => 0
    | .inf s => if s then 1 else 8
    | .fin s n _ =>
      if n = 0 then (if s then 4 else 5)
      else if sub then (if s then 3 else 6)
      else if s then 2 else 7

/-- Whether `x` ranks strictly above `y` in the total order of selections, indexes apart (04 R61). -/
def ranksAbove (t : ETy) (x y : Nat) : Bool :=
  let a := t.val x
  let b := t.val y
  if a.isNan || b.isNan then a.isNan && !b.isNan
  else if b.lt a then true
  else a.isZero && b.isZero && !a.sign && b.sign

/-- Whether (value, index) `x` comes strictly before `y` in a selection (04 R61). -/
def selBefore (t : ETy) (x y : Nat × Nat) : Bool :=
  ranksAbove t x.1 y.1 || (!ranksAbove t y.1 x.1 && x.2 < y.2)

/-- `x` put into a selection in order, after those that come before it or rank equal with it. -/
def selInsert (t : ETy) (x : Nat × Nat) : List (Nat × Nat) → List (Nat × Nat)
  | [] => [x]
  | y :: ys => if selBefore t x y then x :: y :: ys else y :: selInsert t x ys

/-- The first `k` of a list of (value, index) in the order of R61, NaNs canonical; equal pairs keep their order. -/
def selectTop (t : ETy) (k : Nat) (xs : List (Nat × Nat)) : List (Nat × Nat) :=
  ((xs.foldl (fun acc x => (selInsert t x acc).take k) []).map
    (fun x => (if (t.val x.1).isNan then t.round .rne 0 .nan else x.1, x.2)))

/-- A saturating W96 addition: the sum in range, and whether SAT is set (08 R167). -/
def satAdd (acc : W96) (inc : Int) : W96 × Bool := w96Sat (w96Int acc + inc)

/-- The sticky SAT flag after an addition that set it or not. -/
def satFlag (old new : Bool) : Bool := old || new

end Sys2Proof.Machine
end

