-- ==== Sys2Proof/Machine/Rows.lean ====
section
/-! DEFINITION. What a vector instruction computes: one destination row from source rows (07 R144 to R159). -/

namespace Sys2Proof.Machine

/-! ## Lane functions -/

/-- Floating-point and integer addition (07 R144, R145). -/
def laneAdd (t : ETy) (a b : Nat) : Nat :=
  if t.isFL then t.round .rne 0 ((t.val a).add (t.val b)) else (a + b) % 2 ^ t.width

/-- Subtraction. -/
def laneSub (t : ETy) (a b : Nat) : Nat :=
  if t.isFL then t.round .rne 0 ((t.val a).add (t.val b).neg) else (a + 2 ^ t.width - b) % 2 ^ t.width

/-- Multiplication. -/
def laneMul (t : ETy) (a b : Nat) : Nat :=
  if t.isFL then t.round .rne 0 ((t.val a).mul (t.val b)) else (a * b) % 2 ^ t.width

/-- a · b + d, rounded once. -/
def laneFma (t : ETy) (d a b : Nat) : Nat := t.round .rne 0 (((t.val a).mul (t.val b)).add (t.val d))

/-- d − a · b, rounded once. -/
def laneFms (t : ETy) (d a b : Nat) : Nat := t.round .rne 0 ((t.val d).add ((t.val a).mul (t.val b)).neg)

/-- The lesser (04 R60). -/
def laneMin (t : ETy) (a b : Nat) : Nat :=
  if t.isFL then t.round .rne 0 ((t.val a).min (t.val b)) else if intVal t a ≤ intVal t b then a else b

/-- The greater (04 R60). -/
def laneMax (t : ETy) (a b : Nat) : Nat :=
  if t.isFL then t.round .rne 0 ((t.val a).max (t.val b)) else if intVal t a ≤ intVal t b then b else a

/-- |a|; an unsigned type returns a (07 R145). -/
def laneAbs (t : ETy) (a : Nat) : Nat :=
  if t.isFL then t.round .rne 0 (t.val a).abs
  else if intVal t a < 0 then (2 ^ t.width - a) % 2 ^ t.width else a

/-- −a. -/
def laneNeg (t : ETy) (a : Nat) : Nat :=
  if t.isFL then t.round .rne 0 (t.val a).neg else (2 ^ t.width - a) % 2 ^ t.width

/-- Left shift by b modulo the width. -/
def laneShl (t : ETy) (a b : Nat) : Nat := (a <<< (b % t.width)) % 2 ^ t.width

/-- Logical right shift by b modulo the width. -/
def laneShr (t : ETy) (a b : Nat) : Nat := a >>> (b % t.width)

/-- Arithmetic right shift for I types, logical for U types. -/
def laneSra (t : ETy) (a b : Nat) : Nat := (wrap t.width ((intVal t a) >>> (b % t.width))).toNat

/-! ## Sums and prefixes along a row (04 R59, R60) -/

/-- The combination of two present lanes. -/
def scanComb (op : ScanOp) (t : ETy) (a b : Nat) : Nat :=
  match op with
  | .add => laneAdd t a b
  | .max => laneMax t a b
  | .min => laneMin t a b

/-- comb of R59 over lanes that may be absent. -/
def comb (f : Nat → Nat → Nat) (a b : Option Nat) : Option Nat :=
  match a, b with
  | none, b => b
  | a, none => a
  | some x, some y => some (f x y)

/-- The result of an empty reduction (04 R59, R60). -/
def emptyRed (op : ScanOp) (t : ETy) : Nat :=
  match op with
  | .add => 0
  | .max => t.round .rne 0 (.inf true)
  | .min => t.round .rne 0 (.inf false)

/-- One level of the tree: neighbours combined. -/
def pairUp (f : Nat → Nat → Nat) : List (Option Nat) → List (Option Nat)
  | a :: b :: r => comb f a b :: pairUp f r
  | r => r

/-- The levels of the tree from the leaves up, `n` of them above the leaves. -/
def treeLevels (f : Nat → Nat → Nat) : Nat → List (Option Nat) → List (List (Option Nat))
  | 0, v => [v]
  | n + 1, v => v :: treeLevels f n (pairUp f v)

/-- The inclusive prefix at lane `j`: the aligned blocks of j + 1, the largest first, combined left to right. -/
def prefixAt (f : Nat → Nat → Nat) (levels : List (List (Option Nat))) (j : Nat) : Option Nat :=
  let n := levels.length
  ((List.range n).foldl
    (fun (acc : Option Nat × Nat) i =>
      let k := n - 1 - i
      if (j + 1).testBit k then
        (comb f acc.1 (((levels.getD k []).getD (acc.2 / 2 ^ k) none)), acc.2 + 2 ^ k)
      else acc)
    (none, 0)).1

/-- The present lanes of a row; no sign or payload of a NaN reaches a result (04 R50, R60). -/
def presentLanes (t : ETy) (mask : BitVec 512) (row : Nat) : List (Option Nat) :=
  ((unpackNat t.width row t.lanes).zipIdx).map (fun x => if laneOn mask t.width x.2 then some (t.canon x.1) else none)

/-- VSCAN on a row. -/
def scanRow (op : ScanOp) (t : ETy) (mask : BitVec 512) (row : Nat) : Nat :=
  let f := scanComb op t
  let lv := treeLevels f t.lanes.log2 (presentLanes t mask row)
  rowOf t (fun j => (prefixAt f lv j).getD (emptyRed op t))

/-- VRED on a row. -/
def redRow (op : ScanOp) (t : ETy) (mask : BitVec 512) (row : Nat) : Nat :=
  let f := scanComb op t
  let lv := treeLevels f t.lanes.log2 (presentLanes t mask row)
  let r := (((lv.getD t.lanes.log2 []).getD 0 none)).getD (emptyRed op t)
  rowOf t (fun _ => r)

/-! ## Widening (07 R152 to R154) -/

/-- The wide type of a narrow type. -/
def wideOf : ETy → ETy
  | .u8 => .u32
  | .i8 | .i16 => .i32
  | .i32 => .i64
  | .bf16 | .f16 => .f32
  | _ => .w96

/-- A wide lane after adding an exact sum to it (07 R152 to R154): integers wrap, F32 rounds once, W96 saturates and a NaN
leaves it unchanged. -/
def widenAdd (t : ETy) (old : Nat) (terms : List Val) : Nat :=
  let wd := wideOf t
  let s := terms.foldl Val.add (wd.val old)
  match wd with
  | .f32 => wd.round .rne 0 s
  | .w96 => if s.isNan then old else wd.round .rne 0 s
  | _ =>
    match s with
    | .fin sg n e => (wrap wd.width (Val.at sg n e 0)).toNat
    | _ => old

/-- VADDW's row: wide row `i` of `old` plus the narrow elements of its window `p`; `ta` gives the narrow rows. -/
def addwRow (t : ETy) (p i : Nat) (ta : Nat → Nat) (old : Nat) : Nat :=
  let wd := wideOf t
  rowOf wd (fun l =>
    let e := p * 16 * wd.lanes + i * wd.lanes + l
    widenAdd t (elemAt old wd.width l) [t.val (elemAt (ta (e / t.lanes)) t.width (e % t.lanes))])

/-- VMADW's row. -/
def madwRow (t : ETy) (a b old : Nat) : Nat :=
  let wd := wideOf t
  let g := wd.width / t.width
  rowOf wd (fun l =>
    widenAdd t (elemAt old wd.width l)
      ((List.range g).map (fun j =>
        Val.mul (t.val (elemAt a t.width (g * l + j))) (t.val (elemAt b t.width (g * l + j))))))

/-! ## Conversion (07 R150, R151) -/

/-- VCVT's row `i`: `dst` from `src`, source scales applied, draws by destination lane. -/
def cvtRow (src dst : ETy) (rm : RMode) (drawAt : Nat → Nat) (i row : Nat) (set : BitVec 1024) : Nat :=
  let n := min src.lanes dst.lanes
  rowOf dst (fun l =>
    if l < n then
      dst.round rm (if rm = .sr then drawAt l else 0)
        (scaledVal src (elemAt row src.width l) (if src.isScaled then scaleOf set src i l else 0))
    else 0)

/-! ## Rows of the other instructions -/

/-- VLANE's row (07 R147). -/
def laneRow (t : ETy) (x : Word) (i : Nat) : Nat :=
  rowOf t (fun l =>
    let v := x.toInt + (i * t.lanes + l : Nat)
    if t.isFL then t.round .rne 0 (.ofInt v) else (wrap t.width v).toNat)

/-- VTRN's row `i`, from all sixteen rows (07 R156). -/
def trnRow (t : ETy) (ta : Nat → Nat) (i : Nat) : Nat :=
  rowOf t (fun l => elemAt (ta (l % 16)) t.width (16 * (l / 16) + i))

/-- VTOPK's rows of values and of indices (07 R159). -/
def topkRows (t : ETy) (k : Nat) (mask : BitVec 512) (v x oldV oldX : Nat) : Nat × Nat :=
  let pres := (List.range 128).filterMap (fun l =>
    if laneOn mask 32 l then some (elemAt v 32 l, elemAt x 32 l) else none)
  let top := selectTop t k pres
  (packFn 32 128 (fun l => if l < k then ((top[l]?).map (·.1)).getD 0 else elemAt oldV 32 l),
   packFn 32 128 (fun l => if l < k then ((top[l]?).map (·.2)).getD 0xFFFFFFFF else elemAt oldX 32 l))

/-- The identity of a lane draw (04 R64). -/
def laneId (did : Word) (i l : Nat) : Word := did + BitVec.ofNat 64 (i * 512 + l)

/-- Two-operand lanes over a row. -/
def mapRow2 (t : ETy) (f : Nat → Nat → Nat) (a b : Nat) : Nat :=
  packNat t.width (List.zipWith f (unpackNat t.width a t.lanes) (unpackNat t.width b t.lanes))

/-- One-operand lanes over a row. -/
def mapRow1 (t : ETy) (f : Nat → Nat) (a : Nat) : Nat := packNat t.width ((unpackNat t.width a t.lanes).map f)

/-- Three-operand lanes over a row. -/
def mapRow3 (t : ETy) (f : Nat → Nat → Nat → Nat) (d a b : Nat) : Nat :=
  packNat t.width (List.zipWith (fun (x : Nat × Nat) y => f x.1 x.2 y)
    ((unpackNat t.width d t.lanes).zip (unpackNat t.width a t.lanes)) (unpackNat t.width b t.lanes))

/-- The type whose width governs the destination lanes of an operation (07 R138, R146, R152). -/
def VOp.dstTy : VOp → ETy
  | .add t | .sub t | .mul t | .fma t | .fms t | .min t | .max t | .abs t | .neg t => t
  | .rcp t | .sqrt t | .rsq t | .exp t | .log t | .tanh t | .sig t => t
  | .and t | .or t | .xor t | .shl t | .shr t | .sra t | .cmp _ t => t
  | .selm => .u8
  | .cvt toF32 _ t => if toF32 then .f32 else t
  | .mov t | .bcast t | .bcasti t | .lane t | .rot t | .shuf t | .trn t | .scan _ t | .red _ t => t
  | .madw t | .addw t _ => wideOf t
  | .draw t | .popc t | .cls t => t
  | .topk _ _ => .u32

/-- The value of destination row `i` of an operation: `ra`, `rb`, `rc` give the rows of its sources, `rd` the old rows of
its destination, `set` the source's scale set of the row's pair. VTOPK and VTRN have their own functions. -/
def VOp.row (op : VOp) (e : VEnv) (ra rb rc rd : Nat → Nat) (set : BitVec 1024) (i : Nat) : Nat :=
  match op with
  | .add t => mapRow2 t (laneAdd t) (ra i) (rb i)
  | .sub t => mapRow2 t (laneSub t) (ra i) (rb i)
  | .mul t => mapRow2 t (laneMul t) (ra i) (rb i)
  | .fma t => mapRow3 t (laneFma t) (rd i) (ra i) (rb i)
  | .fms t => mapRow3 t (laneFms t) (rd i) (ra i) (rb i)
  | .min t => mapRow2 t (laneMin t) (ra i) (rb i)
  | .max t => mapRow2 t (laneMax t) (ra i) (rb i)
  | .abs t => mapRow1 t (laneAbs t) (ra i)
  | .neg t => mapRow1 t (laneNeg t) (ra i)
  | .rcp t => mapRow1 t (fun c => fnRcp t (t.val c)) (ra i)
  | .sqrt t => mapRow1 t (fun c => fnSqrt t (t.val c)) (ra i)
  | .rsq t => mapRow1 t (fun c => fnRsq t (t.val c)) (ra i)
  | .exp t => mapRow1 t (fun c => fnExp t (t.val c)) (ra i)
  | .log t => mapRow1 t (fun c => fnLog t (t.val c)) (ra i)
  | .tanh t => mapRow1 t (fun c => fnTanh t (t.val c)) (ra i)
  | .sig t => mapRow1 t (fun c => fnSig t (t.val c)) (ra i)
  | .and _ => ra i &&& rb i
  | .or _ => ra i ||| rb i
  | .xor _ => ra i ^^^ rb i
  | .shl t => mapRow2 t (laneShl t) (ra i) (rb i)
  | .shr t => mapRow2 t (laneShr t) (ra i) (rb i)
  | .sra t => mapRow2 t (if t.isSigned then laneSra t else laneShr t) (ra i) (rb i)
  | .cmp cc t => mapRow2 t (fun x y => if cmpHolds cc t x y then 2 ^ t.width - 1 else 0) (rd i) (rb i)
  | .selm => (ra i &&& rc i) ||| (rb i &&& (rc i ^^^ (2 ^ 4096 - 1)))
  | .cvt toF32 rm t =>
    cvtRow (if toF32 then t else .f32) (if toF32 then .f32 else t) rm (fun l => drawWord e.key e.ctr (laneId e.did i l)) i (ra i)
      set
  | .mov _ => ra i
  | .bcast t => rowOf t (fun _ => e.x.toNat % 2 ^ t.width)
  | .bcasti t => let c := t.round .rne 0 (.ofInt e.x.toInt); rowOf t (fun _ => c)
  | .lane t => laneRow t e.x i
  | .rot t => rowOf t (fun l => elemAt (ra i) t.width ((l + t.lanes - e.x.toNat % t.lanes) % t.lanes))
  | .shuf t => rowOf t (fun l => elemAt (ra i) t.width (slice e.idx (16 * l) 16 % t.lanes))
  | .trn t => trnRow t ra i
  | .scan op t => scanRow op t e.mask (ra i)
  | .red op t => redRow op t e.mask (ra i)
  | .madw t => madwRow t (ra i) (rb i) (rd i)
  | .addw t p => addwRow t p i ra (rd i)
  | .draw t =>
    rowOf t (fun l =>
      let x := drawWord e.key e.ctr (laneId e.did i l)
      if t.isFL then t.round .rne 0 (.fin false (x >>> 8) (-24)) else x)
  | .popc t => mapRow1 t (fun c => popN c t.width) (ra i)
  | .cls t => mapRow1 t (classCode t) (ra i)
  | .topk t k => (topkRows t k e.mask (ra i) (rb i) (rd i) 0).1

end Sys2Proof.Machine
end

