-- ==== Sys2Proof/Machine/Ops.lean ====
section
/-! DEFINITION. The shared operations: regions, tiles and streams, effects, raising a fault (the one way an exception is
taken; the device has no return from one), issuing a word, events, logs. -/

namespace Sys2Proof

/-- SKIND of a sequencer (05 R78, 11 R221), and SEQ of its frames (21 R320). -/
def SeqKind.num : SeqKind → Nat
  | .load => 0
  | .exec => 1
  | .store => 2
  | .ctl => 3
  | .conductor | .service => 4

/-- The tile-register names of an R or I word (03 R40). -/
def Instr.tregs : Instr → List (BitVec 4)
  | .vadd _ _ d a b | .vsub _ _ d a b | .vmul _ _ d a b | .vfma _ _ d a b | .vfms _ _ d a b | .vmin _ _ d a b
  | .vmax _ _ d a b | .vand _ _ d a b | .vor _ _ d a b | .vxor _ _ d a b | .vshl _ _ d a b | .vshr _ _ d a b
  | .vsra _ _ d a b | .vmadw _ _ d a b | .vshuf _ _ d a b => [d, a, b]
  | .vabs _ _ d a | .vneg _ _ d a | .vrcp _ _ d a | .vsqrt _ _ d a | .vrsq _ _ d a | .vexp _ _ d a | .vlog _ _ d a
  | .vtanh _ _ d a | .vsig _ _ d a | .vmov _ _ d a | .vtrn _ _ d a | .vpopc _ _ d a | .vclass _ _ d a => [d, a]
  | .vcmp _ _ _ d b => [d, b]
  | .vselm _ d a b c => [d, a, b, c]
  | .vcvt _ _ _ _ d a | .vscan _ _ _ d a | .vred _ _ _ d a | .vaddw _ _ d a _ | .vrot _ _ d a _ => [d, a]
  | .vbcast _ _ d _ | .vlane _ _ d _ | .vdraw _ _ d | .vpop _ d _ _ | .vbcasti _ _ d _ => [d]
  | .vpush _ _ _ a _ | .pset _ _ _ a _ => [a]
  | .mma _ _ _ a b => [a, b]
  | .mread _ _ d _ _ | .mpush _ d _ _ => [d]
  | .maddw _ _ a _ => [a]
  | _ => []

/-- The tile registers a form names (07 R158, 08 R171, R173). -/
def Instr.formTregs : Instr → List (BitVec 4)
  | .vtopk _ _ _ _ a b c d => [a, b, c, d]
  | .mmaForm _ _ _ _ _ _ _ _ tb ta => [tb, ta]
  | .mreadForm _ _ _ _ _ _ _ _ _ _ td => [td]
  | _ => []

/-- The last body word of a LOOP lies in the plane (05 R92). -/
def Instr.loopEnds (pc : Nat) : Instr → Bool
  | .loop _ _ _ _ len => decide (pc + 4 * len.toNat ≤ 16380)
  | _ => true

/-- A rotating LOOP needs sixteen tile registers (05 R92). -/
def Instr.rotates : Instr → Bool
  | .loop _ _ r _ _ => r
  | _ => false

/-- The occupancy of an instruction where its guard is false, which is that of its issue (01 R15). -/
def Instr.occ : Instr → Nat
  | .mread _ _ _ _ _ | .maddw _ _ _ _ | .mpush _ _ _ _ | .mreadForm _ _ _ _ _ _ _ _ _ _ _ => 4
  | _ => 1

end Sys2Proof

namespace Sys2Proof.Machine

/-- The outcome of a step of this machine. -/
abbrev Out := Host.Outcome State Fault Refusal

/-! ## Access -/

/-- A region by its RID. -/
def State.region (s : State) (rid : Nat) : Region := tabGet {} s.regions rid

/-- The state with a region replaced. -/
def State.setRegion (s : State) (rid : Nat) (r : Region) : State :=
  { s with regions := tabSet {} s.regions rid r }

/-- The state with every region that it lists changed in one way. -/
def State.mapRegions (s : State) (f : Region → Region) : State := s.regions.foldl (fun acc x => acc.setRegion x.1 (f x.2)) s

/-- The region with a tile replaced. -/
def Region.setTile (r : Region) (i : Nat) (t : Tile) : Region := { r with tiles := r.tiles.set i t }

/-- The region with a tile changed. -/
def Region.modTile (r : Region) (i : Nat) (f : Tile → Tile) : Region :=
  match r.tiles[i]? with
  | some t => r.setTile i (f t)
  | none => r

/-- The region with its running step changed. -/
def Region.modRun (r : Region) (f : Run → Run) : Region := { r with run := r.run.map f }

/-- A stream of a tile; a conductor kind names none and reads as the control stream. -/
def Tile.stream (t : Tile) : SeqKind → Stream
  | .load => t.ld
  | .exec => t.ex
  | .store => t.st
  | .ctl | .conductor | .service => t.ct

/-- The tile with a stream replaced. -/
def Tile.setStream (t : Tile) (k : SeqKind) (x : Stream) : Tile :=
  match k with
  | .load => { t with ld := x }
  | .exec => { t with ex := x }
  | .store => { t with st := x }
  | .ctl | .conductor | .service => { t with ct := x }

/-- The streams in the order of R112. -/
def streamKinds : List SeqKind := [.load, .exec, .store, .ctl]

/-- The word of a plane at a byte offset; past the plane the word reads 0 (05 R73). -/
def Stream.wordAt (x : Stream) (pc : Nat) : BitVec 32 := if pc ≤ 16380 then tabGet 0 x.plane (pc / 4) else 0

/-- Whether a stream still issues. -/
def Stream.live (x : Stream) : Bool := x.st == .running || x.st == .waiting

/-- The physical tile register a name reads, under rotation base B (05 R95). -/
def physReg (rotb : Nat) (n : BitVec 4) : Nat :=
  if n.toNat < 8 then n.toNat else 8 + (n.toNat - 8 + 8 - rotb % 8) % 8

/-- A row of a physical tile register. -/
def Tile.row (t : Tile) (r i : Nat) : BitVec 4096 := tabGet 0 t.rows (16 * r + i)

/-- A scale set of a physical tile register. -/
def Tile.set (t : Tile) (r k : Nat) : BitVec 1024 := tabGet 0 t.sets (8 * r + k)

/-- A mask; p0 reads all ones (07 R138). -/
def Tile.pmask (t : Tile) (p : Nat) : BitVec 512 := if p = 0 then BitVec.allOnes 512 else tabGet 0 t.masks p

/-- A row of an accumulator. -/
def Tile.accRow (t : Tile) (m : Bool) (r : Nat) : BitVec 12288 := tabGet 0 t.acc ((if m then 64 else 0) + r)

/-- The queue with a key: lq0 to lq3 are 0 to 3, sq0 to sq3 are 4 to 7. -/
def Tile.queue (t : Tile) (q : Nat) : List QSlot := tabGet [] t.queues q

/-- The tile with a queue replaced. -/
def Tile.setQueue (t : Tile) (q : Nat) (x : List QSlot) : Tile := { t with queues := tabSet [] t.queues q x }

/-- The state byte of a bank: bits [3:0] FMT, bit 4 ROLE; RAW and timed where nothing was set (06 R105). -/
def Tile.bank (t : Tile) (b : Nat) : BitVec 8 := tabGet 0x0F t.banks b

/-- FMT of a bank. -/
def Tile.fmt (t : Tile) (b : Nat) : BitVec 4 := (t.bank b).extractLsb' 0 4

/-- ROLE of a bank: copy. -/
def Tile.isCopy (t : Tile) (b : Nat) : Bool := (t.bank b).getLsbD 4

/-! ## Scratchpad lines (06 R103, R107, R109) -/

/-- A line as a read sees it: payload and sideband, zero while its flag is set. -/
def Tile.line (t : Tile) (l : Nat) : BitVec 512 × BitVec 128 :=
  if t.zflag.getLsbD l then (0, 0)
  else (BitVec.ofNat 512 (memRead t.spad (64 * l) 64), BitVec.ofNat 128 (memRead t.side (16 * l) 16))

/-- A bit of a line-flag word cleared. -/
def clearBit (v : BitVec 24576) (l : Nat) : BitVec 24576 := v &&& ~~~(1#24576 <<< l)

/-- A bit of a line-flag word set. -/
def setBit (v : BitVec 24576) (l : Nat) : BitVec 24576 := v ||| (1#24576 <<< l)

/-- The key of a 64-bit word of a line: words 0 to 7 its payload, 8 and 9 its sideband (21 R324). -/
def wordKey (l w : Nat) : Nat := 10 * l + w

/-- Soft errors with those of some words gone, which are written. -/
def softClear (t : Tab Soft) (ks : List Nat) : Tab Soft := ks.foldl (fun t k => tabSet .none t k .none) t

/-- The tile with a whole line written; the zero flag clears (R109). -/
def Tile.setLine (t : Tile) (l : Nat) (d : BitVec 512) (sb : BitVec 128) : Tile :=
  { t with spad := memWrite t.spad (64 * l) 64 d.toNat, side := memWrite t.side (16 * l) 16 sb.toNat,
           zflag := clearBit t.zflag l, wflag := setBit t.wflag l,
           soft := softClear t.soft ((List.range 10).map (wordKey l)) }

/-- The tile with `n` bytes written inside a line, the rest of the line as a read saw it; its sideband stays. -/
def Tile.setBytes (t : Tile) (off n v : Nat) : Tile :=
  let l := lineOf off
  let (d, sb) := t.line l
  let sh := 8 * (off % 64)
  let m := ((2 ^ (8 * n) - 1) <<< sh)
  let d' := (d.toNat &&& ((2 ^ 512 - 1) ^^^ m)) ||| ((v <<< sh) &&& m)
  { t.setLine l (BitVec.ofNat 512 d') sb with
    soft := softClear t.soft ((List.range (n / 8)).map (fun i => wordKey l (off % 64 / 8 + i))) }

/-! ## Effects -/

/-- The phase of its tick in which an effect takes place: landings, appends, running forms, channels, (wait ends, issue),
queue overflow, words due, bank reads, bank writes, departures. DEDUCED: log 1. -/
def Act.phase : Act → Nat
  | .reg _ _ | .form _ _ | .rows _ _ | .pmask _ _ | .ctrl _ _ | .driftw | .key _ | .fmt _ _ | .mclr _ | .msatClr _
  | .mread _ _ _ _ | .maddw _ _ _ | .mmaAdd _ _ _ _ _ _ _ _ _ _ | .front _ _ | .release _ _ | .fault _ _ _ => 0
  | .push _ _ _ => 1
  | .resp _ queue => if queue then 1 else 0
  | .vec _ _ _ | .maddwRd _ _ _ _ | .mmaBlk _ _ _ _ _ _ _ _ | .lstrm _ _ _ _ _ | .sstrm _ _ _ _ _ => 2
  | .chan _ _ _ _ => 3
  | .trim _ => 6
  | .word _ _ _ => 7
  | .bankRd _ _ => 8
  | .bankWr _ => 9
  | .depart _ _ => 10

/-- The phase at which streams issue. -/
def issuePhase : Nat := 5

/-- The order of effects: due tick and phase, then issue order for landings and appends (05 R81, 06 R114, 08 R178), then
tile, stream and issue order where ports and channels are claimed (06 R112, R132). A clear of SAT comes before the
additions of its tick (08 R177). -/
def Eff.key (e : Eff) : List Nat :=
  let first := match e.act with
    | .msatClr _ => 0
    | _ => 1
  if e.phase ≤ 1 then [e.due, e.phase, first, e.org.issue, e.org.tile, e.org.k.num, e.sub]
  else [e.due, e.phase, e.org.tile, e.org.k.num, e.org.issue, e.sub]

/-- Lexicographic order of keys. -/
def lexLt : List Nat → List Nat → Bool
  | [], [] => false
  | [], _ :: _ => true
  | _ :: _, [] => false
  | a :: as, b :: bs => if a < b then true else if b < a then false else lexLt as bs

/-- An effect put into the list, after those that do not come later. -/
def effInsert (e : Eff) : List Eff → List Eff
  | [] => [e]
  | x :: xs => if lexLt e.key x.key then e :: x :: xs else x :: effInsert e xs

/-- An effect of an instruction. -/
def mkEff (org : Org) (due tile : Nat) (act : Act) (sub : Nat := 0) : Eff := ⟨due, act.phase, tile, org, sub, act⟩

/-- The run with an effect added. -/
def Run.add (run : Run) (e : Eff) : Run := { run with effs := effInsert e run.effs }

/-- The run with several effects added. -/
def Run.addAll (run : Run) (es : List Eff) : Run := es.foldl Run.add run

/-! ## Raising a fault (21 R318 to R320): the one way a stream's exception is taken -/

/-- Whether an effect of a stream can still be cancelled: a departed word cannot (13 R250). -/
def Act.cancellable : Act → Bool
  | .word _ _ _ | .trim _ => false
  | _ => true

/-- Cancels what effect `e` of a cancelled instruction does after tick `t`: nothing is left of an effect due later. A bank read due at
`t`, or due earlier at a tile that has not come to its tick, takes place but lands nothing; of a running form's part due at `t` the pop
takes place, but nothing that it would do later (03 R34, 06 R124, R128, 21 R319). DEDUCED: log 18. -/
def Eff.cancelAfter (e : Eff) (t : Nat) : Option Eff :=
  if t < e.due then (if e.act.cancellable then none else some e)
  else match e.act with
    | .bankRd r _ => some { e with act := .bankRd r true }
    | .lstrm _ _ _ _ _ => none
    | .sstrm q a st k _ => some { e with act := .sstrm q a st k 0 }
    | _ => some e

/-- Whether an effect belongs to part `sub` or a later one of the instruction issued at tick `issue`, or to a word issued
later. -/
def Eff.notBefore (e : Eff) (issue sub : Nat) : Bool :=
  decide (issue < e.org.issue) || (e.org.issue == issue && decide (sub ≤ e.sub))

/-- A fault of a stream, or of the device (SEQ 5): the stream stops, its later effects are cancelled, the fault is recorded,
and the stop tick is fixed at t_f + 256 or earlier. Nothing is raised at the stop tick or later (21 R319). Of a form that goes through parts,
`sub` is the part that faulted: the parts before it stand (06 R128); of the others all that is due after the tick goes, what they have
popped or read already too (DEDUCED: log 18). A stream that has ENDED is FAULTED too, as R319 says of every
stream fault; R69's table names no such move (DEDUCED: log 18). -/
def Region.raise (r : Region) (f : FaultRec) (sub : Nat := 0) : Region :=
  match r.run with
  | none => r
  | some run =>
    if (run.stop.map (fun st => decide (st ≤ f.tick))).getD false then r
    else
      let stop := match run.stop with
        | some st => min st (f.tick + 256)
        | none => f.tick + 256
      match streamKinds[f.seq]? with
      | none => { r with run := some { run with faults := run.faults ++ [f], stop := some stop } }
      | some k =>
        let keep := run.effs.filterMap (fun e =>
          if e.org.tile == f.tile && e.org.k == k && e.notBefore f.issue sub then e.cancelAfter f.tick else some e)
        let r := { r with run := some { run with effs := keep, faults := run.faults ++ [f], stop := some stop } }
        r.modTile f.tile (fun t => t.setStream k { t.stream k with st := .faulted })

/-- The fault record of an instruction. -/
def Org.fault (o : Org) (tick cls cause : Nat) (addr : Word := 0) (aux : Word := 0) (setidx : Nat := 0) : FaultRec :=
  ⟨tick, o.tile, o.k.num, o.issue, cls, cause, o.pc, o.word, addr, aux, setidx⟩

/-- The side of a logical tile under a seam declaration (10 R185). -/
def Seam.side (sm : Seam) (x y : Nat) : Nat :=
  match sm.axis with
  | 1 => if x < sm.pos then 0 else 1
  | 2 => if y < sm.pos then 0 else 1
  | _ => 0

/-! ## Scratchpad addresses of a tile (06 R104, R108; 10 R186) -/

/-- The tile, offset and hops that a scratchpad address names from tile `i` of a region running a step under seam
declaration `sm`: none where R104, R108 or R186 makes it an address fault. `n` bytes from it lie in one bank, which has
the role that `copy` says. -/
def Region.spad (r : Region) (sm : Seam) (i : Nat) (v : Word) (localOnly : Bool) (align n : Nat) (copy : Bool) :
    Option (Nat × Nat × Nat) :=
  match spadAddr v with
  | none => none
  | some a =>
    let x := (i % r.w : Nat) + a.dx
    let y := (i / r.w : Nat) + a.dy
    if x < 0 ∨ (r.w : Int) ≤ x ∨ y < 0 ∨ (r.h : Int) ≤ y then none
    else
      let j := y.toNat * r.w + x.toNat
      if (localOnly && decide (a.hops ≠ 0)) || decide (a.off % align ≠ 0) ||
          decide (bankOf a.off ≠ bankOf (a.off + (n - 1))) ||
          decide (sm.side (i % r.w) (i / r.w) ≠ sm.side x.toNat y.toNat) then none
      else
        match r.tiles[j]? with
        | none => none
        | some t => if t.isCopy (bankOf a.off) == copy then some (j, a.off, a.hops) else none

/-! ## Logs and events -/

/-- Whether the Neruo link carries traffic (20 R302). -/
def State.neruoUp (s : State) : Bool :=
  let l := tabGet {} s.links 488
  l.st == .locked || l.st == .degraded

/-- The event ring has room (23 R355). -/
def State.ringRoom (s : State) : Bool := s.neruoUp && s.ring.tail - s.ring.head != s.ring.size

/-- An event's entry (20 R306). -/
def eventEntry (e : Event) (seq : BitVec 16) (count time : Word) : BitVec 256 :=
  time ++ count ++ e.payload ++ seq ++ BitVec.ofNat 8 e.code ++ BitVec.ofNat 8 e.kind ++ 0#18 ++ BitVec.ofNat 6 e.cmd ++
    BitVec.ofNat 8 e.src

/-- The Firmament count as a register. -/
def State.fcount (s : State) : Word := BitVec.ofNat 64 s.time.count

/-- The time of day now in nanoseconds, from the second that runs and the ticks of 0.8 ns since it began (20 R306, R313; 23 R356).
DEDUCED: log 25. -/
def State.timeNow (s : State) : Word :=
  let t := s.time
  BitVec.ofNat 64 ((t.tsec.toNat + t.counted) * 1000000000 + (t.count - t.secCount) * 4 / 5)

/-- An event that publishes the writes of its region's steps to the host: HOSTN's, a run's completion, the final states FROZEN and
YIELDED, and those of a run's end by an unrecoverable fault or by RELEASE (00 R3; 11 R223; 17 R291). -/
def Event.publishes (e : Event) : Bool :=
  e.kind == 3 || e.kind == 4 || (e.kind == 2 && (e.cmd == 3 || e.cmd == 4)) || (e.kind == 1 && e.cmd == 6 && e.code == 0) ||
    (e.kind == 5 && decide (16 ≤ e.code) && e.code != 0xF1 && e.code != 0xF2)

/-- The writes of the steps so far, those of a FROZEN one included, published by the event at position `n` of the ring (17 R291). -/
def Region.tell (r : Region) (n : Nat) : Region :=
  let now := r.unpub ++ (match r.run with
    | some run => run.fresh
    | none => [])
  { r.modRun (fun run => { run with fresh := [] }) with
    unpub := [],
    shown := r.shown.map (fun x => { x with event := some (x.event.getD n) }) ++ now.map (fun u => ⟨u, some n, []⟩) }

/-- The writes of the steps that have ended, published by the value of counter `c` (11 R223; 17 R291). -/
def Region.tellCtr (r : Region) (c : Nat) : Region :=
  { r with
    unpub := [],
    shown := r.shown.map (fun x => { x with ctrs := c :: x.ctrs }) ++ r.unpub.map (fun u => ⟨u, none, [c]⟩) }

/-- The host physical address of a byte of the event ring, by its host virtual address (23 R355). PRESUMED: log 34. -/
def ringByte (va : Nat) : Nat := (Config.ringPage (BitVec.ofNat 64 (va / 4096 * 4096))).toNat + va % 4096

/-- An event written into the ring and the tail advanced (20 R307); the source's sequence number counts it. -/
def State.writeEvent (s : State) (e : Event) : State :=
  let seq := if e.src < 32 then (s.region e.src).evSeq else s.ring.modSeq
  let entry := eventEntry e seq s.fcount s.timeNow
  let at' := s.ring.base.toNat + 32 * (s.ring.tail.toNat % s.ring.size.toNat)
  let host := (List.range 32).foldl (fun m i => memWrite m (ringByte (at' + i)) 1 (entry.toNat >>> (8 * i))) s.mem.host
  let s := { s with mem := { s.mem with host := host },
                    ring := { s.ring with tail := s.ring.tail + 1 } }
  if e.src < 32 then
    let r := s.region e.src
    s.setRegion e.src { (if e.publishes then r.tell (s.ring.tail.toNat - 1) else r) with evSeq := seq + 1 }
  else { s with ring := { s.ring with modSeq := seq + 1 } }

/-- An event posted, or waiting at its posting point while the ring is full or the link is down (20 R307). -/
def State.post (s : State) (e : Event) : State :=
  if s.ring.waiting.isEmpty && s.ringRoom then s.writeEvent e
  else { s with ring := { s.ring with waiting := s.ring.waiting ++ [e] } }

/-- Whether a source waits at a posting point. -/
def State.waiting (s : State) (src : Nat) : Bool := s.ring.waiting.any (fun e => e.src == src)

/-- A record of the requester log (21 R326): kind, RID, address, reason, count; the record's own layout is the model's
(DESIGN CHOICE: log 22). -/
def State.reqRecord (s : State) (kind rid : Nat) (addr : Word) (reason : Nat) : State :=
  let rec' : BitVec 256 :=
    s.fcount ++ addr ++ s.reqSeq ++ 0#32 ++ BitVec.ofNat 8 reason ++ BitVec.ofNat 8 rid ++ BitVec.ofNat 8 kind ++ 1#8
  { s with reqLog := tabSet 0 s.reqLog (s.reqSeq.toNat % 64) rec', reqSeq := s.reqSeq + 1 }

/-- One entry of the corrected-error log, chained, and signed after every 4,096 (21 R327, R328). -/
def State.celEntry (s : State) (x : CelEv) : State :=
  let seq := s.cel.head
  let body : BitVec 768 := x.detail ++ 0#24 ++ BitVec.ofNat 8 x.region ++ BitVec.ofNat 16 x.loc ++ BitVec.ofNat 16 x.kind ++
    x.time ++ BitVec.ofNat 64 x.count ++ seq
  let chain := sha256 (beBytes s.cel.chain.toNat 32 ++ natToBytes body.toNat 96)
  let chainLe : BitVec 256 := BitVec.ofNat 256 (bytesToNat (beBytes chain.toNat 32))
  let cel := { s.cel with head := seq + 1, chain := chain,
                          entries := tabSet 0 s.cel.entries (seq.toNat % 1048576) (chainLe ++ body) }
  if seq.toNat % 4096 = 4095 then
    let sig := Config.sign s.boot.seed (sha256 (natToBytes seq.toNat 8 ++ beBytes chain.toNat 32))
    let slot := seq.toNat / 4096 % 256
    State.post { s with cel := { cel with sigs := tabSet 0 cel.sigs slot sig } } ⟨32, 7, 0, 0, seq⟩
  else { s with cel := cel }

/-- An entry appended: counted in CELOVF while the ring is full, and an overflow summary first once there is space; the event that it
causes is posted after it (21 R327, R329, R330). -/
def State.celAppend (s : State) (x : CelEv) : State :=
  let full (s : State) : Bool := s.cel.head - s.cel.base == 1048576
  let lose (s : State) (n : Word) : State := { s with cel := { s.cel with ovf := n } }
  let s :=
    if full s then lose s (s.cel.ovf + 1)
    else if s.cel.ovf = 0 then s.celEntry x
    else
      let s := lose (s.celEntry { x with kind := 9, loc := 0, region := 0xFF, detail := s.cel.ovf.zeroExtend 512 }) 0
      if full s then lose s 1 else s.celEntry x
  match x.event with
  | some e => s.post e
  | none => s

/-- The events that wait and are known whole are appended, in the order of their detection (21 R329). -/
def State.celFlush : List CelEv → State → State
  | [], s => { s with cel := { s.cel with wait := [] } }
  | x :: xs, s => if x.pending then { s with cel := { s.cel with wait := x :: xs } } else State.celFlush xs (s.celAppend x)

/-- An event of the corrected-error log is detected. Events of one count go in ascending LOC: one with a lower LOC that the model comes to
later is detected at the next count (21 R327, R329). DEDUCED: log 21. -/
def State.celDetect (s : State) (kind loc region : Nat) (detail : BitVec 512) (event : Option Event) (pending : Bool) : State :=
  let n := max s.time.count s.cel.lastCount
  let n := if n = s.cel.lastCount ∧ loc < s.cel.lastLoc then n + 1 else n
  let s := { s with cel := { s.cel with lastCount := n, lastLoc := loc } }
  State.celFlush (s.cel.wait ++ [⟨kind, loc, region, detail, n, s.timeNow, event, pending⟩]) s

/-- An event of the corrected-error log of which all is known. -/
def State.celLog (s : State) (kind loc region : Nat) (detail : BitVec 512 := 0) (event : Option Event := none) : State :=
  s.celDetect kind loc region detail event false

/-- How the step of a region went on that met uncorrectable tile errors: 0 its run ended, 1 it is executed again, 2 its run is restarted;
their entries can be appended (21 R327). DEDUCED: log 21. -/
def State.celResolve (s : State) (rid how : Nat) : State :=
  State.celFlush (s.cel.wait.map (fun x =>
    if x.pending && x.region == rid then { x with pending := false, detail := x.detail ||| (BitVec.ofNat 512 how <<< 64) } else x)) s

/-! ## Sites (10 R182) -/

/-- The grid position of a logical tile under a placement. -/
def sitePos (p : Place) (w h x y : Nat) : Nat × Nat :=
  match p.rot with
  | 0 => (p.x0 + x, p.y0 + y)
  | 1 => (p.x0 + (h - 1 - y), p.y0 + x)
  | 2 => (p.x0 + (w - 1 - x), p.y0 + (h - 1 - y))
  | _ => (p.x0 + y, p.y0 + (w - 1 - x))

/-- The grid positions of a footprint (10 R182). -/
def placePos (p : Place) (w h : Nat) : List (Nat × Nat) :=
  (List.range (w * h)).map (fun i => sitePos p w h (i % w) (i / w))

/-- The links of a footprint, by number (23 R355): east and south links inside a die, seam rows. -/
def footLinks (ps : List (Nat × Nat)) : List Nat :=
  ps.flatMap (fun p =>
    let d := p.1 / 8
    let x := p.1 % 8
    (if ps.contains (p.1 + 1, p.2) then [if x = 7 then 224 + p.2 else 112 * d + 7 * p.2 + x] else []) ++
      (if ps.contains (p.1, p.2 + 1) then [112 * d + 56 + 8 * p.2 + x] else []))

/-- A link has failed. -/
def State.linkFailed (s : State) (l : Nat) : Bool := (tabGet {} s.links l).st == .failed

/-- A region whose footprint holds a FAILED link or whose channel set holds a withdrawn channel (21 R322). -/
def State.broken (s : State) (rid : Nat) : Bool :=
  let r := s.region rid
  (footLinks (placePos r.place r.w r.h)).any s.linkFailed || r.cs.any s.mem.withdrawn.contains

/-- The site index of a grid position (02 R20). -/
def siteIndex (pos : Nat × Nat) : Nat := (pos.1 / 8) * 64 + pos.2 * 8 + pos.1 % 8

/-- The site of a logical tile of a region. -/
def Region.site (r : Region) (tile : Nat) : Nat := siteIndex (sitePos r.place r.w r.h (tile % r.w) (tile / r.w))

/-- The die a logical tile lies on. -/
def Region.dieOf (r : Region) (tile : Nat) : Nat := r.site tile / 64

/-! ## Issuing a word on a stream -/

/-- What an issuing word sees. -/
structure Ctx where
  rid : Nat
  tile : Nat
  k : SeqKind
  t : Nat
  pc : Nat
  word : BitVec 32
  r : Region
  run : Run
  tl : Tile
  x : Stream

/-- A scalar register of the issuing stream. -/
def Ctx.rd (c : Ctx) (r : BitVec 4) : Word := regGet c.x.s r

/-- The issuing instruction as the origin of its effects; `sq` is the word's S bit. -/
def Ctx.org (c : Ctx) : Org := ⟨c.tile, c.k, c.t, c.pc, c.word, fS c.word⟩

/-- The context of the stream the cursor names. -/
def State.ctx (s : State) : Option Ctx :=
  match s.cur with
  | .stream rid tile k =>
    let r := s.region rid
    match r.run, r.tiles[tile]? with
    | some run, some tl =>
      let x := tl.stream k
      some ⟨rid, tile, k, tl.tick, x.pc, x.wordAt x.pc, r, run, tl, x⟩
    | _, _ => none
  | _ => none

/-- What a word's own effect is. `s` is the state with its effects in flight. -/
inductive Iss where
  /-- the next word follows after `occ` ticks (01 R13) -/
  | done (s : State) (occ : Nat)
  /-- a fault precise to this PC (03 R47) -/
  | stop (s : State) (cls cause : Nat) (addr aux : Word) (setidx : Nat := 0)
  /-- a taken branch, jump or JR (05 R89, R90) -/
  | jump (s : State) (target : Int)
  /-- the next word's IDLE counts from tick `base` (05 R96, R97, 20 R316) -/
  | wait (s : State) (base : Nat)
  /-- LOOP: the loop it pushes, or none to skip a body of `len` words (05 R93) -/
  | loop (s : State) (l : Option Loop) (len : Nat)
  /-- END (05 R100) -/
  | fin (s : State)

/-- The PC, loops and rotation base after a word that no branch leaves (05 R93, R95). -/
def stepPc (x : Stream) (rotb pc : Nat) : Nat × List Loop × Nat :=
  match x.loops with
  | l :: ls =>
    if pc = l.last then
      let b := if l.rot then (rotb + 1) % 8 else rotb
      if l.m < l.trips + l.n - 1 then (l.first, { l with m := l.m + 1 } :: ls, b) else (l.last + 4, ls, b)
    else (pc + 4, x.loops, rotb)
  | [] => (pc + 4, [], rotb)

/-- The tile after its stream `k` issued a word at tick `t` and goes on at `pc'`, IDLE counting from `base`. -/
def Tile.goOn (tl : Tile) (k : SeqKind) (t pc' base : Nat) (loops : List Loop) (rotb : Nat) : Tile :=
  let x := tl.stream k
  let x := { x with pc := pc', base := base, loops := loops, lastPc := x.pc, lastTick := some t,
                    st := if t + 1 < base then x.st else .running }
  { tl.setStream k x with rotb := rotb }

/-- Cancels the squashable effects of stream `k` of a tile that are due after a branch issued at tick `t` (03 R34, 16 R275).
A request on its way to memory keeps its place; its response is dropped. -/
def Run.squash (run : Run) (tile : Nat) (k : SeqKind) (t : Nat) : Run :=
  let hit (e : Eff) := e.org.tile == tile && e.org.k == k && e.org.sq && decide (e.org.issue < t)
  let isRead (e : Eff) := match e.act with
    | .chan _ _ _ .read | .resp _ _ => true
    | _ => false
  { run with
    effs := run.effs.filterMap (fun e => if hit e && !isRead e then e.cancelAfter t else some e)
    reqs := run.reqs.map (fun q =>
      if q.org.tile == tile && q.org.k == k && q.org.sq && decide (q.org.issue < t) then { q with dropped := true } else q)
    seals := run.seals.filter (fun e =>
      !(e.org.tile == tile && e.org.k == k && e.org.sq && decide (e.org.issue < t))) }

/-- Loops whose body holds a byte offset (05 R91). DEDUCED: log 19. -/
def loopsHolding (pc : Nat) (ls : List Loop) : List Loop :=
  ls.filter (fun l => decide (l.first ≤ pc) && decide (pc ≤ l.last))

/-- The residue fault of an entry of a queue: at the END of the stream that pops it (01 R17). -/
def Tile.residueFault (tl : Tile) (tile q tick : Nat) : FaultRec :=
  let k : SeqKind := if q < 4 then .exec else .store
  ⟨tick, tile, k.num, ((tl.stream k).lastTick).getD 0, 12, 0, (tl.stream k).endPc, 0, 0, 0, 0⟩

/-- The residue check when all four streams of a tile have ended: a fault for each entry in its queues; from then on the
check stays armed (01 R17). An entry above sixteen is R114's to discard. -/
def Region.residue (r : Region) (tile t : Nat) : Region :=
  match r.tiles[tile]? with
  | none => r
  | some tl =>
    if streamKinds.all (fun k => (tl.stream k).st == .ended) then
      let fs := (List.range 8).flatMap (fun q => ((tl.queue q).take 16).map (fun _ => tl.residueFault tile q t))
      (fs.foldl (fun r f => r.raise f) r).modTile tile (fun tl => { tl with armed := true })
    else r

/-- The issuing word's own fault. -/
def Ctx.fault (c : Ctx) (s : State) (f : FaultRec) : State := s.setRegion c.rid ((s.region c.rid).raise f)

/-- The state after the issue of a word: PC, loop and wait of the stream, or its fault (01 R13, R16; 05 R91, R93, R100).
DEDUCED: a LOOP that does not run and is the last word of the enclosing body takes that loop's back edge while iterations remain, and
skips its own body only on the way out; a LOOP with a false guard skips its body without a look at its extent, so that one whose body runs
past the enclosing body makes no nesting fault and leaves the enclosing LOOP active (log 19). -/
def Ctx.finish (c : Ctx) (i : Iss) : State :=
  match i with
  | .done s occ =>
    let r := s.region c.rid
    s.setRegion c.rid (r.modTile c.tile (fun tl =>
      let (pc, ls, b) := stepPc (tl.stream c.k) tl.rotb c.pc
      tl.goOn c.k c.t pc (c.t + occ) ls b))
  | .stop s cls cause addr aux setidx => c.fault s (c.org.fault c.t cls cause addr aux setidx)
  | .jump s target =>
    if 0 ≤ target ∧ target ≤ 16380 ∧ target % 4 = 0 then
      let r := (s.region c.rid).modRun (fun run => run.squash c.tile c.k c.t)
      s.setRegion c.rid (r.modTile c.tile (fun tl =>
        tl.goOn c.k c.t target.toNat (c.t + 3) (loopsHolding target.toNat (tl.stream c.k).loops) tl.rotb))
    else c.fault s (c.org.fault c.t 1 9)
  | .wait s base =>
    let r := s.region c.rid
    s.setRegion c.rid (r.modTile c.tile (fun tl =>
      let (pc, ls, b) := stepPc (tl.stream c.k) tl.rotb c.pc
      let tl := tl.goOn c.k c.t pc base ls b
      if c.t + 1 < base then tl.setStream c.k { tl.stream c.k with st := .waiting } else tl))
  | .loop s l len =>
    let r := s.region c.rid
    s.setRegion c.rid (r.modTile c.tile (fun tl =>
      match l with
      | some l => tl.goOn c.k c.t l.first (c.t + 2) (l :: (tl.stream c.k).loops) tl.rotb
      | none =>
        let (pc, ls, b) := stepPc (tl.stream c.k) tl.rotb c.pc
        let pc := if pc = c.pc + 4 then pc + 4 * len else pc
        tl.goOn c.k c.t pc (c.t + 2) ls b))
  | .fin s =>
    let r := (s.region c.rid).modTile c.tile (fun tl =>
      let x := tl.stream c.k
      tl.setStream c.k { x with st := .ended, loops := [], endPc := c.pc, lastPc := c.pc, lastTick := some c.t })
    s.setRegion c.rid (r.residue c.tile c.t)

/-! ### Checks at decode that depend on the step -/

/-- A stage guard outside every active LOOP, or above the innermost one's stage count (03 R33). -/
def guardBad (ls : List Loop) (g : BitVec 3) : Bool :=
  g != 0 && (match ls with
    | l :: _ => decide (l.n < g.toNat)
    | [] => true)

/-- The lowest cause among the rules that a decoded word breaks in the running step (03 R47). -/
def Ctx.cause (c : Ctx) (i : Instr) : Option Nat :=
  let n := c.run.img.tregs
  let bad (rs : List (BitVec 4)) := rs.any (fun r => decide (n ≤ r.toNat))
  if !i.wf c.k then some 2
  else if bad i.tregs || (i.rotates && decide (n < 16)) then some 5
  else if guardBad c.x.loops (stageGuard c.k (tabGet 0 c.x.forms (pForm c.word).toNat) c.word) then some 6
  else if bad i.formTregs then some 8
  else if !i.loopEnds c.pc then some 9
  else none

/-- A decoded word, or ILLEGAL_INSTRUCTION with its cause. -/
def fetched (d : Dec) : Instr :=
  match d with
  | .ok i => i
  | .error c => .illegalInstruction (BitVec.ofNat 4 c)

/-- The word that a stream issues next; past its plane, cause 9 (R73). A stage guard that its loops forbid is the lower cause beside
a fault of a form. DEDUCED: log 20. -/
def Stream.fetch (x : Stream) (k : SeqKind) : Instr :=
  if 16380 < x.pc then fetched (.error 9)
  else
    let w := x.wordAt x.pc
    let form := tabGet 0 x.forms (pForm w).toNat
    match decode k form w with
    | .ok i => i
    | .error c => fetched (.error (if 6 < c ∧ guardBad x.loops (stageGuard k form w) then 6 else c))

/-- The tick at which a live stream issues its next word (01 R13). -/
def Stream.issueTick (x : Stream) : Nat := x.base + (if x.pc ≤ 16380 then (fIdle (x.wordAt x.pc)).toNat else 0)

/-- The cause of the decode fault of a stream's next word, where it is no instruction there (03 R47). -/
def Ctx.nextCause (c : Ctx) : Option Nat :=
  match c.x.fetch c.k with
  | .illegalInstruction n => some n.toNat
  | i => c.cause i

/-- The forms of a stream once what lands in them by tick `t` has landed (06 R123). -/
def Run.formsAt (run : Run) (tile : Nat) (k : SeqKind) (t : Nat) (forms : Tab (BitVec 128)) : Tab (BitVec 128) :=
  run.effs.foldl
    (fun fs e => match e.act with
      | .form f v => if e.org.tile == tile && e.org.k == k && decide (e.due ≤ t) then tabSet 0 fs f v else fs
      | _ => fs)
    forms

/-- The decode fault of the word that a stream would issue at tick `t`, read through the forms that it has at that tick: it is raised
beside a fault that an earlier word raises at that tick (03 R48). -/
def Region.decodeFault (r : Region) (rid tile : Nat) (k : SeqKind) (t : Nat) : Option FaultRec :=
  match r.run, r.tiles[tile]? with
  | some run, some tl =>
    let x := { tl.stream k with forms := run.formsAt tile k t (tl.stream k).forms }
    let c : Ctx := ⟨rid, tile, k, t, x.pc, x.wordAt x.pc, r, run, tl, x⟩
    if x.live && x.issueTick == t then c.nextCause.map (fun n => c.org.fault t 1 n) else none
  | _, _ => none

/-- A fault that an earlier instruction raises at its effect tick. Where the word that the stream would issue at that tick fails at
decode, its fault is recorded too, after this one (03 R48). -/
def State.raise (s : State) (rid : Nat) (f : FaultRec) (sub : Nat := 0) : State :=
  let r := s.region rid
  let also := match streamKinds[f.seq]? with
    | some k => if f.issue < f.tick then r.decodeFault rid f.tile k f.tick else none
    | none => none
  s.setRegion rid (also.toList.foldl (fun r g => r.raise g) (r.raise f sub))

/-- Whether the word's stage predicate is true (05 R94). -/
def Ctx.guardOn (c : Ctx) : Bool :=
  let g := stageGuard c.k (tabGet 0 c.x.forms (pForm c.word).toNat) c.word
  if g = 0 then true
  else match c.x.loops with
    | l :: _ => decide (g.toNat ≤ l.m) && decide (l.m ≤ g.toNat + l.trips - 1)
    | [] => false

/-- The end of an accelerated DRIFT: another stream of the tile issues inside its window (20 R316). -/
def Ctx.driftWatch (c : Ctx) (s : State) : State :=
  match c.tl.drift with
  | none | some (_, _, false) => s
  | some (a, b, true) =>
    if c.k ≠ .ctl ∧ a ≤ c.t ∧ c.t ≤ b then
      s.setRegion c.rid ((s.region c.rid).modTile c.tile (fun tl => { tl with driftw := true, drift := none }))
    else s

/-- What a word does where its guard is false: its occupancy, and of LOOP the skip of its body (01 R15, 05 R93). -/
def skipped (i : Instr) (s : State) : Iss :=
  match i with
  | .loop _ _ _ _ len => .loop s none len.toNat
  | i => .done s i.occ

/-- Issues a word of a stream: the checks of R47, then the guard (03 R48, 01 R15), then its own effect `f`. -/
def issue (i : Instr) (s : State) (f : Ctx → Iss) : Out :=
  match s.ctx with
  | none => .fault .noSequencer
  | some c =>
    match c.cause i with
    | some n => .next (c.finish (.stop s 1 n 0 0))
    | none =>
      if c.guardOn then .next (c.driftWatch (c.finish (f c)))
      else .next (c.driftWatch (c.finish (skipped i s)))

/-- The state with effects of the issuing word added. -/
def Ctx.emit (c : Ctx) (s : State) (es : List Eff) : State :=
  s.setRegion c.rid ((s.region c.rid).modRun (fun run => run.addAll es))

/-- An effect of the issuing word on its own tile, `lat` ticks after issue. -/
def Ctx.eff (c : Ctx) (lat : Nat) (act : Act) (sub : Nat := 0) : Eff := mkEff c.org (c.t + lat) c.tile act sub

/-- The tile, offset and hops of a scratchpad address of a timed instruction: line-aligned unless `align` says otherwise,
in a timed bank. -/
def Ctx.spad (c : Ctx) (v : Word) (localOnly : Bool := false) (align : Nat := 64) (n : Nat := 64) :
    Option (Nat × Nat × Nat) :=
  c.r.spad c.run.img.seam c.tile v localOnly align n false

/-- An address fault precise to the PC, with the address logged (06 R104). -/
def Ctx.addrFault (_c : Ctx) (s : State) (v : Word) : Iss := .stop s 2 0 v 0

/-- The issuing tile changed at its issue tick. -/
def Ctx.onTile (c : Ctx) (s : State) (f : Tile → Tile) : State :=
  s.setRegion c.rid ((s.region c.rid).modTile c.tile f)

/-! ## Faults of a conductor (21 R318, R320, R322) -/

/-- The frame of a fault (21 R320). -/
def FaultRec.frame (f : FaultRec) (order stepno : Nat) : BitVec 512 :=
  f.addr ++ f.aux ++ BitVec.ofNat 64 stepno ++ f.word ++ BitVec.ofNat 32 f.pc ++ 0#192 ++ BitVec.ofNat 20 f.tick ++
    BitVec.ofNat 4 f.cause ++ BitVec.ofNat 4 f.cls ++ BitVec.ofNat 4 f.seq ++ BitVec.ofNat 8 f.tile ++
    BitVec.ofNat 8 order ++ 0#15 ++ 1#1

/-- The order of frames: region tick, tile, stream, issue order (21 R320); frames of a conductor last, and those of the
device after the streams' of their tick. -/
def FaultRec.key (f : FaultRec) : List Nat :=
  [if f.seq = 4 then 2 ^ 40 else f.tick, if f.seq = 5 then 1 else 0, f.tile, f.seq, f.issue]

/-- A fault put in frame order. -/
def faultInsert (f : FaultRec) : List FaultRec → List FaultRec
  | [] => [f]
  | g :: gs => if lexLt f.key g.key then f :: g :: gs else g :: faultInsert f gs

/-- Faults in frame order. -/
def faultSort (fs : List FaultRec) : List FaultRec := fs.foldl (fun acc f => faultInsert f acc) []

/-- The frame window rewritten with an episode's faults (21 R320). -/
def Region.rewriteFrames (r : Region) (fs : List FaultRec) : Region :=
  { r with frames := (fs.take 16).zipIdx.map (fun x => x.1.frame x.2 r.steps) }

/-- The fault event of a frame (21 R321). -/
def FaultRec.event (f : FaultRec) (rid : Nat) : Event :=
  ⟨rid, 5, f.cls * 16 + f.cause, 0,
    BitVec.ofNat 20 f.tick ++ BitVec.ofNat 4 f.seq ++ BitVec.ofNat 8 f.tile ++ BitVec.ofNat 32 f.pc⟩

/-- The fault events of an episode: one per frame, and an overflow event above sixteen (21 R321); every fault is logged with its
address (00 R11; 16 R270, R281). -/
def State.postFaults (s : State) (rid : Nat) (fs : List FaultRec) : State :=
  let r := s.region rid
  let s := s.setRegion rid { r with log := r.log ++ fs.map (fun f => ⟨r.asid, f.addr, some f⟩) }
  let s := (fs.take 16).foldl (fun s f => s.post (f.event rid)) s
  if 16 < fs.length then s.post ⟨rid, 5, 0, 0, BitVec.ofNat 64 fs.length⟩ else s

/-- A counter at the end of a top-level run: FREE, VALUE and ERR as they are; FRONT is VALUE. -/
def Ctr.freed (x : Ctr) : Ctr := { x with st := .free, front := x.value, ctrOf := false, ctx := 0, tile := 0 }

/-- Counters at the end of a top-level run: FREE, VALUE and ERR as they are; no operation is outstanding, so FRONT is VALUE
(12 R227, R239). -/
def Region.freeCounters (r : Region) : Region :=
  { r with ctrs := r.ctrs.foldl (fun (t : Tab Ctr) x => tabSet {} t x.1 x.2.freed) r.ctrs }

/-- 2 MiB. -/
def size2M : Nat := 0x200000

/-- 1 GiB. -/
def size1G : Nat := 0x40000000

/-! ## Seals (16 R275 to R277, 11 R219) -/

/-- Whether two ranges of bytes meet. -/
def meet (a n b m : Nat) : Bool := decide (a < b + m) && decide (b < a + n) && decide (0 < n) && decide (0 < m)

/-- The sealed ranges of a region. -/
def State.sealRanges (s : State) (rid : Nat) : List (Word × Word) :=
  (s.region rid).seals ++ (s.mem.rmSeals.filter (fun x => x.rid == rid)).map (fun x => (x.base, BitVec.ofNat 64 x.len))

/-- Whether a range of bytes meets one of a list of sealed ranges. -/
def sealedIn (rs : List (Word × Word)) (va : Word) (n : Nat) : Bool :=
  rs.any (fun x => meet va.toNat n x.1.toNat x.2.toNat)

/-- Whether a range of bytes is sealed now. -/
def State.isSealed (s : State) (rid : Nat) (va : Word) (n : Nat) : Bool := sealedIn (s.sealRanges rid) va n

/-- The page of a size that holds an address. -/
def pageOf (va : Word) (size : Nat) : Word := BitVec.ofNat 64 (va.toNat / size * size)

/-- Bytes of a recorded page. -/
def PageRec.size (p : PageRec) : Nat := if p.big then size1G else size2M

/-- Whether every 2 MiB of a page lies in a sealed range. -/
def State.pageSealed (s : State) (rid : Nat) (va : Word) (size : Nat) : Bool :=
  (List.range (size / size2M)).all (fun i =>
    let a := va.toNat + i * size2M
    (s.sealRanges rid).any (fun x => decide (x.1.toNat ≤ a) && decide (a + size2M ≤ x.1.toNat + x.2.toNat)))

/-- Forgets the recorded leaves of pages that no seal of the region meets any more (R277); the replicas of a page go as soon as part of
it is unsealed (R278). -/
def State.forgetLeaves (s : State) (rid : Nat) : State :=
  { s with mem := { s.mem with
      pages := (s.mem.pages.filter (fun p => p.rid != rid || s.isSealed rid p.page p.size)).map (fun p =>
        if p.rid == rid then { p with replicated := p.replicated && s.pageSealed rid p.page p.size } else p) } }

/-- What a top-level run holds is given up when it ends: its seals, its pool entries, its engine records (11 R219, R225). While
a step that outlives its run goes on, the counters stay as they are (12 R227, 21 R322). -/
def State.dropRun (s : State) (rid : Nat) : State :=
  let r := s.region rid
  let r := if r.run.isNone then { r.freeCounters with collCount := [] } else r
  let r := { r with graphs := [], begun := false, staging := none, staged := none, restage := none, poolShared := 0,
                    poolRes := [], afterYield := false, restart := none }
  State.forgetLeaves { s.setRegion rid r with mem := { s.mem with rmSeals := s.mem.rmSeals.filter (fun x => x.rid != rid) } } rid

/-- Where a region goes when its top-level run has ended: a queued START runs next, else PLACED (10 R190, R293, 21 R322).
A FREEZE that stands freezes at this boundary. -/
def Region.afterRun (r : Region) : Region :=
  match r.st with
  | .running | .yielding =>
    match r.startQ with
    | [] => { r with st := .placed }
    | l :: ls => { r with st := .running, startQ := { l with now := true } :: ls }
  | _ => r

/-- Where a region goes whose run a fault has ended: a broken one is released, its queued STARTs discarded (21 R322). -/
def State.afterFault (s : State) (rid : Nat) : State :=
  let r := s.region rid
  s.setRegion rid (if s.broken rid then { r with st := .releasing, startQ := [], condFault := none } else r.afterRun)

/-- A fault that a conductor word or a graph run raises: the run ends, a STAGED step is discarded, a RUNNING step goes on to
its rendezvous or stop, the frame window holds the conductor frame (21 R320, R322). -/
def State.condFault (s : State) (rid cls cause pc : Nat) (word : BitVec 32) (addr aux : Word) : State :=
  let f : FaultRec := ⟨0, 0xFF, 4, 0, cls, cause, pc, word, addr, aux, 0⟩
  let s := s.dropRun rid
  let r := (s.region rid).rewriteFrames [f]
  let s := (s.setRegion rid { r with condFault := some f }).postFaults rid [f]
  if r.run.isNone then s.afterFault rid else s

/-! ## Issuing a word that every sequencer has (03 R46) -/

/-- What a shared word does. -/
inductive ROut where
  /-- writes s[d] after `lat` ticks -/
  | write (lat : Nat) (d : BitVec 4) (v : Word)
  | nothing
  /-- a taken branch, with the link register it writes -/
  | jump (target : Int) (link : Option (BitVec 4))
  /-- TRAP n (05 R99) -/
  | trap (n : BitVec 8)

/-- A word of a conductor (11 R219). -/
structure CCtx where
  rid : Nat
  r : Region
  g : Graph
  word : BitVec 32

/-- A scalar register of the running graph. -/
def CCtx.rd (c : CCtx) (r : BitVec 4) : Word := regGet c.g.s r

/-- The running graph of a region replaced. -/
def Region.setGraph (r : Region) (g : Graph) : Region :=
  match r.graphs with
  | _ :: gs => { r with graphs := g :: gs }
  | [] => r

/-- The graph after a word that goes on at the next (11 R221). -/
def Graph.next (g : Graph) : Graph := { g with pc := g.pc + 4 }

/-- The target of a conductor's taken branch lies in its code (11 R219). -/
def Graph.inCode (g : Graph) (target : Int) : Bool :=
  decide (64 ≤ target) && decide (target < 64 + (g.clen : Int)) && decide (target % 4 = 0)

/-- A shared word on a conductor: its effects are complete at once (11 R221). DEDUCED: log 20. -/
def condShared (c : CCtx) (s : State) (o : ROut) : State :=
  match o with
  | .write _ d v => s.setRegion c.rid (c.r.setGraph { c.g.next with s := regSet c.g.s d v })
  | .nothing => s.setRegion c.rid (c.r.setGraph c.g.next)
  | .jump target link =>
    if c.g.inCode target then
      let regs := match link with
        | some d => regSet c.g.s d (BitVec.ofNat 64 (c.g.pc + 4))
        | none => c.g.s
      s.setRegion c.rid (c.r.setGraph { c.g with pc := target.toNat, s := regs })
    else s.condFault c.rid 1 9 c.g.pc c.word 0 0
  | .trap n => s.condFault c.rid 8 0 c.g.pc c.word 0 (n.zeroExtend 64)

/-- A shared word on a stream. -/
def streamShared (c : Ctx) (s : State) (o : ROut) : Iss :=
  match o with
  | .write lat d v => .done (c.emit s [c.eff lat (.reg d v)]) 1
  | .nothing => .done s 1
  | .jump target link =>
    match link with
    | some d =>
      if 0 ≤ target ∧ target ≤ 16380 ∧ target % 4 = 0 then
        .jump (c.emit s [c.eff 1 (.reg d (BitVec.ofNat 64 (c.pc + 4)))]) target
      else .jump s target
    | none => .jump s target
  | .trap n => .stop s 8 0 0 (n.zeroExtend 64)

/-- The context of the conductor the cursor names: its running graph (11 R219). -/
def State.cctx (s : State) : Option CCtx :=
  match s.cur with
  | .conductor rid word =>
    let r := s.region rid
    match r.graphs with
    | g :: _ => some ⟨rid, r, g, word⟩
    | [] => none
  | _ => none

/-- The kind of a region's conductor (10 R208). -/
def CCtx.kind (c : CCtx) : SeqKind := if c.r.service then .service else .conductor

/-- A conductor word that is no instruction there (11 R221, 03 R47). -/
def CCtx.illegal (c : CCtx) (s : State) (cause : Nat) : State := s.condFault c.rid 1 cause c.g.pc c.word 0 0

/-- Issues a word of a conductor: `f` is its effect. -/
def issueCond (i : Instr) (s : State) (f : CCtx → Out) : Out :=
  match s.cctx with
  | none => .fault .noSequencer
  | some c => if i.wf c.kind then f c else .next (c.illegal s 2)

/-- Issues a word that streams and conductors share (03 R46): `f` gives its effect from its registers and its PC. -/
def issueShared (i : Instr) (s : State) (f : (BitVec 4 → Word) → Nat → ROut) : Out :=
  match s.cur with
  | .conductor _ _ => issueCond i s (fun c => .next (condShared c s (f c.rd c.g.pc)))
  | _ => issue i s (fun c => streamShared c s (f c.rd c.pc))

end Sys2Proof.Machine
end

