-- ==== Sys2Proof/Machine/Circuit.lean ====
section
/-! DEFINITION. Circuits: routes, latencies, the check of the tables, and slots (13 R242 to R248). -/

namespace Sys2Proof.Machine

/-- The links of a route as (from tile, to tile, latency), rows first, then columns (13 R242). `fuel` bounds the hops. -/
def route (w : Nat) (sm : Seam) : Nat → Nat → Nat → Nat → Nat → List (Nat × Nat × Nat)
  | 0, _, _, _, _ => []
  | fuel + 1, x, y, x1, y1 =>
    let step (nx ny : Nat) : Nat × Nat × Nat :=
      (y * w + x, ny * w + nx, if sm.side x y ≠ sm.side nx ny then sm.lat else 2)
    if x < x1 then step (x + 1) y :: route w sm fuel (x + 1) y x1 y1
    else if x1 < x then step (x - 1) y :: route w sm fuel (x - 1) y x1 y1
    else if y < y1 then step x (y + 1) :: route w sm fuel x (y + 1) x1 y1
    else if y1 < y then step x (y - 1) :: route w sm fuel x (y - 1) x1 y1
    else []

/-- Enough hops for any route of a region. -/
def routeFuel : Nat := 32

/-- The latency of a route (13 R242). -/
def routeLat (w : Nat) (sm : Seam) (x0 y0 x1 y1 : Nat) : Nat :=
  ((route w sm routeFuel x0 y0 x1 y1).map (fun l => l.2.2)).foldl (· + ·) 0

/-- The tiles of a multicast mask. -/
def maskTiles (mask : BitVec 128) (n : Nat) : List Nat := (List.range n).filter (fun i => mask.getLsbD i)

/-- The destinations of a circuit, as logical tiles (13 R244, R245). -/
def Circ.dests (c : Circ) (img : Img) (w h : Nat) : List Nat :=
  if c.mc then maskTiles (tabGet 0 img.groups c.group) (w * h) else [c.y1 * w + c.x1]

/-- The source tile of a circuit. -/
def Circ.src (c : Circ) (w : Nat) : Nat := c.y0 * w + c.x0

/-- Ticks from departure to a destination; a loopback takes 2 (13 R248). -/
def Circ.latTo (c : Circ) (sm : Seam) (w dest : Nat) : Nat :=
  if dest = c.src w then 2 else routeLat w sm c.x0 c.y0 (dest % w) (dest / w)

/-- The period of a circuit (13 R244). -/
def Circ.period (c : Circ) : Nat := 2 ^ c.plog

/-- The record of a circuit in a step. -/
def Img.circ (img : Img) (n : Nat) : Option Circ := img.circs.find? (fun c => c.c == n)

/-- The links a circuit claims, each with its offset from departure; shared links once (13 R245, R246). -/
def Circ.claims (c : Circ) (img : Img) (w h : Nat) : List (Nat × Nat × Nat) :=
  ((c.dests img w h).filter (fun d => d != c.src w)).foldl
    (fun acc d =>
      ((route w img.seam routeFuel c.x0 c.y0 (d % w) (d / w)).foldl
        (fun (st : List (Nat × Nat × Nat) × Nat) l =>
          (if st.1.any (fun x => x.1 == l.1 && x.2.1 == l.2.1) then st.1 else st.1 ++ [(l.1, l.2.1, st.2)],
           st.2 + l.2.2))
        (acc, 0)).1)
    []

/-- Whether two circuits claim one directed link in conflicting ticks (13 R246). -/
def Circ.conflict (a b : Circ) (img : Img) (w h : Nat) : Bool :=
  let p := min a.period b.period
  (a.claims img w h).any (fun x => (b.claims img w h).any (fun y =>
    x.1 == y.1 && x.2.1 == y.2.1 && (a.slot + x.2.2) % p == (b.slot + y.2.2) % p))

/-- The least tick at or after `base` that is congruent to the slot (13 R247). -/
def slotFrom (base slot p : Nat) : Nat := base + (slot + p - base % p) % p

/-- Words of a circuit that wait to depart. -/
def Run.waitingWords (run : Run) (n : Nat) : List Eff :=
  run.effs.filter (fun e => match e.act with
    | .depart m _ => m == n
    | _ => false)

/-- The departure tick of a word offered at tick `t` (13 R247): later than every earlier word's departure. -/
def Run.departTick (run : Run) (c : Circ) (t : Nat) : Nat :=
  let base := ((run.waitingWords c.c).map (fun e => e.due + 1)).foldl max (max t (tabGet 0 run.lastDep c.c))
  slotFrom base c.slot c.period

/-- The run after a word is offered to a circuit at tick `t`; a group with no destination takes no slot (13 R248). -/
def Run.offer (run : Run) (c : Circ) (org : Org) (w h t : Nat) (line : BitVec 512) : Run :=
  if (c.dests run.img w h).isEmpty then run
  else run.add (mkEff org (run.departTick c t) org.tile (.depart c.c line))

end Sys2Proof.Machine
end

