-- ==== Sys2Proof/Machine/Scalar.lean ====
section
/-! DEFINITION. The scalar instructions that every sequencer has, and the branches and jumps (05 R82 to R90). -/

namespace Sys2Proof.Machine

/-- A shift amount is b[5:0] (05 R82). -/
def shamt (b : Word) : Nat := (b.extractLsb' 0 6).toNat

/-- The upper half of the signed product (05 R82). -/
def mulHigh (a b : Word) : Word := BitVec.ofInt 64 ((a.toInt * b.toInt) >>> 64)

/-- The upper half of the unsigned product (05 R82). -/
def mulHighU (a b : Word) : Word := BitVec.ofNat 64 ((a.toNat * b.toNat) >>> 64)

/-- The signed quotient, truncated toward zero; all ones where b = 0 (05 R82, R83). -/
def divS (a b : Word) : Word := if b = 0 then BitVec.allOnes 64 else BitVec.ofInt 64 (a.toInt.tdiv b.toInt)

/-- The unsigned quotient; all ones where b = 0 (05 R82, R83). -/
def divU (a b : Word) : Word := if b = 0 then BitVec.allOnes 64 else BitVec.ofNat 64 (a.toNat / b.toNat)

/-- The signed remainder, of the sign of a; a where b = 0 (05 R82, R83). -/
def remS (a b : Word) : Word := if b = 0 then a else BitVec.ofInt 64 (a.toInt.tmod b.toInt)

/-- The unsigned remainder; a where b = 0 (05 R82, R83). -/
def remU (a b : Word) : Word := if b = 0 then a else BitVec.ofNat 64 (a.toNat % b.toNat)

/-- A register operation: s[d] := f(s[a], s[b]) after `lat` ticks (05 R82). -/
def alu2 (i : Instr) (lat : Nat) (d a b : BitVec 4) (f : Word → Word → Word) (s : State) : Out :=
  issueShared i s (fun rd _ => .write lat d (f (rd a) (rd b)))

/-- A register operation of one operand: s[d] := f(s[a]) after one tick (05 R84, R85). -/
def alu1 (i : Instr) (d a : BitVec 4) (f : Word → Word) (s : State) : Out :=
  issueShared i s (fun rd _ => .write 1 d (f (rd a)))

/-- A conditional branch to PC + 4·IMM10 (05 R89). -/
def branch (i : Instr) (op : BrOp) (d a : BitVec 4) (off : BitVec 10) (s : State) : Out :=
  issueShared i s (fun rd pc =>
    if brTaken op (rd d) (rd a) then .jump ((pc : Int) + 4 * off.toInt) none else .nothing)

/-- NOP: its issue tick and its occupancy, no more (05 R84). -/
def execNop (h : Head) (s : State) : Out := issueShared (.nop h) s (fun _ _ => .nothing)

/-- ADD (05 R82). -/
def execAdd (h : Head) (d a b : BitVec 4) (s : State) : Out :=
  alu2 (.add h d a b) 1 d a b (fun a b => a + b) s

/-- SUB (05 R82). -/
def execSub (h : Head) (d a b : BitVec 4) (s : State) : Out :=
  alu2 (.sub h d a b) 1 d a b (fun a b => a - b) s

/-- AND (05 R82). -/
def execAnd (h : Head) (d a b : BitVec 4) (s : State) : Out :=
  alu2 (.and h d a b) 1 d a b (fun a b => a &&& b) s

/-- OR (05 R82). -/
def execOr (h : Head) (d a b : BitVec 4) (s : State) : Out :=
  alu2 (.or h d a b) 1 d a b (fun a b => a ||| b) s

/-- XOR (05 R82). -/
def execXor (h : Head) (d a b : BitVec 4) (s : State) : Out :=
  alu2 (.xor h d a b) 1 d a b (fun a b => a ^^^ b) s

/-- SLL (05 R82). -/
def execSll (h : Head) (d a b : BitVec 4) (s : State) : Out :=
  alu2 (.sll h d a b) 1 d a b (fun a b => a <<< shamt b) s

/-- SRL (05 R82). -/
def execSrl (h : Head) (d a b : BitVec 4) (s : State) : Out :=
  alu2 (.srl h d a b) 1 d a b (fun a b => a >>> shamt b) s

/-- SRA (05 R82). -/
def execSra (h : Head) (d a b : BitVec 4) (s : State) : Out :=
  alu2 (.sra h d a b) 1 d a b (fun a b => a.sshiftRight (shamt b)) s

/-- MUL (05 R82). -/
def execMul (h : Head) (d a b : BitVec 4) (s : State) : Out :=
  alu2 (.mul h d a b) 3 d a b (fun a b => a * b) s

/-- MULH (05 R82). -/
def execMulh (h : Head) (d a b : BitVec 4) (s : State) : Out :=
  alu2 (.mulh h d a b) 3 d a b (fun a b => mulHigh a b) s

/-- MULHU (05 R82). -/
def execMulhu (h : Head) (d a b : BitVec 4) (s : State) : Out :=
  alu2 (.mulhu h d a b) 3 d a b (fun a b => mulHighU a b) s

/-- DIV (05 R83). -/
def execDiv (h : Head) (d a b : BitVec 4) (s : State) : Out :=
  alu2 (.div h d a b) 20 d a b (fun a b => divS a b) s

/-- DIVU (05 R83). -/
def execDivu (h : Head) (d a b : BitVec 4) (s : State) : Out :=
  alu2 (.divu h d a b) 20 d a b (fun a b => divU a b) s

/-- REM (05 R83). -/
def execRem (h : Head) (d a b : BitVec 4) (s : State) : Out :=
  alu2 (.rem h d a b) 20 d a b (fun a b => remS a b) s

/-- REMU (05 R83). -/
def execRemu (h : Head) (d a b : BitVec 4) (s : State) : Out :=
  alu2 (.remu h d a b) 20 d a b (fun a b => remU a b) s

/-- MIN (05 R82). -/
def execMin (h : Head) (d a b : BitVec 4) (s : State) : Out :=
  alu2 (.min h d a b) 1 d a b (fun a b => if a.slt b then a else b) s

/-- MAX (05 R82). -/
def execMax (h : Head) (d a b : BitVec 4) (s : State) : Out :=
  alu2 (.max h d a b) 1 d a b (fun a b => if a.slt b then b else a) s

/-- MINU (05 R82). -/
def execMinu (h : Head) (d a b : BitVec 4) (s : State) : Out :=
  alu2 (.minu h d a b) 1 d a b (fun a b => if a.ult b then a else b) s

/-- MAXU (05 R82). -/
def execMaxu (h : Head) (d a b : BitVec 4) (s : State) : Out :=
  alu2 (.maxu h d a b) 1 d a b (fun a b => if a.ult b then b else a) s

/-- SLT (05 R82). -/
def execSlt (h : Head) (d a b : BitVec 4) (s : State) : Out :=
  alu2 (.slt h d a b) 1 d a b (fun a b => if a.slt b then 1 else 0) s

/-- SLTU (05 R82). -/
def execSltu (h : Head) (d a b : BitVec 4) (s : State) : Out :=
  alu2 (.sltu h d a b) 1 d a b (fun a b => if a.ult b then 1 else 0) s

/-- SEL: s[a] if s[c] ≠ 0, else s[b] (05 R84). -/
def execSel (h : Head) (d a b c : BitVec 4) (s : State) : Out :=
  issueShared (.sel h d a b c) s (fun rd _ => .write 1 d (if rd c ≠ 0 then rd a else rd b))

/-- CLZ (05 R84). -/
def execClz (h : Head) (d a : BitVec 4) (s : State) : Out :=
  alu1 (.clz h d a) d a (fun x => BitVec.ofNat 64 (leadZeros x.toNat 64)) s

/-- POPC (05 R84). -/
def execPopc (h : Head) (d a : BitVec 4) (s : State) : Out :=
  alu1 (.popc h d a) d a (fun x => BitVec.ofNat 64 (popN x.toNat 64)) s

/-- ADDI (05 R85). -/
def execAddi (h : Head) (d a : BitVec 4) (imm : BitVec 10) (s : State) : Out :=
  alu1 (.addi h d a imm) d a (fun x => x + imm.signExtend 64) s

/-- ANDI (05 R85). -/
def execAndi (h : Head) (d a : BitVec 4) (imm : BitVec 10) (s : State) : Out :=
  alu1 (.andi h d a imm) d a (fun x => x &&& imm.signExtend 64) s

/-- ORI (05 R85). -/
def execOri (h : Head) (d a : BitVec 4) (imm : BitVec 10) (s : State) : Out :=
  alu1 (.ori h d a imm) d a (fun x => x ||| imm.signExtend 64) s

/-- XORI (05 R85). -/
def execXori (h : Head) (d a : BitVec 4) (imm : BitVec 10) (s : State) : Out :=
  alu1 (.xori h d a imm) d a (fun x => x ^^^ imm.signExtend 64) s

/-- SLLI (05 R85). -/
def execSlli (h : Head) (d a : BitVec 4) (imm : BitVec 10) (s : State) : Out :=
  alu1 (.slli h d a imm) d a (fun x => x <<< imm.toNat) s

/-- SRLI (05 R85). -/
def execSrli (h : Head) (d a : BitVec 4) (imm : BitVec 10) (s : State) : Out :=
  alu1 (.srli h d a imm) d a (fun x => x >>> imm.toNat) s

/-- SRAI (05 R85). -/
def execSrai (h : Head) (d a : BitVec 4) (imm : BitVec 10) (s : State) : Out :=
  alu1 (.srai h d a imm) d a (fun x => x.sshiftRight imm.toNat) s

/-- SLTI (05 R85). -/
def execSlti (h : Head) (d a : BitVec 4) (imm : BitVec 10) (s : State) : Out :=
  alu1 (.slti h d a imm) d a (fun x => if x.slt (imm.signExtend 64) then 1 else 0) s

/-- BEQ (05 R89). -/
def execBeq (h : Head) (d a : BitVec 4) (off : BitVec 10) (s : State) : Out :=
  branch (.beq h d a off) .eq d a off s

/-- BNE (05 R89). -/
def execBne (h : Head) (d a : BitVec 4) (off : BitVec 10) (s : State) : Out :=
  branch (.bne h d a off) .ne d a off s

/-- BLT (05 R89). -/
def execBlt (h : Head) (d a : BitVec 4) (off : BitVec 10) (s : State) : Out :=
  branch (.blt h d a off) .lt d a off s

/-- BGE (05 R89). -/
def execBge (h : Head) (d a : BitVec 4) (off : BitVec 10) (s : State) : Out :=
  branch (.bge h d a off) .ge d a off s

/-- BLTU (05 R89). -/
def execBltu (h : Head) (d a : BitVec 4) (off : BitVec 10) (s : State) : Out :=
  branch (.bltu h d a off) .ltu d a off s

/-- BGEU (05 R89). -/
def execBgeu (h : Head) (d a : BitVec 4) (off : BitVec 10) (s : State) : Out :=
  branch (.bgeu h d a off) .geu d a off s

/-- LI: the sign-extended immediate (05 R86). -/
def execLi (h : HeadW) (d : BitVec 4) (imm : BitVec 19) (s : State) : Out :=
  issueShared (.li h d imm) s (fun _ _ => .write 1 d (imm.signExtend 64))

/-- LIH: (s[d] << 19) | imm (05 R86). -/
def execLih (h : HeadW) (d : BitVec 4) (imm : BitVec 19) (s : State) : Out :=
  issueShared (.lih h d imm) s (fun rd _ => .write 1 d ((rd d <<< 19) ||| imm.zeroExtend 64))

/-- J: to PC + 4·IMM19 (05 R90). -/
def execJ (h : HeadW) (off : BitVec 19) (s : State) : Out :=
  issueShared (.j h off) s (fun _ pc => .jump ((pc : Int) + 4 * off.toInt) none)

/-- JAL: J that writes PC + 4 to s[d] (05 R90). -/
def execJal (h : HeadW) (d : BitVec 4) (off : BitVec 19) (s : State) : Out :=
  issueShared (.jal h d off) s (fun _ pc => .jump ((pc : Int) + 4 * off.toInt) (some d))

/-- JR: to the byte offset s[a] (05 R90). -/
def execJr (h : Head) (a : BitVec 4) (s : State) : Out :=
  issueShared (.jr h a) s (fun rd _ => .jump ((rd a).toNat : Int) none)

/-- TRAP: a trap fault that records n (05 R99). -/
def execTrap (h : Head) (n : BitVec 8) (s : State) : Out := issueShared (.trap h n) s (fun _ _ => .trap n)

end Sys2Proof.Machine
end

