-- ==== Sys2Proof/Machine/Control.lean ====
section
/-! DEFINITION. Position, control registers, LOOP, waits, FORMLD and END (05 R78, R79, R87, R88, R92 to R98, R100). -/

namespace Sys2Proof.Machine

/-! ## Control registers -/

/-- LSTAT (05 R78). -/
def lstat (ls : List Loop) : Word :=
  match ls with
  | [] => 0
  | l :: _ => 0#57 ++ BitVec.ofBool l.rot ++ BitVec.ofNat 3 l.n ++ BitVec.ofNat 3 ls.length

/-- A control register of a stream, read at issue (05 R78). -/
def Ctx.ctrl (c : Ctx) (n : BitVec 8) : Word :=
  match n with
  | 0x00 => BitVec.ofNat 64 c.k.num
  | 0x01 => BitVec.ofNat 64 c.t
  | 0x02 => c.run.img.arch.zeroExtend 64
  | 0x03 => lstat c.x.loops
  | 0x04 =>
    match c.x.loops with
    | l :: _ => BitVec.ofNat 64 l.m
    | [] => 0
  | 0x05 => BitVec.ofNat 64 c.tl.rotb
  | 0x06 => BitVec.ofNat 64 c.run.img.tregs
  | 0x07 => if c.tl.driftw then 1 else 0
  | 0x10 => c.tl.drawCtr
  | 0x11 => c.tl.drawId
  | _ => 0

/-- Entries of the launch pool that a run at a depth can take (11 R225). -/
def Region.poolFree (r : Region) (depth : Nat) : Nat :=
  (192 - r.poolShared) + (if 8 ≤ depth then 0 else 8 - tabGet 0 r.poolRes (depth + 1))

/-- A control register of a conductor (11 R221). -/
def CCtx.ctrl (c : CCtx) (n : BitVec 8) : Word :=
  match n with
  | 0x00 => 4
  | 0x02 => c.g.arch.zeroExtend 64
  | 0x20 => BitVec.ofNat 64 c.g.depth
  | 0x21 => BitVec.ofNat 64 c.g.ord
  | 0x22 => c.g.arg
  | 0x23 => c.g.pbuf
  | 0x24 => BitVec.ofNat 64 c.g.plen
  | 0x25 => BitVec.ofNat 64 (c.r.poolFree c.g.depth)
  | _ => 0

/-- GETC: a control register, read at issue, to s[d] (05 R79, 11 R221). -/
def execGetc (h : Head) (d : BitVec 4) (n : BitVec 8) (s : State) : Out :=
  match s.cur with
  | .conductor _ _ => issueCond (.getc h d n) s (fun c => .next (condShared c s (.write 1 d (c.ctrl n))))
  | _ => issue (.getc h d n) s (fun c => streamShared c s (.write 1 d (c.ctrl n)))

/-- SETC: s[a] to a control register at T + 1; a read-only register ignores it (05 R79, 11 R221). -/
def execSetc (h : Head) (n : BitVec 8) (a : BitVec 4) (s : State) : Out :=
  match s.cur with
  | .conductor _ _ => issueCond (.setc h n a) s (fun c => .next (condShared c s .nothing))
  | _ => issue (.setc h n a) s (fun c => .done (c.emit s [c.eff 1 (.ctrl n (c.rd a))]) 1)

/-! ## Position and index -/

/-- TICK: the region tick of its own issue (05 R87). -/
def execTick (h : Head) (d : BitVec 4) (s : State) : Out :=
  issue (.tick h d) s (fun c => .done (c.emit s [c.eff 1 (.reg d (BitVec.ofNat 64 c.t))]) 1)

/-- The per-level index of a flat index (11 R214), by the levels in flattened order, the innermost first. -/
def idxOf (nest : Nest) (level : Nat) : List Nat → Nat → Nat
  | [], _ => 0
  | j :: js, f =>
    let e := nest.ext.getD j 1
    if j = level then f % e else idxOf nest level js (f / e)

/-- IDX's result (05 R88). -/
def idxValue (nest : Option Nest) (flat : Word) (level : Nat) : Word :=
  match nest with
  | none => 0
  | some n => if n.depth ≤ level then 0 else BitVec.ofNat 64 (idxOf n level (n.perm.take n.depth).reverse flat.toNat)

/-- IDX (05 R88). -/
def execIdx (h : Head) (d level : BitVec 4) (s : State) : Out :=
  issue (.idx h d level) s (fun c =>
    .done (c.emit s [c.eff 2 (.reg d (idxValue c.run.img.nest (c.rd 1) level.toNat))]) 1)

/-! ## LOOP, waits, END -/

/-- LOOP: pushes a loop, or skips its body where T = 0; a fifth level, or a body that does not end before the innermost
one's last word, is a schedule violation (05 R92, R93). -/
def execLoop (h : Head) (n : BitVec 3) (rot : Bool) (a : BitVec 4) (len : BitVec 10) (s : State) : Out :=
  issue (.loop h n rot a len) s (fun c =>
    let last := c.pc + 4 * len.toNat
    let deep := match c.x.loops with
      | l :: _ => decide (4 ≤ c.x.loops.length) || decide (l.last ≤ last)
      | [] => false
    if deep then .stop s 3 0 0 0
    else if c.rd a = 0 then .loop s none len.toNat
    else .loop s (some ⟨c.pc + 4, last, n.toNat, rot, 1, (c.rd a).toNat⟩) len.toNat)

/-- The tick bound of a step (05 R72). -/
def tickMax : Nat := 524288

/-- WAITT: the next word issues at the target tick; a target that has passed is a schedule overrun (01 R19, 05 R96).
DEDUCED: the target is the exact sum of s[d] read unsigned and imm (log 18). -/
def execWaitt (h : HeadW) (d : BitVec 4) (imm : BitVec 19) (s : State) : Out :=
  issue (.waitt h d imm) s (fun c =>
    let target := (c.rd d).toNat + imm.toNat
    if c.t ≤ target then .wait s (max (c.t + 1) target) else .stop s 4 0 0 0)

/-- WAITD: waits s[a] + imm ticks (05 R97). -/
def execWaitd (h : Head) (a : BitVec 4) (imm : BitVec 10) (s : State) : Out :=
  issue (.waitd h a imm) s (fun c =>
    let w := (c.rd a).toNat + imm.toNat
    if tickMax < c.t + 1 + w then .stop s 4 0 0 0 else .wait s (c.t + 1 + w))

/-- FORMLD: sixteen bytes of the tile's scratchpad into a form entry, read at T + 1, landing at T + 6 (05 R98). -/
def execFormld (h : Head) (f : BitVec 10) (a : BitVec 4) (s : State) : Out :=
  issue (.formld h f a) s (fun c =>
    match c.spad (c.rd a) true 16 16 with
    | none => c.addrFault s (c.rd a)
    | some (j, off, _) =>
      .done (c.emit s [mkEff c.org (c.t + 1) j (.bankRd (.formld f.toNat off (c.t + 6)) false)]) 1)

/-- END on a stream: the stream is ENDED; the last END of a tile triggers the residue check (05 R100). -/
def execEndStream (h : Head) (s : State) : Out := issue (.endStream h) s (fun _ => .fin s)

end Sys2Proof.Machine
end

