-- ==== Sys2Proof/Machine/Memory.lean ====
section
/-! DEFINITION. Device and host memory: page walks, the interleave, accesses through an address space, footprints, seals,
stamps and the snapshot rule (16 R263 to R278, 17 R283 to R289). -/

namespace Sys2Proof.Machine

/-! ## Page tables (16 R266, R267) -/

/-- A leaf. -/
structure Leaf where
  size : Nat
  w : Bool
  rv : Bool
  frame : Nat
  rframe : Nat
  raw : Word

/-- The address of an entry in the module's table stores. -/
def tableKey (die off : Nat) : Nat := die * 2 ^ 28 + off

/-- An 8-byte entry of a table store. -/
def Mem.tableWord (m : Mem) (die off : Nat) : Word := BitVec.ofNat 64 (memRead m.table (tableKey die (off % 2 ^ 28)) 8)

/-- The byte offset of the table that a root-directory entry names; reserved bits are zero, and a top table is 8 KiB
aligned (R266). -/
def dirTable (e : Word) : Option Nat :=
  if e.getLsbD 0 ∧ slice e 1 11 = 0 ∧ slice e 28 36 = 0 ∧ slice e 12 16 % 2 = 0 then some (slice e 12 16 * 4096) else none

/-- The byte offset of the table that a table entry names (R267). -/
def entryTable (e : Word) : Option Nat :=
  if slice e 62 2 = 1 ∧ slice e 0 4 = 0 ∧ slice e 20 8 = 0 ∧ slice e 52 8 = 0 then some (slice e 4 16 * 4096) else none

/-- A leaf entry that maps a page of `size` bytes (R267). -/
def entryLeaf (e : Word) (size : Nat) : Option Leaf :=
  if slice e 62 2 = 2 ∧ slice e 0 4 = 0 ∧ slice e 52 8 = 0 then
    some ⟨size, e.getLsbD 61, e.getLsbD 60, slice e 4 24, slice e 28 24, e⟩
  else none

/-- The entries that a walk of offset `o` reads above the leaf, by `get`, and the leaf (R267). The list names the table
store offsets read. -/
def walkTables (get : Nat → Word) (leafGet : Nat → Word) (asid o : Nat) : List Nat × Option Leaf :=
  let a0 := 8 * asid
  match dirTable (get a0) with
  | none => ([a0], none)
  | some t2 =>
    let a2 := t2 + 8 * bitsOf o 39 10
    match entryTable (get a2) with
    | none => ([a0, a2], none)
    | some t1 =>
      let a1 := t1 + 8 * bitsOf o 30 9
      match entryLeaf (leafGet a1) size1G with
      | some l => ([a0, a2], some l)
      | none =>
        match entryTable (get a1) with
        | none => ([a0, a2, a1], none)
        | some t0 => ([a0, a2, a1], entryLeaf (leafGet (t0 + 8 * bitsOf o 21 9)) size2M)

/-- A walk that reads the table store itself. -/
def Mem.leaf (m : Mem) (die asid o : Nat) : Option Leaf := (walkTables (m.tableWord die) (m.tableWord die) asid o).2

/-- The key of a walk-cache entry (R271). -/
def walkKey (die asid off : Nat) : Nat := (asid * 2 + die) * 2 ^ 28 + off

/-! ## Address spaces -/

/-- The die of the module whose table store a region's walks read (R266). DEDUCED: log 19. -/
def Region.tableDie (r : Region) (rid : Nat) : Nat := if r.seam.axis = 0 then r.dieOf 0 else rid / 16

/-- The die number a region's addresses name: 2m + RID[4] (R264). -/
def State.homeDie (s : State) (rid : Nat) : Nat := 2 * s.time.member + rid / 16

/-- An address of the region's space (R264). -/
def State.inHome (s : State) (rid : Nat) (va : Word) : Bool :=
  vaClean va && vaDevice va && decide (vaDie va = s.homeDie rid)

/-- The channel-set index of an offset in a plain interleave (R265). -/
def Region.setIdx (r : Region) (o : Nat) : Nat := o / 1024 % 2 ^ r.k

/-- Channel and local address of offset `o` of a page whose frame starts at `lfa` (R265). -/
def Region.place' (r : Region) (o size lfa : Nat) : Nat × Nat :=
  let q := ((o % size) / 1024) / 2 ^ r.k
  ((r.cs[r.setIdx o]?).getD 0, lfa + q * 1024 + o % 1024)

/-- The replicated interleave, for a tile on side `sd` (R278). -/
def Region.placeRepl (r : Region) (o size lfa rlfa sd : Nat) : Nat × Nat :=
  let q := ((o % size) / 1024) / 2 ^ r.k
  let half := 2 ^ (r.k - 1)
  let g := o / 1024
  let base := if g % 2 ^ r.k / half = sd then lfa else rlfa
  ((r.cs[sd * half + g % half]?).getD 0, base + q * 1024 + o % 1024)

/-- The key of a device-memory byte. -/
def hbmKey (p : Nat × Nat) : Nat := p.1 * 2 ^ 31 + p.2

/-- The leaf that maps an address of a region's space. -/
def State.leafOf (s : State) (rid : Nat) (va : Word) : Option Leaf :=
  if s.inHome rid va then
    let r := s.region rid
    s.mem.leaf (r.tableDie rid) r.asid (vaOff va)
  else none

/-- The memory key of an address of a region's space, in the plain interleave. -/
def State.translate (s : State) (rid : Nat) (va : Word) : Option Nat :=
  (s.leafOf rid va).map (fun l => hbmKey ((s.region rid).place' (vaOff va) l.size (l.frame * 8192)))

/-- Pieces of a range that stay inside a granule: address and length. -/
def pieces : Nat → Nat → Nat → List (Nat × Nat)
  | 0, _, _ => []
  | fuel + 1, a, n =>
    if n = 0 then []
    else
      let c := min n (1024 - a % 1024)
      (a, c) :: pieces fuel (a + c) (n - c)

/-- The granule pieces of a range of `n` bytes. -/
def granules (va : Word) (n : Nat) : List (Nat × Nat) := pieces (n / 1024 + 2) va.toNat n

/-- The `n` bytes at an address of a region's space, little-endian; none where a byte is not mapped. -/
def State.readVa (s : State) (rid : Nat) (va : Word) (n : Nat) : Option Nat :=
  (granules va n).foldr
    (fun p acc =>
      match acc, s.translate rid (BitVec.ofNat 64 p.1) with
      | some hi, some k => if p.1 < 2 ^ 64 then some (memRead s.mem.hbm k p.2 ||| (hi <<< (8 * p.2))) else none
      | _, _ => none)
    (some 0)

/-- Whether every byte of a range is mapped, and writable where `w` asks for it. -/
def State.mapped (s : State) (rid : Nat) (va : Word) (n : Nat) (w : Bool) : Bool :=
  (granules va n).all (fun p =>
    decide (p.1 < 2 ^ 64) &&
      (match s.leafOf rid (BitVec.ofNat 64 p.1) with
       | some l => !w || l.w
       | none => false))

/-- The state with `n` bytes of `v` written at an address of a region's space; unmapped bytes are dropped. -/
def State.writeVa (s : State) (rid : Nat) (va : Word) (n v : Nat) : State :=
  (granules va n).foldl
    (fun s p =>
      match s.translate rid (BitVec.ofNat 64 p.1) with
      | some k => { s with mem := { s.mem with hbm := memWrite s.mem.hbm k p.2 (v >>> (8 * (p.1 - va.toNat))) } }
      | none => s)
    s

/-! ## The leaves of sealed pages (16 R277) -/

/-- The leaf of the page of an address recorded, unless it is. -/
def State.recordLeaf (s : State) (rid : Nat) (va : Word) : State :=
  match s.leafOf rid va with
  | none => s
  | some l =>
    let page := pageOf va l.size
    if s.mem.pages.any (fun p => p.rid == rid && p.page == page) then s
    else { s with mem := { s.mem with pages := s.mem.pages ++ [⟨rid, page, l.size == size1G, l.raw, false⟩] } }

/-- Records the leaves of the pages of a range that becomes sealed (R277), gone through in steps of 2 MiB. -/
def State.recordLeaves (s : State) (rid : Nat) (base : Word) (len : Nat) : State :=
  let a0 := base.toNat / size2M
  let n := if len = 0 then 0 else (base.toNat + len - 1) / size2M - a0 + 1
  (List.range n).foldl (fun s i => s.recordLeaf rid (BitVec.ofNat 64 ((a0 + i) * size2M))) s

/-! ## Footprints (16 R268 to R270) -/

/-- Bytes of a footprint record's page. -/
def Foot.size (f : Foot) : Nat := if f.big then size1G else size2M

/-- Whether every byte of a range lies in a record, in one with W where `w` asks for it, line by line (R268). -/
def covered (fs : List Foot) (va : Word) (n : Nat) (w : Bool) : Bool :=
  let a := va.toNat / 64
  let b := (va.toNat + (n - 1)) / 64
  (List.range (b - a + 1)).all (fun i =>
    let l := (a + i) * 64
    fs.any (fun f => decide (f.base.toNat ≤ l) && decide (l + 64 ≤ f.base.toNat + f.count * f.size) && (!w || f.w)))

/-- Whether a range of bytes meets a footprint. -/
def meetsFoot (fs : List Foot) (va : Word) (n : Nat) : Bool :=
  fs.any (fun f => meet va.toNat n f.base.toNat (f.count * f.size))

/-- Bytes of a TLB entry's page. -/
def Tlb.size (e : Tlb) : Nat := if e.big then size1G else size2M

/-- The loaded entry of an address (R270). -/
def tlbFind (es : List Tlb) (va : Word) : Option Tlb :=
  es.find? (fun e => decide (e.va.toNat ≤ va.toNat) && decide (va.toNat < e.va.toNat + e.size))

/-- Whether a line reads through the replicated interleave (R278). -/
def replLine (r : Region) (fs : List Foot) (va : Word) : Bool :=
  r.seam.axis != 0 &&
    fs.any (fun f => f.repl && decide (f.base.toNat ≤ va.toNat) && decide (va.toNat < f.base.toNat + f.count * f.size))

/-- Whether the channel of an address lies on the die of tile `i` (06 R131, 16 R278). -/
def Region.sameDie (r : Region) (fs : List Foot) (i : Nat) (va : Word) : Bool :=
  replLine r fs va || (r.cs[r.setIdx (vaOff va)]?).getD 0 / 128 == r.dieOf i

/-- The channel-set index of an address as tile `i` reaches it (16 R265, R278). -/
def Region.lineIdx (r : Region) (fs : List Foot) (i : Nat) (va : Word) : Nat :=
  if replLine r fs va then
    let half := 2 ^ (r.k - 1)
    r.seam.side (i % r.w) (i / r.w) * half + vaOff va / 1024 % half
  else r.setIdx (vaOff va)

/-- The channel of an address as tile `i` reaches it (16 R265, R278). -/
def Region.chanOf (r : Region) (fs : List Foot) (i : Nat) (va : Word) : Nat := (r.cs[r.lineIdx fs i va]?).getD 0

/-- The memory key of an address through a loaded entry, for tile `i` (16 R265, R278). -/
def Region.keyThrough (r : Region) (e : Tlb) (i : Nat) (va : Word) : Nat :=
  let o := vaOff va
  if e.repl && r.seam.axis != 0 then
    hbmKey (r.placeRepl o e.size (e.frame * 8192) (e.rframe * 8192) (r.seam.side (i % r.w) (i / r.w)))
  else hbmKey (r.place' o e.size (e.frame * 8192))

/-! ## Stamps (17 R284, R285) -/

/-- A stamp's fields: epoch, kind, AOP and task. -/
def stampOf (epoch kind aop task : Nat) : BitVec 32 :=
  BitVec.ofNat 19 epoch ++ BitVec.ofNat 2 kind ++ BitVec.ofNat 4 aop ++ BitVec.ofNat 7 task

/-- The snapshot rule: whether an access of the given kind passes a stamp, and the stamp after it (R285). Kinds are those of
R284. -/
def judge (stamp : BitVec 32) (epoch kind aop task : Nat) : Option (BitVec 32) :=
  if slice stamp 13 19 ≠ epoch then some (stampOf epoch kind (if kind = 2 then aop else 0) task)
  else
    let k := slice stamp 11 2
    let tk := slice stamp 0 7
    let ok : Bool := match kind with
      | 0 => k == 0 || (k == 1 && tk == task)
      | 1 => k == 1 && tk == task
      | 2 => k == 2 && slice stamp 7 4 == aop
      | _ => k == 3
    if ok then some (if kind = 1 then stampOf epoch 1 0 task else stamp) else none

/-- The judgement of an access to a line: loads of ranges that were sealed at step start neither read nor write stamps (R282). -/
def judgeAt (sealed : List (Word × Word)) (va : Word) (stamp : BitVec 32) (epoch kind aop task : Nat) : Option (BitVec 32) :=
  if kind = 0 ∧ sealedIn sealed (BitVec.ofNat 64 (va.toNat / 64 * 64)) 64 then some stamp
  else judge stamp epoch kind aop task

/-- A step's epoch from its count (17 R283). -/
def epochOf (count : Nat) : Nat := (count - 1) % 524287 + 1

/-- A device line by its line key. -/
def Mem.line (m : Mem) (l : Nat) : BitVec 512 := BitVec.ofNat 512 (memRead m.hbm (64 * l) 64)

/-- The memory with `n` bytes written inside a line; an error standing in the line goes. -/
def Mem.setBytes (m : Mem) (key n v : Nat) : Mem :=
  { m with hbm := memWrite m.hbm key n v, ecc := tabSet .none m.ecc (key / 64) .none }

/-- The undo list with a line's contents and stamp before the step's first write of it (17 R289; 00 R3). -/
def undoAdd (us : List Undo) (m : Mem) (line : Nat) (atomic : Bool) : List Undo :=
  if us.any (fun u => u.line == line) then us
  else us ++ [⟨line, m.line line, tabGet 0 m.stamps line, atomic⟩]

/-! ## What a marked step has written (02 R27) -/

/-- The state with a device line noted as it stands, where the step of the region is marked. -/
def State.keepLine (s : State) (rid line : Nat) : State :=
  let r := s.region rid
  match r.mark with
  | none => s
  | some m =>
    if m.lines.any (fun u => u.line == line) then s
    else s.setRegion rid { r with mark := some { m with lines := ⟨line, s.mem.line line, tabGet 0 s.mem.stamps line, false⟩ :: m.lines } }

/-- The state with host bytes noted as they stand, where the step of the region is marked. -/
def State.keepHost (s : State) (rid addr n : Nat) : State :=
  let r := s.region rid
  match r.mark with
  | none => s
  | some m =>
    s.setRegion rid { r with mark := some { m with host := (addr, natToBytes (memRead s.mem.host addr n) n) :: m.host } }

end Sys2Proof.Machine
end

