-- ==== Sys2Proof/Machine/Pick.lean ====
section
/-! DEFINITION. What a running step does next: the order of its effects and issues, and how far each tile's region tick may
go (01 R13, 02 R27, 05 R70 to R73, 21 R319). -/

namespace Sys2Proof.Machine

/-- A thing a tile does at a tick. -/
inductive Item where
  /-- an effect falls due -/
  | eff (e : Eff)
  /-- a wait of a stream ends (05 R96, R97) -/
  | waitEnd (tile : Nat) (k : SeqKind)
  /-- a stream issues its next word -/
  | issue (tile : Nat) (k : SeqKind)
  /-- a stream is still live at the last tick (05 R72) -/
  | bound (tile : Nat) (k : SeqKind)
  deriving DecidableEq, Repr

/-- The region tick at which a live stream does something, and what (01 R13, 05 R72, R73). -/
def Stream.nextItem (x : Stream) (tile : Nat) (k : SeqKind) : Option (Nat × Nat × Item) :=
  if x.live then
    if x.st == .waiting && decide (x.base < tickMax) then some (x.base, 4, .waitEnd tile k)
    else
      let n := x.issueTick
      if n < tickMax then some (n, 5, .issue tile k) else some (tickMax, 5, .bound tile k)
  else none

/-- Whether the tile does not begin its next tick. -/
def Tile.held (t : Tile) : Bool := t.hold != .none

/-- The tick at which the tile that caused a bank read receives what it reads. -/
def BankRd.land : BankRd → Option Nat
  | .ldq _ _ l | .ldb _ _ l | .ldt _ _ _ l | .ldg _ _ l | .gathp _ _ _ l | .ldx _ _ l | .formld _ _ l => some l
  | .ldgIdx _ _ _ | .send _ _ | .scatIdx _ _ _ => none

/-- The hops of a word on its way to a destination, each with the tick at which it comes to the hop's end (13 R242, R248). -/
def Eff.hops (e : Eff) (r : Region) (run : Run) : List (Nat × Nat × Nat) :=
  match e.act with
  | .word n _ _ =>
    match run.img.circ n with
    | none => []
    | some c =>
      ((route r.w run.img.seam routeFuel c.x0 c.y0 (e.tile % r.w) (e.tile / r.w)).foldl
        (fun (acc : List (Nat × Nat × Nat) × Nat) x => (acc.1 ++ [(x.1, x.2.1, acc.2 + x.2.2)], acc.2 + x.2.2))
        ([], e.due - c.latTo run.img.seam r.w e.tile)).1
  | _ => []

/-- The link between two tiles of a region. -/
def Region.linkOf (r : Region) (i j : Nat) : List Nat :=
  let pos (i : Nat) := sitePos r.place r.w r.h (i % r.w) (i / r.w)
  footLinks [pos i, pos j]

/-- Whether a tile holds for a word that comes over a link from tile `i` at tick `u` (02 R27). -/
def Region.awaitsWord (r : Region) (i j u : Nat) : Bool :=
  match r.tiles[j]? with
  | some t =>
    (match t.hold with
     | .word link => t.tick + 1 == u && r.linkOf i j == [link]
     | _ => false)
  | none => false

/-- The hops that come after one at whose end a tile holds for the word. -/
def Region.lateHops (r : Region) : List (Nat × Nat × Nat) → List (Nat × Nat)
  | [] => []
  | x :: xs => if r.awaitsWord x.1 x.2.1 x.2.2 then xs.map (·.2) else r.lateHops xs

/-- The ticks at which other tiles are due what an effect of this tile will give them, or a word that has not come to a tile on its
way. -/
def Eff.gives (e : Eff) (r : Region) (run : Run) : List (Nat × Nat) :=
  match e.act with
  | .bankRd b false =>
    match b.land with
    | some l => if e.tile = e.org.tile then [] else [(e.org.tile, l)]
    | none => []
  | .depart c _ =>
    match run.img.circ c with
    | some x => ((x.dests run.img r.w r.h).filter (fun d => d != e.tile)).map
        (fun d => (d, e.due + x.latTo run.img.seam r.w d))
    | none => []
  | .word _ _ _ => r.lateHops (e.hops r run)
  | _ => []

/-- The first region tick that no other tile begins while a tile is held: until it has begun its next tick, no fault of that
tick can be ruled out (21 R319). -/
def Region.heldBound (_r : Region) (t : Tile) : Nat := t.tick + 257

/-- The ticks that tile `i` may not begin yet: held at its own tick (02 R27, 12 R231), behind a held tile, or due something that
another tile has not given. -/
def Region.lag0 (r : Region) (run : Run) (i : Nat) : Option Nat :=
  let own := match r.tiles[i]? with
    | some t => if t.held then [t.tick + 1] else []
    | none => []
  let others := (r.tiles.filter Tile.held).map r.heldBound
  let dues := ((run.effs.flatMap (fun e => e.gives r run)).filter (fun d => d.1 == i)).map (·.2)
  leastOf (own ++ others ++ dues)

/-- Whether a bar stands, given how far each tile may go. -/
def Bar.stands (b : Bar) (lags : List (Option Nat)) : Bool :=
  match (lags[b.behind]?).getD none with
  | some l => decide (l ≤ b.upto)
  | none => false

/-- The bounds with those of the bars that stand; each round lets a bar act through one more tile. -/
def barRounds (bars : List Bar) : Nat → List (Option Nat) → List (Option Nat)
  | 0, lags => lags
  | n + 1, lags =>
    barRounds bars n (lags.zipIdx.map (fun x =>
      leastOf (x.1.toList ++ (bars.filter (fun b => b.only.isNone && b.tile == x.2 && b.stands lags)).map (·.tick))))

/-- The first region tick that each tile cannot begin yet for the sake of other tiles, or none. -/
def Region.lags (r : Region) (run : Run) : List (Option Nat) :=
  barRounds r.bars r.bars.length ((List.range r.tiles.length).map (r.lag0 run))

/-- The instruction that a stream issues next, where its word is one. -/
def Stream.peek (x : Stream) (k : SeqKind) : Option Instr :=
  let w := x.wordAt x.pc
  match decode k (tabGet 0 x.forms (pForm w).toNat) w with
  | .ok i => if x.pc ≤ 16380 then some i else none
  | .error _ => none

/-- The tick before which every tile stays: the stop tick, or the freeze point (10 R195) unless a fault below it has fixed a stop
tick (21 R323). -/
def Run.ends (run : Run) : List Nat := if run.stop.isSome then run.stop.toList else run.f.toList

/-- The first region tick that each tile cannot begin yet, or none. -/
def Region.caps (r : Region) (run : Run) : List (Option Nat) := (r.lags run).map (fun l => leastOf (l.toList ++ run.ends))

/-- Whether a bar keeps a stream alone from issuing at a tick. -/
def Region.streamBarred (r : Region) (lags : List (Option Nat)) (tile : Nat) (k : SeqKind) (u : Nat) : Bool :=
  r.bars.any (fun b => b.only == some k && b.tile == tile && decide (b.tick ≤ u) && b.stands lags)

/-- The first channel tick after the next word of a tile that lags: that word may register lines at its own tick (17 R287) or
claim later ones (06 R132). A channel does not judge that tick or a later one yet, but for the lines of a COPY or COLL that issues; its
answers come 480 ticks after the issue. DEDUCED: log 31. -/
def Region.chanCap (r : Region) (run : Run) : Option Nat :=
  leastOf (run.ends ++ (r.lags run).filterMap (fun l => l.map (· + 1)))

/-- Whether a tick lies below a bound. -/
def below (u : Nat) (cap : Option Nat) : Bool :=
  match cap with
  | some c => decide (u < c)
  | none => true

/-- The streams' next items, in tile and stream order. -/
def Region.streamItems (r : Region) (run : Run) : List (Nat × Nat × Item) :=
  let lags := r.lags run
  r.tiles.zipIdx.flatMap (fun x =>
    let cap := leastOf (((lags[x.2]?).getD none).toList ++ run.ends)
    streamKinds.filterMap (fun k =>
      match (x.1.stream k).nextItem x.2 k with
      | some it => if below it.1 cap && !r.streamBarred lags x.2 k it.1 then some it else none
      | none => none))

/-- The first of the items of least tick and phase. -/
def firstItem : List (Nat × Nat × Item) → Option (Nat × Nat × Item)
  | [] => none
  | x :: xs =>
    match firstItem xs with
    | none => some x
    | some y => if y.1 < x.1 ∨ (y.1 = x.1 ∧ y.2.1 < x.2.1) then some y else some x

/-- Whether the region's ticks go on: RUNNING, YIELDING or HALTING, and not draining (10 R188, R195). -/
def Region.active (r : Region) : Bool :=
  (r.st == .running || r.st == .yielding || r.st == .halting) && !r.draining

/-- Whether an effect is a line's claim of its channel tick. -/
def Eff.isChan (e : Eff) : Bool :=
  match e.act with
  | .chan _ _ _ _ => true
  | _ => false

/-- The device ranges that a COPY or COLL of a control stream names in its registers (12 R235; 13 R254). -/
def Stream.opRanges (x : Stream) (i : Instr) : List OpRange :=
  let range (a : BitVec 4) (n : Nat) (w : Bool) : OpRange := ⟨.va (regGet x.s a), n, w⟩
  match i with
  | .copy _ _ dk sk _ _ _ _ _ _ _ _ lreg dreg sreg =>
    let n := min (regGet x.s lreg).toNat (2 ^ 26)
    (if sk then [range sreg n false] else []) ++ (if dk then [range dreg n true] else [])
  | .coll _ _ sc _ _ count _ _ pat _ _ _ _ _ lreg dreg sreg =>
    let n := min (regGet x.s lreg).toNat (2 ^ 26)
    if sc = .die then []
    else [range sreg n false, range dreg (if pat = .allgather then count.toNat * n else n) true]
  | _ => []

/-- Whether a place of `n` bytes covers the line of an address. -/
def Loc.holdsLine (l : Loc) (n : Nat) (va : Word) : Bool :=
  match l with
  | .va a => meet a.toNat n (va.toNat / 64 * 64) 64
  | .spad _ _ => false

/-- Whether a range covers the line of an address. -/
def OpRange.covers (a : OpRange) (va : Word) : Bool := a.loc.holdsLine a.n va

/-- Whether a line's claim must be judged before an item at tick `u`: a COPY or COLL of that tick registers the line (17 R287). -/
def Region.needs (r : Region) (u : Nat) (x : Item) (e : Eff) : Bool :=
  match x, e.act with
  | .issue tile .ctl, .chan _ _ va _ =>
    decide (e.due ≤ u) &&
      (r.tiles[tile]?).any (fun t => (t.ct.peek .ctl).any (fun i => (t.ct.opRanges i).any (fun a => a.covers va)))
  | _, _ => false

/-- What the running step does next, with its tick. -/
def Region.pick (r : Region) : Option (Nat × Item) :=
  match (if r.active then r.run else none) with
  | none => none
  | some run =>
    let caps := r.caps run
    let chan := r.chanCap run
    let e := run.effs.find? (fun e => below e.due (if e.isChan then chan else (caps[e.tile]?).getD none))
    let ei := match e with
      | some e => [(e.due, e.phase, Item.eff e)]
      | none => []
    match firstItem (ei ++ r.streamItems run) with
    | none => none
    | some (u, _, x) =>
      match run.effs.find? (r.needs u x) with
      | some e => some (e.due, .eff e)
      | none => some (u, x)

/-! ## Going on beside a held tile (01 R13, 02 R27) -/

/-- The region before its tiles come to tick `u`: where a tile holds and no mark stands, the step is marked as it is; once no tile
holds and every tile has come to one tick, mark and bars are gone. -/
def Region.watch (r : Region) (run : Run) (u : Nat) : Region :=
  let held := r.tiles.any Tile.held
  if !held && r.tiles.all (fun t => decide (t.tick < u)) then { r with mark := none, bars := [] }
  else if held && r.mark.isNone then { r with mark := some { tiles := r.tiles, run := run, colls := r.colls, collCount := r.collCount, ctrs := r.ctrs, logged := r.log.length, due := run.effs } }
  else r

/-- Whether two effects are one, but for what a cancelling changes of it. -/
def Eff.same (e f : Eff) : Bool := e.org == f.org && e.due == f.due && e.tile == f.tile && e.phase == f.phase && e.sub == f.sub

/-- The effects of other tiles that are due at the tick their tile stands at, noted in the mark for the tiles that have come to
that tick. -/
def Region.noteDue (r old : Region) : Region :=
  match r.mark, r.run with
  | some m, some run =>
    let here := run.effs.filter (fun e =>
      e.tile != e.org.tile &&
        (match r.tiles[e.tile]?, old.tiles[e.tile]? with
         | some t, some o => t.tick == e.due && (decide (o.tick < t.tick) || m.due.any e.same)
         | _, _ => false))
    { r with mark := some { m with due := here } }
  | _, _ => r

/-- The tiles at region tick `u`: each tile that may, begins it; none goes back. -/
def Region.advance (r : Region) (u : Nat) : Region :=
  match r.run with
  | none => r
  | some run =>
    let caps := r.caps run
    let r := r.watch run u
    Region.noteDue { r with tiles := r.tiles.zipIdx.map (fun x =>
        let u' := match (caps[x.2]?).getD none with
          | some c => min u (c - 1)
          | none => u
        if x.1.tick < u' then { x.1 with tick := u' } else x.1) } r

/-- Those of some bars that a going back to the mark can keep, and that do not stand already. -/
def Region.newBars (r : Region) (bars : List Bar) : List Bar :=
  match r.mark with
  | none => []
  | some m => bars.filter (fun b => !r.bars.contains b && (m.tiles[b.tile]?).any (fun t => decide (t.tick < b.tick)))

/-- Does the next effect of a region's running step where it is of the wanted kind: the effect leaves the list, the tiles come
to its tick, and `f` gives what it does. A channel judges a line whatever tick the tile has come to. -/
def onEffect (s : State) (rid : Nat) (want : Act → Bool) (f : State → Eff → Out) : Out :=
  let r := s.region rid
  match r.pick with
  | some (u, .eff e) =>
    if want e.act then
      let r := (r.advance u).modRun (fun run => { run with effs := run.effs.erase e })
      if e.tile < r.tiles.length then f (s.setRegion rid r) e else .fault .notDue
    else .fault .notDue
  | _ => .fault .notDue

end Sys2Proof.Machine
end

