-- ==== Sys2Proof/Machine/Banks.lean ====
section
/-! DEFINITION. Scratchpad data at bank ticks: entries, conversions on stores, port contests, the reads and writes of every
access (06 R107, R109, R111 to R115, R117 to R121, R126, R127, R357; 21 R324). -/

namespace Sys2Proof.Machine

/-! ## Formats and conversion (06 R106, R107, R113, R115) -/

/-- The element type of a bank format; none for RAW. -/
def fmtTy (c : BitVec 4) : Option ETy := if c = 15 then none else ETy.ofCode c

/-- The element width of a bank format. -/
def fmtWidth (c : BitVec 4) : Nat := match fmtTy c with
  | some t => t.width
  | none => 8

/-- Payload bytes of an entry of a tag (06 R113). -/
def tagBytes (tag : BitVec 4) : Nat := if tag = 5 then 512 else 1024

/-- Scale bytes of a line of a bank format (06 R107). -/
def lineScales (c : BitVec 4) : Nat := if tagScaled c then 64 / fmtWidth c else 0

/-- Bytes to be written to a bank: count, payload, and the scale bytes by block, or none where sidebands become zero. -/
structure Stored where
  n : Nat
  data : Nat
  scales : Option (List Nat)

/-- Elements of type `src` converted to type `dst`: a scaled element into an unscaled type is taken times its scale
(06 R115). -/
def convElems (src dst : ETy) (rm : RMode) (draw elem scale : Nat → Nat) (n : Nat) : List Nat :=
  (List.range n).map (fun i =>
    let v := if src.isScaled && !dst.isScaled then scaledVal src (elem i) (scale (i / 8)) else src.val (elem i)
    dst.round rm (if rm = .sr then draw i else 0) v)

/-- `n` bytes of a tag with their scale bytes, as a bank of format `fmt` takes them (06 R115). -/
def storedAs (tag fmt : BitVec 4) (rm : RMode) (draw : Nat → Nat) (n data : Nat) (scale : Nat → Nat) : Stored :=
  let blocks := n * 8 / fmtWidth tag / 8
  if tag = fmt then ⟨n, data % 2 ^ (8 * n), if tagScaled tag then some ((List.range blocks).map scale) else none⟩
  else
    match fmtTy tag, fmtTy fmt with
    | some src, some dst =>
      let cnt := n * 8 / src.width
      let es := convElems src dst rm draw (fun i => elemAt data src.width i) scale cnt
      let ss := if dst.isScaled then
          some ((List.range ((cnt + 7) / 8)).map (fun b => if src.isScaled then scale b else 0x60))
        else none
      ⟨cnt * dst.width / 8, packNat dst.width es, ss⟩
    | _, _ => ⟨n, data % 2 ^ (8 * n), none⟩

/-- An entry as a bank of format `fmt` takes it. -/
def QEntry.stored (e : QEntry) (fmt : BitVec 4) : Stored :=
  storedAs e.tag fmt .rne (fun _ => 0) (tagBytes e.tag) e.pay.toNat (fun b => slice e.side (8 * b) 8)

/-- The tile with a line's sideband replaced. -/
def Tile.setSide (t : Tile) (l : Nat) (sb : BitVec 128) : Tile :=
  { t with side := memWrite t.side (16 * l) 16 sb.toNat, soft := softClear t.soft [wordKey l 8, wordKey l 9] }

/-- The tile with stored bytes written from offset `off`; sidebands of written lines take the scales of the written blocks,
and are otherwise zero, or kept where the line is written in part (06 R107, R115). -/
def Tile.put (t : Tile) (fmt : BitVec 4) (off : Nat) (st : Stored) : Tile :=
  (List.range ((st.n + 63) / 64)).foldl
    (fun t i =>
      let m := min 64 (st.n - 64 * i)
      let l := lineOf off + i
      let t := t.setBytes (off + 64 * i) m (st.data >>> (512 * i))
      let old := (t.line l).2
      let k := lineScales fmt
      let sb := match st.scales with
        | none => 0
        | some ss => packFn 8 16 (fun j =>
            if j < k then (ss[i * k + j]?).getD (if m = 64 then 0 else slice old (8 * j) 8) else 0)
      t.setSide l (BitVec.ofNat 128 sb))
    t

/-- An entry from the lines of a bank of format `fmt`: a scaled format brings its scale bytes (06 R117). -/
def entryOf (fmt : BitVec 4) (lines : List (BitVec 512 × BitVec 128)) : QEntry :=
  let k := lineScales fmt
  ⟨BitVec.ofNat 8192 (packNat 512 (lines.map (fun x => x.1.toNat))),
   BitVec.ofNat 1024 (packNat (8 * k) (lines.map (fun x => slice x.2 0 (8 * k)))), fmt⟩

/-- Lines of a load of format `fmt` (06 R117). -/
def fmtLines (fmt : BitVec 4) : Nat := if fmt = 5 then 8 else 16

/-- The entry of LDT: element j of source line i at entry element j·16 + i (06 R118). -/
def turned (fmt : BitVec 4) (lines : List Nat) : QEntry :=
  let w := fmtWidth fmt
  ⟨BitVec.ofNat 8192 (packNat w ((List.range (16 * (512 / w))).map (fun p => elemAt ((lines[p % 16]?).getD 0) w (p / 16)))),
   0, fmt⟩

/-- A line with STT's elements: entry element j·16 + i to element j of line i (06 R126). -/
def unturned (tag : BitVec 4) (pay : BitVec 8192) (i : Nat) : Nat :=
  let w := fmtWidth tag
  packFn w (512 / w) (fun j => elemAt pay.toNat w (16 * j + i))

/-- The entry of GATHP: word i is the window's word that pattern byte i names (06 R121). -/
def gathered (fmt : BitVec 4) (window pattern : Nat) : QEntry :=
  ⟨BitVec.ofNat 8192 (packFn 32 256 (fun i => elemAt window 32 (elemAt pattern 8 i))), 0, fmt⟩

/-! ## Lines as they are read (21 R324) -/

/-- The payloads of `n` lines from line `l`. -/
def Tile.lines (t : Tile) (l n : Nat) : List (BitVec 512 × BitVec 128) := (List.range n).map (fun i => t.line (l + i))

/-- `n` bytes at an offset inside lines, as a read sees them. -/
def Tile.bytes (t : Tile) (off n : Nat) : Nat :=
  let l := lineOf off
  bitsOf (packNat 512 ((t.lines l (lineOf (off + (n - 1)) - l + 1)).map (fun x => x.1.toNat))) (8 * (off % 64)) (8 * n)

/-- The lines that a bank read touches. -/
def BankRd.touches (fmt : BitVec 4) : BankRd → List Nat
  | .ldq _ off _ => (List.range (fmtLines fmt)).map (fun i => lineOf off + i)
  | .ldb _ off _ | .ldgIdx _ _ off | .ldx _ off _ | .formld _ off _ | .send _ off | .scatIdx _ off _ => [lineOf off]
  | .ldt _ off stride _ => (List.range 16).map (fun i => lineOf (off + i * stride))
  | .ldg _ offs _ => (offs.take (fmtLines fmt)).map lineOf
  | .gathp _ win pat _ => (List.range 16).map (fun i => lineOf win + i) ++ (List.range 4).map (fun i => lineOf pat + i)

/-- The 64-bit words that a bank read touches; of the sidebands those that a scaled format's scale bytes lie in (06 R107; 21 R324). -/
def BankRd.words (fmt : BitVec 4) (b : BankRd) : List Nat :=
  let side := match b with
    | .ldq _ _ _ | .ldb _ _ _ | .ldg _ _ _ => (lineScales fmt + 7) / 8
    | _ => 0
  match b with
  | .ldx _ off _ => [wordKey (lineOf off) (off % 64 / 8)]
  | .formld _ off _ => [wordKey (lineOf off) (off % 64 / 8), wordKey (lineOf off) (off % 64 / 8 + 1)]
  | b => (b.touches fmt).flatMap (fun l => (List.range (8 + side)).map (wordKey l))

/-- The port requests of a bank read, by bank (06 R112, R119, R121). DEDUCED: the twenty lines of a GATHP are two requests, so a window
and a pattern in one bank contend for its port (log 18). -/
def BankRd.banks (fmt : BitVec 4) : BankRd → List Nat
  | .ldg _ offs _ => ((offs.take (fmtLines fmt)).map bankOf).eraseDups
  | .gathp _ win pat _ => [bankOf win, bankOf pat]
  | .ldq _ off _ | .ldb _ off _ | .ldt _ off _ _ | .ldgIdx _ _ off | .ldx _ off _ | .formld _ off _ | .send _ off
  | .scatIdx _ off _ => [bankOf off]

/-- The bank whose format a read takes. -/
def BankRd.fmtBank : BankRd → Nat
  | .ldg _ offs _ => bankOf ((offs[0]?).getD 0)
  | .gathp _ win _ _ => bankOf win
  | .ldq _ off _ | .ldb _ off _ | .ldt _ off _ _ | .ldgIdx _ _ off | .ldx _ off _ | .formld _ off _ | .send _ off
  | .scatIdx _ off _ => bankOf off

/-- A soft error that a read finds in one of its words: whether one cannot be corrected. Single-bit errors are corrected in
place, each with a log entry (21 R324, R327). -/
def State.readSoft (s : State) (rid tile : Nat) (words : List Nat) : State × Bool :=
  if (((s.region rid).tiles[tile]?).map (fun t => t.soft.isEmpty)).getD true then (s, false)
  else words.foldl
    (fun (acc : State × Bool) l =>
      match (acc.1.region rid).tiles[tile]? with
      | none => acc
      | some t =>
        match tabGet .none t.soft l with
        | .none => acc
        | .single =>
          let r := (acc.1.region rid).modTile tile (fun t => { t with soft := tabSet .none t.soft l .none })
          ((acc.1.setRegion rid r).celLog 1 (r.site tile) rid, acc.2)
        | .double => (acc.1, true))
    (s, false)

/-- Whether a line of the running step is live-in and carried (10 R201). -/
def Run.carried (run : Run) (l : Nat) : Bool := run.img.carried.getLsbD l

/-- Uncorrectable errors that a tile reads at a tick, in words of its scratchpad and `others` elsewhere: class 15 cause 1 at that tick,
once for the tile, and for each error an event of the corrected-error log with STEPNO, whose outcome the end of the step gives (21 R324,
R327). What a step that has gone back has met already is the same error. DEDUCED: log 16. -/
def State.tileError (s : State) (rid tile tick : Nat) (words : List Nat) (others : Nat) : State :=
  let r := s.region rid
  let f : FaultRec := ⟨tick, tile, 5, 0, 15, 1, 0, 0, 0, 0, 0⟩
  match r.tiles[tile]?, r.run with
  | some t, some run =>
    let bad := words.filter (fun k => tabGet .none t.soft k == .double && !run.errs.contains (tile, tick, k))
    if bad.length + others = 0 then s
    else
      let r := if run.faults.contains f then r else r.raise f
      let r := r.modRun (fun run => { run with
        badCarried := run.badCarried || bad.any (fun k => run.carried (k / 10)), errs := run.errs ++ bad.map (fun k => (tile, tick, k)) })
      (List.range (bad.length + others)).foldl
        (fun s _ => s.celDetect 3 (r.site tile) rid (BitVec.ofNat 512 r.steps) none true) (s.setRegion rid r)
  | _, _ => s

/-- A tile as a read finds it: words with an uncorrectable error hold free values, from the `n`-th on (21 R324; DESIGN CHOICE: log 2). -/
def Tile.garbled (t : Tile) (n : Nat) (words : List Nat) : Tile :=
  (words.filter (fun k => tabGet .none t.soft k == .double)).zipIdx.foldl
    (fun t x =>
      let l := x.1 / 10
      let i := x.1 % 10
      let free := Config.freeLine (n + x.2)
      let put {w : Nat} (d : BitVec w) (i : Nat) : BitVec w :=
        let m : BitVec w := BitVec.ofNat w ((2 ^ 64 - 1) <<< (64 * i))
        d &&& ~~~m ||| BitVec.ofNat w (slice free 0 64 <<< (64 * i)) &&& m
      let (d, sb) := t.line l
      if i < 8 then t.setLine l (put d i) sb else t.setLine l d (put sb (i - 8)))
    t

/-! ## Ports (06 R112) -/

/-- Claims the ports of a request at tick `t`: the run with the ports taken, and the banks that were lost. Tiles are never
512 ticks apart (21 R319), so older claims no longer matter. -/
def Run.claim (run : Run) (tile t : Nat) (write : Bool) (banks : List Nat) : Run × List Nat :=
  banks.foldl
    (fun (acc : Run × List Nat) b =>
      if acc.1.ports.contains (tile, b, t, write) then (acc.1, acc.2 ++ [b])
      else ({ acc.1 with ports := (tile, b, t, write) :: acc.1.ports }, acc.2))
    ({ run with ports := run.ports.filter (fun p => decide (t ≤ p.2.2.1 + 512)) }, [])

/-! ## Reads -/

/-- What a bank read lands or does next, from tile `t` with format `fmt` of its bank: none where the format or, for LDG, an
address forbids it (06 R117 to R121, R126, R129, R357). DEDUCED: the base of LDG and SCAT counts with all its 64 bits, and a target is
judged where the index line has been read (log 18). `addr` is the address that the access named (00 R11). -/
def BankRd.take (b : BankRd) (t : Tile) (fmt : BitVec 4) (addr : Word) : Option (List (Nat × Act)) :=
  match b with
  | .ldq q off land =>
    if bankOf off = bankOf (off + (64 * fmtLines fmt - 1)) then
      some [(land, .push q (entryOf fmt (t.lines (lineOf off) (fmtLines fmt))) addr)]
    else none
  | .ldb q off land => some [(land, .push q (entryOf fmt (List.replicate (fmtLines fmt) (t.line (lineOf off)))) addr)]
  | .ldt q off stride land =>
    if tagScaled fmt then none
    else some [(land, .push q (turned fmt ((List.range 16).map (fun i => (t.line (lineOf (off + i * stride))).1.toNat))) addr)]
  | .ldgIdx q base off =>
    let ix := (t.line (lineOf off)).1.toNat
    some [(t.tick + 2, .bankRd (.ldg q ((List.range 16).map (fun i => base.toNat + elemAt ix 32 i)) (t.tick + 7)) false)]
  | .ldg q offs land => some [(land, .push q (entryOf fmt ((offs.take (fmtLines fmt)).map (fun o => t.line (lineOf o)))) addr)]
  | .gathp q win pat land =>
    if fmt = 0 ∨ fmt = 9 ∨ fmt = 15 then some [(land, .push q (gathered fmt (t.bytes win 1024) (t.bytes pat 256)) addr)] else none
  | .ldx d off land => some [(land, .reg d (BitVec.ofNat 64 (t.bytes off 8)))]
  | .formld f off land => some [(land, .form f (BitVec.ofNat 128 (t.bytes off 16)))]
  | .send _ _ => some []
  | .scatIdx base off ent =>
    let ix := (t.line (lineOf off)).1.toNat
    let offs := (List.range (fmtLines ent.tag)).map (fun i => base.toNat + elemAt ix 32 i)
    if offs.all (fun o => decide (o < spadSize) && decide (o % 64 = 0) && !t.isCopy (bankOf o)) then
      some [(t.tick + 5, .bankWr (.scat offs ent))]
    else none

/-- The addresses of LDG's lines are local, line-aligned and in timed banks of one format (06 R119). -/
def BankRd.addrOk (b : BankRd) (t : Tile) (fmt : BitVec 4) : Bool :=
  match b with
  | .ldg _ offs _ =>
    (offs.take (fmtLines fmt)).all (fun o =>
      decide (o < spadSize) && decide (o % 64 = 0) && !t.isCopy (bankOf o) && t.fmt (bankOf o) == fmt)
  | _ => true

/-- A scratchpad address of tile `j` as tile `i` of a region of width `w` names it (06 R103). -/
def spadName (w i j off : Nat) : Word :=
  let dx : Int := ((j % w : Nat) : Int) - ((i % w : Nat) : Int)
  let dy : Int := ((j / w : Nat) : Int) - ((i / w : Nat) : Int)
  0#35 ++ BitVec.ofInt 4 dy ++ BitVec.ofInt 4 dx ++ BitVec.ofNat 21 off

/-- A bank read at its bank tick: its ports are claimed, a lost request faults, a format or address that the access does
not allow faults, and what it read is on its way (06 R111, R112, R117 to R121, R357), a free value where an error that cannot be
corrected stands, which makes no fault of its own. Of a cancelled read nothing is, but for a
word of SEND that departs at this very tick (06 R102). DEDUCED: log 18. -/
def State.bankRead (s : State) (rid : Nat) (e : Eff) (b : BankRd) (drop : Bool) : State :=
  let r := s.region rid
  match r.tiles[e.tile]?, r.run with
  | some t, some run =>
    let fmt := t.fmt b.fmtBank
    let addr := match b with
      | .ldg _ offs _ => BitVec.ofNat 64 ((offs[0]?).getD 0)
      | .scatIdx base _ _ => base
      | .ldq _ off _ | .ldb _ off _ | .ldt _ off _ _ | .ldgIdx _ _ off | .gathp _ off _ _ | .ldx _ off _ | .formld _ off _
      | .send _ off => spadName r.w e.org.tile e.tile off
    let stop (s : State) (cls : Nat) (a : Word) : State :=
      s.raise rid (e.org.fault e.due cls 0 a) e.sub
    if !b.addrOk t fmt then stop s 2 addr
    else
      let (run, lost) := run.claim e.tile e.due false (b.banks fmt)
      let s := s.setRegion rid { r with run := some run }
      if !lost.isEmpty then lost.foldl (fun s _ => stop s 3 addr) s
      else
        let ls := b.words fmt
        let (s, bad) := s.readSoft rid e.tile ls
        let s := if bad then s.tileError rid e.tile e.due ls 0 else s
        let t := if bad then t.garbled s.free ls else t
        let s := if bad then { s with free := s.free + ls.length } else s
        match b.take t fmt addr with
        | none => if bad then s else stop s 2 addr
        | some acts =>
          match b with
          | .send c off =>
            match run.img.circ c with
            | some x =>
              if drop && run.departTick x e.due != e.due then s
              else
                s.setRegion rid ((s.region rid).modRun (fun run =>
                  run.offer x e.org r.w r.h e.due (t.line (lineOf off)).1))
            | none => s
          | _ =>
            if drop then s
            else s.setRegion rid ((s.region rid).modRun (fun run =>
              run.addAll (acts.map (fun a =>
                let tile := match a.2 with
                  | .bankRd _ _ | .bankWr _ => e.tile
                  | _ => e.org.tile
                mkEff e.org a.1 tile a.2 e.sub))))
  | _, _ => s

/-! ## Writes -/

/-- The banks that a bank write claims (06 R112). -/
def BankWr.banks : BankWr → List Nat
  | .scat offs _ => (offs.map bankOf).eraseDups
  | .stq off _ | .stt off _ _ | .stx off _ | .recv off _ => [bankOf off]

/-- The tile after a bank write: none where a format or the bank boundary forbids it (06 R115, R126, R357). -/
def BankWr.put (w : BankWr) (t : Tile) : Option Tile :=
  match w with
  | .stq off ent =>
    let fmt := t.fmt (bankOf off)
    let st := ent.stored fmt
    if bankOf off = bankOf (off + (st.n - 1)) then some (t.put fmt off st) else none
  | .stt off stride ent =>
    let fmt := t.fmt (bankOf off)
    if fmt = ent.tag ∨ fmt = 15 then
      some ((List.range 16).foldl
        (fun t i => t.put fmt (off + i * stride) ⟨64, unturned ent.tag ent.pay i, none⟩) t)
    else none
  | .scat offs ent =>
    if offs.all (fun o => t.fmt (bankOf o) == ent.tag || t.fmt (bankOf o) == 15) then
      some (offs.zipIdx.foldl
        (fun t x =>
          let fmt := t.fmt (bankOf x.1)
          let k := lineScales ent.tag
          t.put fmt x.1 ⟨64, (ent.pay.extractLsb' (512 * x.2) 512).toNat,
            if fmt = ent.tag && tagScaled fmt then
              some ((List.range k).map (fun j => slice ent.side (8 * (k * x.2 + j)) 8))
            else none⟩) t)
    else none
  | .stx off v => some (t.setBytes off 8 v.toNat)
  | .recv off line => some (t.setLine (lineOf off) line 0)

/-- The offset of a bank write's first byte. -/
def BankWr.off : BankWr → Nat
  | .stq off _ | .stt off _ _ | .stx off _ | .recv off _ => off
  | .scat offs _ => (offs[0]?).getD 0

/-- A bank write at its bank tick (06 R111, R112, R115, R126, R127). -/
def State.bankWrite (s : State) (rid : Nat) (e : Eff) (w : BankWr) : State :=
  let r := s.region rid
  match r.tiles[e.tile]?, r.run with
  | some t, some run =>
    let addr := spadName r.w e.org.tile e.tile w.off
    let (run, lost) := run.claim e.tile e.due true w.banks
    let s := s.setRegion rid { r with run := some run }
    if !lost.isEmpty then lost.foldl (fun s _ => s.raise rid (e.org.fault e.due 3 0 addr) e.sub) s
    else
      match w.put t with
      | none => s.raise rid (e.org.fault e.due 2 0 addr) e.sub
      | some t => s.setRegion rid ((s.region rid).setTile e.tile t)
  | _, _ => s

/-- BANK_ACCESS: the next effect is a scratchpad read or write at its bank tick (06 R111, R112). -/
def execBankAccess (rid : Nat) (s : State) : Out :=
  onEffect s rid
    (fun a => match a with
      | .bankRd _ _ | .bankWr _ => true
      | _ => false)
    (fun s e => match e.act with
      | .bankRd b drop => .next (s.bankRead rid e b drop)
      | .bankWr w => .next (s.bankWrite rid e w)
      | _ => .fault .notDue)

end Sys2Proof.Machine
end

