-- ==== Sys2Proof/Machine/Load.lean ====
section
/-! DEFINITION. The load stream's instructions and forms (06 R116 to R124, R131 to R133): their checks at issue and the
effects they put in flight. -/

namespace Sys2Proof.Machine

/-! ## Scratchpad loads -/

/-- LDQ's, LSTRM's and LDB's remote reads have the hop count in their ticks (06 R117). -/
def lineRead (c : Ctx) (q : BitVec 4) (j off hops lag : Nat) (broadcast : Bool) : Eff :=
  let land := c.t + 6 + 2 * hops + lag
  mkEff c.org (c.t + 1 + hops + lag) j
    (.bankRd (if broadcast then .ldb q.toNat off land else .ldq q.toNat off land) false) lag

/-- LDQ: sixteen lines (eight of E2M1) into a load queue (06 R117). DEDUCED: the bank of its first eight lines is judged at
issue, that of sixteen at the bank tick, where the format is known (log 18). -/
def execLdq (h : Head) (q a : BitVec 4) (s : State) : Out :=
  issue (.ldq h q a) s (fun c =>
    match c.spad (c.rd a) false 64 512 with
    | none => c.addrFault s (c.rd a)
    | some (j, off, hops) => .done (c.emit s [lineRead c q j off hops 0 false]) 1)

/-- LDB: one line into every line of an entry (06 R117). -/
def execLdb (h : Head) (q a : BitVec 4) (s : State) : Out :=
  issue (.ldb h q a) s (fun c =>
    match c.spad (c.rd a) with
    | none => c.addrFault s (c.rd a)
    | some (j, off, hops) => .done (c.emit s [lineRead c q j off hops 0 true]) 1)

/-- A stride of LDT and STT: a multiple of 64 from 64 to 2,048 (06 R117). -/
def strideOk (b : Word) : Bool := decide (b.toNat % 64 = 0) && decide (64 ≤ b.toNat) && decide (b.toNat ≤ 2048)

/-- The block of sixteen lines that LDT and STT touch: local and in one bank (06 R117, R126). -/
def Ctx.block (c : Ctx) (a b : BitVec 4) : Option Nat :=
  if strideOk (c.rd b) then
    match c.spad (c.rd a) true 64 (15 * (c.rd b).toNat + 64) with
    | some (_, off, _) => some off
    | none => none
  else none

/-- LDT: sixteen lines `s[b]` bytes apart, turned (06 R117, R118). -/
def execLdt (h : Head) (q a b : BitVec 4) (s : State) : Out :=
  issue (.ldt h q a b) s (fun c =>
    match c.block a b with
    | none => c.addrFault s (c.rd a)
    | some off => .done (c.emit s [c.eff 1 (.bankRd (.ldt q.toNat off (c.rd b).toNat (c.t + 10)) false)]) 1)

/-- LDG: an index line, then the sixteen lines it names (06 R117, R119). -/
def execLdg (h : Head) (q a b : BitVec 4) (s : State) : Out :=
  issue (.ldg h q a b) s (fun c =>
    match c.spad (c.rd b) true with
    | none => c.addrFault s (c.rd b)
    | some (_, off, _) => .done (c.emit s [c.eff 1 (.bankRd (.ldgIdx q.toNat (c.rd a) off) false)]) 1)

/-- LDX and LDXO: eight bytes to s[d] (06 R120). -/
def loadWord (c : Ctx) (s : State) (d : BitVec 4) (v : Word) : Iss :=
  match c.spad v false 8 8 with
  | none => c.addrFault s v
  | some (j, off, hops) =>
    .done (c.emit s [mkEff c.org (c.t + 1 + hops) j (.bankRd (.ldx d off (c.t + 5 + 2 * hops)) false)]) 1

/-- LDX (06 R120). -/
def execLdx (h : Head) (d a : BitVec 4) (s : State) : Out := issue (.ldx h d a) s (fun c => loadWord c s d (c.rd a))

/-- The address of LDXO and STXO: s[a][31:0] + 8·off modulo 2^32, where s[a][63:32] is zero (06 R120). -/
def offsetAddr (a : Word) (off : BitVec 10) : Option Word :=
  if slice a 32 32 = 0 then some (((a.extractLsb' 0 32) + 8 * off.signExtend 32).zeroExtend 64) else none

/-- LDXO (06 R120). -/
def execLdxo (h : Head) (d a : BitVec 4) (off : BitVec 10) (s : State) : Out :=
  issue (.ldxo h d a off) s (fun c =>
    match offsetAddr (c.rd a) off with
    | none => c.addrFault s (c.rd a)
    | some v => loadWord c s d v)

/-! ## Forms -/

/-- The address of read or pop `k` of LSTRM or SSTRM (06 R122, R128). -/
def formAddr (base : Word) (stride : Int) (k : Nat) : Word := base + BitVec.ofInt 64 (64 * stride * k)

/-- LSTRM: a run of LDQ reads, one per tick; every address is checked at issue (06 R122), as LDQ's is (log 18). -/
def execLstrm (h : HeadP) (g : BitVec 3) (q : BitVec 2) (areg : BitVec 4) (stride cnt : BitVec 16) (s : State) : Out :=
  issue (.lstrm h g q areg stride cnt) s (fun c =>
    let base := c.rd areg
    let st := stride.toInt
    match (List.range cnt.toNat).find? (fun k => (c.spad (formAddr base st k) false 64 512).isNone) with
    | some k => c.addrFault s (formAddr base st k)
    | none =>
      match c.spad base false 64 512 with
      | none => c.addrFault s base
      | some (j, off, hops) =>
        let first := lineRead c (q.zeroExtend 4) j off hops 0 false
        let rest := if cnt.toNat ≤ 1 then [] else [c.eff 1 (.lstrm q.toNat base st 1 (cnt.toNat - 1)) 1]
        .done (c.emit s (first :: rest)) 1)

/-- GATHP: 256 words of a window by a pattern (06 R121). DEDUCED: where both addresses are bad the window's is logged (log 18). -/
def execGathp (h : HeadP) (g : BitVec 3) (q : BitVec 2) (wreg preg : BitVec 4) (s : State) : Out :=
  issue (.gathp h g q wreg preg) s (fun c =>
    match c.spad (c.rd wreg) true 64 1024, c.spad (c.rd preg) true 64 256 with
    | some (_, w, _), some (_, p, _) => .done (c.emit s [c.eff 1 (.bankRd (.gathp q.toNat w p (c.t + 8)) false)]) 1
    | none, _ => c.addrFault s (c.rd wreg)
    | _, none => c.addrFault s (c.rd preg))

/-! ## Words on circuits (06 R123, 13 R249) -/

/-- The word due at a tile on circuit `n` at tick `t`. -/
def Run.wordDue (run : Run) (tile n t : Nat) : Option (BitVec 512) :=
  run.effs.findSome? (fun e =>
    match e.act with
    | .word m line _ => if e.tile = tile ∧ e.due = t ∧ m = n then some line else none
    | _ => none)

/-- The run after the word due at a tile on circuit `n` at tick `t` is taken. -/
def Run.takeWord (run : Run) (tile n t : Nat) : Run :=
  { run with
    effs := dropFirst
      (fun e => match e.act with
        | .word m _ _ => decide (e.tile = tile ∧ e.due = t ∧ m = n)
        | _ => false)
      run.effs }

/-- The state after the issuing tile takes the word due on circuit `n`. -/
def Ctx.take (c : Ctx) (s : State) (n : Nat) : State :=
  s.setRegion c.rid ((s.region c.rid).modRun (fun run => run.takeWord c.tile n c.t))

/-- RECV: the word due on circuit c to a local line (06 R123). DEDUCED: the address is looked at before the word (log 18). -/
def execRecv (h : Head) (n : BitVec 8) (a : BitVec 4) (s : State) : Out :=
  issue (.recv h n a) s (fun c =>
    match c.spad (c.rd a) true with
    | none => c.addrFault s (c.rd a)
    | some (_, off, _) =>
      match c.run.wordDue c.tile n.toNat c.t with
      | none => .stop s 3 0 (c.rd a) 0
      | some line => .done (c.emit (c.take s n.toNat) [c.eff 1 (.bankWr (.recv off line))]) 1)

/-- RECVX: bytes 0 to 7 of the word due on circuit c to s[d] (06 R123). -/
def execRecvx (h : Head) (d : BitVec 4) (n : BitVec 8) (s : State) : Out :=
  issue (.recvx h d n) s (fun c =>
    match c.run.wordDue c.tile n.toNat c.t with
    | none => .stop s 3 0 0 0
    | some line => .done (c.emit (c.take s n.toNat) [c.eff 1 (.reg d (line.extractLsb' 0 64))]) 1)

/-! ## LSTOP (06 R124) -/

/-- Whether a bank read is a load's into queue `q`. -/
def BankRd.loads (q : Nat) : BankRd → Bool
  | .ldq p _ _ | .ldb p _ _ | .ldt p _ _ _ | .ldgIdx p _ _ | .ldg p _ _ | .gathp p _ _ _ => p == q
  | .ldx _ _ _ | .formld _ _ _ | .send _ _ | .scatIdx _ _ _ => false

/-- Whether an effect belongs to a push into load queue `q`. -/
def Act.pushes (q : Nat) : Act → Bool
  | .bankRd r _ => r.loads q
  | .push p _ _ => p == q
  | .lstrm p _ _ _ _ => p == q
  | _ => false

/-- Cancels the pushes of a tile's load stream into queue `q` that have not landed by tick `t`. -/
def Run.lstop (run : Run) (tile q t : Nat) : Run :=
  { run with
    effs := run.effs.filterMap (fun e =>
      if e.org.tile == tile && e.org.k == .load && e.act.pushes q then e.cancelAfter t else some e)
    reqs := run.reqs.map (fun r =>
      match r.dest with
      | .queue p _ => if r.org.tile == tile && p == q then { r with stopped := true } else r
      | _ => r) }

/-- LSTOP (06 R124). -/
def execLstop (h : Head) (q : BitVec 4) (s : State) : Out :=
  issue (.lstop h q) s (fun c =>
    .done (s.setRegion c.rid ((s.region c.rid).modRun (fun run => run.lstop c.tile q.toNat c.t))) 1)

/-! ## Timed HBM4E access (06 R131 to R133) -/

/-- The address rules of R131: the device half, clean, a die of this module, aligned. -/
def State.vaTimed (s : State) (va : Word) (align : Nat) : Bool :=
  vaClean va && vaDevice va && decide (vaDie va / 2 = s.time.member) && decide (va.toNat % align = 0)

/-- Lines of the tile's requests that are outstanding at tick `t`. -/
def Tile.outstanding (tl : Tile) (t : Nat) : Nat :=
  ((tl.outst.filter (fun x => t < x.2)).map (·.1)).foldl (· + ·) 0

/-- Sends a request: one channel access per line, the answer at T + L (06 R131, R132). `lines` are the lines' addresses,
payload first; `op` is what each does at its channel tick. -/
def Ctx.request (c : Ctx) (s : State) (addr : Word) (lines : List Word) (npay : Nat) (dest : Dest)
    (op : Nat → ChanOp) : Iss :=
  let n := lines.length
  if 4096 < c.tl.outstanding c.t + n then .stop s 3 0 addr 0
  else
    let near (va : Word) := c.r.sameDie c.run.img.foot c.tile va
    let lat := if lines.all near then 480 else 544
    let id := c.run.nextReq
    let req : Req := { id := id, org := c.org, addr := addr, dest := dest, npay := npay, nline := n }
    let isQ := match dest with
      | .queue _ _ => true
      | _ => false
    let effs := lines.zipIdx.map (fun x =>
      c.eff ((if near x.1 then 8 else 40) + x.2) (.chan id x.2 x.1 (op x.2)) x.2)
    let s := c.onTile s (fun tl => { tl with outst := (tl.outst.filter (fun x => decide (c.t < x.2))) ++ [(n, c.t + lat)] })
    let s := s.setRegion c.rid ((s.region c.rid).modRun (fun run =>
      { run with reqs := run.reqs ++ [req], nextReq := id + 1 }))
    .done (c.emit s (effs ++ [c.eff lat (.resp id isQ)])) 1

/-- Payload lines of a tag (06 R113). -/
def tagLines (tag : BitVec 4) : Nat := if tag = 5 then 8 else 16

/-- The lines of an LDM or STM: payload, then two scale lines where the tag is scaled and b ≠ s0 (06 R131, R133). -/
def entryLines (va sva : Word) (tag b : BitVec 4) : List Word :=
  (List.range (tagLines tag)).map (fun k => va + BitVec.ofNat 64 (64 * k)) ++
    (if tagScaled tag ∧ b ≠ 0 then [sva, sva + 64] else [])

/-- The alignment rules of an LDM or STM (06 R131). -/
def State.entryAligned (s : State) (va sva : Word) (tag b : BitVec 4) : Bool :=
  s.vaTimed va (if tag = 5 then 512 else 1024) && (!(tagScaled tag && b != 0) || s.vaTimed sva 128)

/-- The address that an LDM's or STM's address fault logs: the payload's unless that is in order. -/
def Ctx.badAddr (c : Ctx) (s : State) (tag a b : BitVec 4) : Word :=
  if s.vaTimed (c.rd a) (if tag = 5 then 512 else 1024) then c.rd b else c.rd a

/-- LDM: an entry of tag T from memory (06 R133). -/
def execLdm (h : Head) (tag q a b : BitVec 4) (s : State) : Out :=
  issue (.ldm h tag q a b) s (fun c =>
    if s.entryAligned (c.rd a) (c.rd b) tag b then
      c.request s (c.rd a) (entryLines (c.rd a) (c.rd b) tag b) (tagLines tag) (.queue q.toNat tag) (fun _ => .read)
    else c.addrFault s (c.badAddr s tag a b))

/-- LDXM: eight bytes of memory to s[d] (06 R133). -/
def execLdxm (h : Head) (d a : BitVec 4) (s : State) : Out :=
  issue (.ldxm h d a) s (fun c =>
    if s.vaTimed (c.rd a) 8 then
      c.request s (c.rd a) [c.rd a] 1 (.reg d ((c.rd a).toNat % 64)) (fun _ => .read)
    else c.addrFault s (c.rd a))

end Sys2Proof.Machine
end

