-- ==== Sys2Proof/Machine/Counter.lean ====
section
/-! DEFINITION. Timeline counters: states, binding, numbers, and what the control stream does with them (12 R227 to R231). -/

namespace Sys2Proof

/-- Context codes (12 R239): copy contexts 0 and 1, die, package and fabric scope 2 to 4, release 5. -/
def CollScope.ctx : CollScope → Nat
  | .die => 2
  | .package => 3
  | .fabric => 4

end Sys2Proof

namespace Sys2Proof.Machine

/-! ## Counters -/

/-- A counter of a region. -/
def Region.ctr (r : Region) (c : Nat) : Ctr := tabGet {} r.ctrs c

/-- The region with a counter replaced. -/
def Region.setCtr (r : Region) (c : Nat) (x : Ctr) : Region := { r with ctrs := tabSet {} r.ctrs c x }

/-- A counter that leaves FREE: ERR and what is noted of the first failure clear (12 R239). -/
def Ctr.leave (x : Ctr) (st : CtrSt) : Ctr :=
  if x.st = .free then { x with st := st, err := false, first := 0, addr := 0 } else { x with st := st }

/-- Whether a claim of a context on a counter at tick `t` by tile `tile` holds: it is FREE, or BOUND to that context, and no
other tile bound it in this very tick (12 R228). A context of the region has tile 0. -/
def Region.mayBind (r : Region) (run : Run) (c ctx owner tile t : Nat) : Bool :=
  let x := r.ctr c
  match x.st with
  | .free => true
  | .signalled => false
  | .bound =>
    x.ctx == ctx && x.tile == owner &&
      !run.fronts.any (fun f => f.1 == c && f.2.1 == t && f.2.2.1 != tile && !f.2.2.2.2)

/-- The region with counter `c` bound to a context by a claim of tile `tile` at tick `t`, its FRONT as given; the change is
noted for reads of FRONT at earlier ticks. -/
def Region.bind (r : Region) (c ctx owner tile t : Nat) (front : Word) : Region :=
  let x := r.ctr c
  let r := r.modRun (fun run =>
    { run with fronts := run.fronts ++ [(c, t, tile, x.front, x.st == .bound)] })
  r.setCtr c { x.leave .bound with ctx := ctx, tile := owner, front := front }

/-- What a CNTS that has issued makes of FRONT by tick `t`, where that has not landed yet: its tile may hold (12 R231). -/
def Run.frontDue (run : Run) (c t : Nat) : Option Word :=
  (run.effs.filterMap (fun e => match e.act with
    | .front k v => if k = c ∧ e.due ≤ t then some v else none
    | _ => none)).getLast?

/-- FRONT of a counter and whether it was BOUND, as they stood at tick `t` (12 R231): what a word changes at a tick shows to other words
at the next one. DEDUCED: log 19. -/
def Region.frontAt (r : Region) (run : Run) (c t : Nat) : Word × Bool :=
  match run.fronts.find? (fun f => f.1 == c && decide (t ≤ f.2.1)) with
  | some f => f.2.2.2
  | none => let x := r.ctr c; ((run.frontDue c t).getD x.front, x.st == .bound)

/-- The operations of a counter numbered `n` or below include a failed one (12 R229). -/
def Ctr.failedTo (x : Ctr) (n : Word) : Bool := x.err && decide (x.first.toNat ≤ n.toNat)

/-- A counter after an operation numbered `n` completed, or failed at an address (12 R229). -/
def Ctr.complete (x : Ctr) (n : Word) (failed : Option Word) : Ctr :=
  let x := { x with value := if x.value.toNat < n.toNat then n else x.value }
  match failed with
  | some a => if x.err then x else { x with err := true, first := n, addr := a }
  | none => x

/-- Ends a counter wait: the tile has acquired every operation numbered `n` or below; a failed one is a copy fault at the next
tick, precise to the CNTW, with the address it failed at (12 R229, R231; 21 R321). -/
def Region.acquire (r : Region) (org : Org) (c : Nat) (n : Word) : Region :=
  let r := r.modRun (fun run => { run with acqs := run.acqs ++ [⟨org.tile, c, n, org.issue⟩] })
  if (r.ctr c).failedTo n then
    r.modRun (fun run => run.add (mkEff org (org.issue + 1) org.tile (.fault 10 0 (r.ctr c).addr)))
  else r

/-! ## CNTW, CNTS, CNTR on the control stream (12 R230, R231) -/

/-- CNTW: waits until VALUE is at least s[a]; the tile holds before its next tick (12 R231). -/
def execCntw (h : Head) (n : BitVec 8) (a : BitVec 4) (s : State) : Out :=
  issue (.cntw h n a) s (fun c =>
    let v := c.rd a
    let k := n.toNat
    let x := c.r.ctr k
    let (front, bound) := c.r.frontAt c.run k c.t
    if !bound || decide (front.toNat < v.toNat) ||
        (x.ctx == 5 && x.tile == c.tile && decide (x.value.toNat < v.toNat)) then
      .stop s 9 0 0 (n.zeroExtend 64)
    else if v.toNat ≤ x.value.toNat then .done (s.setRegion c.rid ((s.region c.rid).acquire c.org k v)) 1
    else .done (c.onTile s (fun tl => { tl with hold := .counter k v c.org })) 1)

/-- The last channel tick among the writes to memory that the tile issued before tick `t` (12 R231): those not judged yet, and those
that were judged for a word of another tile. -/
def Run.lastWrite (run : Run) (tile t : Nat) : Nat :=
  ((run.effs.filter (fun e => match e.act with
    | .chan _ _ _ .read => false
    | .chan _ _ _ _ => e.org.tile == tile && decide (e.org.issue < t)
    | _ => false)).map (·.due) ++
    (run.chans.filter (fun x => x.tile == tile && !x.read)).map (·.tick)).foldl max 0

/-- CNTS: FRONT at T + 1, VALUE once every earlier write of the tile has reached its channel (12 R231). -/
def execCnts (h : Head) (n : BitVec 8) (a : BitVec 4) (s : State) : Out :=
  issue (.cnts h n a) s (fun c =>
    let v := c.rd a
    let k := n.toNat
    let x := c.r.ctr k
    if !c.r.mayBind c.run k 5 c.tile c.tile c.t || decide (v.toNat ≤ x.front.toNat) then .stop s 9 0 0 (n.zeroExtend 64)
    else
      let s := s.setRegion c.rid ((s.region c.rid).bind k 5 c.tile c.tile c.t x.front)
      let due := max (c.t + 1) (c.run.lastWrite c.tile c.t + 1)
      .done (c.emit s [c.eff 1 (.front k v), mkEff c.org due c.tile (.release k v) 1]) 1)

/-- CNTR: FRONT at T to s[d] (12 R231). -/
def execCntr (h : Head) (d : BitVec 4) (n : BitVec 8) (s : State) : Out :=
  issue (.cntr h d n) s (fun c =>
    .done (c.emit s [c.eff 1 (.reg d (c.r.frontAt c.run n.toNat c.t).1)]) 1)

/-- CNTS_RELEASE: a release falls due: VALUE := v (12 R231). -/
def execCntsRelease (rid : Nat) (s : State) : Out :=
  onEffect s rid
    (fun a => match a with
      | .release _ _ => true
      | _ => false)
    (fun s e => match e.act with
      | .release c v =>
        let r := s.region rid
        .next (s.setRegion rid (r.setCtr c ((r.ctr c).complete v none)))
      | _ => .fault .notDue)

/-- COUNTER_HOLD_END: the counter of a held tile has reached its value: the tile goes on, and has acquired (12 R231). -/
def execCounterHoldEnd (rid tile : Nat) (s : State) : Out :=
  let r := s.region rid
  match r.tiles[tile]?, r.run with
  | some t, some _ =>
    match t.hold with
    | .counter c n org =>
      if n.toNat ≤ (r.ctr c).value.toNat then
        .next (s.setRegion rid ((r.modTile tile (fun t => { t with hold := .none })).acquire org c n))
      else .fault .notDue
    | _ => .fault .notDue
  | _, _ => .fault .notDue

end Sys2Proof.Machine
end

