-- ==== Sys2Proof/Machine/Ctl.lean ====
section
/-! DEFINITION. The control stream's words on formats, keys, drift and seals (04 R66, R67; 06 R110; 16 R275; 20 R316). -/

namespace Sys2Proof.Machine

/-- BFMT: the format of a timed bank at T + 1 (06 R110). -/
def execBfmt (h : Head) (fmt a : BitVec 4) (s : State) : Out :=
  issue (.bfmt h fmt a) s (fun c =>
    let b := (c.rd a).toNat
    if 48 ≤ b ∨ c.tl.isCopy b then c.addrFault s (c.rd a) else .done (c.emit s [c.eff 1 (.fmt b fmt)]) 1)

/-- DKEY: the draw key := s[a] at T + 1 (04 R66). -/
def execDkey (h : Head) (a : BitVec 4) (s : State) : Out :=
  issue (.dkey h a) s (fun c => .done (c.emit s [c.eff 1 (.key (c.rd a))]) 1)

/-- The DKEY form, split: a key of D10 at T + 12 (04 R67). -/
def execDkeySplit (h : HeadP) (g : BitVec 3) (ireg creg : BitVec 4) (s : State) : Out :=
  issue (.dkeySplit h g ireg creg) s (fun c =>
    .done (c.emit s [c.eff 12 (.key (d10Key c.tl.key (c.rd creg) (c.rd ireg)))]) 1)

/-- The DKEY form, set counter: DRAWCTR := s[CREG] at T + 1 (04 R67). -/
def execDkeySetCounter (h : HeadP) (g : BitVec 3) (ireg creg : BitVec 4) (s : State) : Out :=
  issue (.dkeySetCounter h g ireg creg) s (fun c => .done (c.emit s [c.eff 1 (.ctrl 0x10 (c.rd creg))]) 1)

/-! ## DRIFT (20 R316) -/

/-- Whether a word departs from or is due at a tile in the ticks `a` to `b`, as far as words have been offered. -/
def Run.wordsIn (run : Run) (r : Region) (tile a b : Nat) : Bool :=
  run.effs.any (fun e =>
    let hit (u : Nat) := decide (a ≤ u) && decide (u ≤ b)
    match e.act with
    | .word _ _ _ => e.tile == tile && hit e.due
    | .depart c _ =>
      (e.tile == tile && hit e.due) ||
        (match run.img.circ c with
         | some x => (x.dests run.img r.w r.h).contains tile && hit (e.due + x.latTo run.img.seam r.w tile)
         | none => false)
    | _ => false)

/-- Whether an effect of a stream of tile `tile` is due after tick `t`; a word that has departed to another tile is none. -/
def Run.effectDue (run : Run) (tile t : Nat) : Bool :=
  run.effs.any (fun e =>
    e.org.tile == tile && decide (t < e.due) &&
      (match e.act with
       | .word _ _ _ => e.tile == tile
       | _ => true))

/-- Whether a tile is idle for a DRIFT of `n` ticks issued at its tick (20 R316). -/
def Ctx.idle (c : Ctx) (n : Nat) : Bool :=
  !c.run.effectDue c.tile c.t && !c.run.wordsIn c.r c.tile (c.t + 1) (c.t + n) && c.tl.outstanding c.t == 0

/-- DRIFT: waits s[a] ticks; DRIFTW is set where the tile is not idle (20 R316). -/
def execDrift (h : Head) (a : BitVec 4) (s : State) : Out :=
  issue (.drift h a) s (fun c =>
    let n := (c.rd a).toNat
    if tickMax < c.t + 1 + n then .stop s 4 0 0 0
    else if n = 0 then .done s 1
    else if c.idle n then
      .wait (c.onTile s (fun tl => { tl with drift := some (c.t + 1, c.t + n, true) })) (c.t + 1 + n)
    else .wait (c.emit s [c.eff 1 .driftw]) (c.t + 1 + n))

/-! ## SEAL and UNSEAL (16 R275) -/

/-- Whether a seal effect was issued before tile `tile`'s word of tick `t`. -/
def SealEff.before (e : SealEff) (tile t : Nat) : Bool :=
  decide (e.org.issue < t) || (e.org.issue == t && decide (e.org.tile < tile))

/-- The operands of SEAL and UNSEAL are in order: a 2 MiB-aligned range of the home die (16 R275). -/
def State.sealRange (s : State) (rid : Nat) (base len : Word) : Bool :=
  s.inHome rid base && decide (base.toNat % size2M = 0) && decide (len.toNat % size2M = 0) && len != 0 &&
    decide (vaOff base + len.toNat ≤ 2 ^ 49)

/-- The state with a pending seal effect. -/
def Ctx.pend (c : Ctx) (s : State) (add : Bool) (base len : Word) : State :=
  s.setRegion c.rid ((s.region c.rid).modRun (fun run => { run with seals := run.seals ++ [⟨c.org, add, base, len⟩] }))

/-- SEAL: a pending entry of the region's seal table (16 R275). -/
def execSealR (h : Head) (a b : BitVec 4) (s : State) : Out :=
  issue (.sealR h a b) s (fun c =>
    let base := c.rd a
    let len := c.rd b
    let adds := (c.run.seals.filter (fun e => e.add && e.before c.tile c.t)).length
    if !s.sealRange c.rid base len then c.addrFault s base
    else if 64 ≤ c.r.seals.length + adds then .stop s 7 0 base 0
    else .done (c.pend s true base len) 1)

/-- Entries that match a range: those at step start and those added earlier in the step, less those removed earlier. -/
def Ctx.sealMatches (c : Ctx) (base len : Word) : Bool :=
  let hit (e : SealEff) := e.before c.tile c.t && e.base == base && e.len == len
  let have' := (c.r.seals.filter (fun x => x.1 == base && x.2 == len)).length +
    (c.run.seals.filter (fun e => e.add && hit e)).length
  decide ((c.run.seals.filter (fun e => !e.add && hit e)).length < have')

/-- UNSEAL: a pending removal of one entry (16 R275). -/
def execUnsealR (h : Head) (a b : BitVec 4) (s : State) : Out :=
  issue (.unsealR h a b) s (fun c =>
    let base := c.rd a
    let len := c.rd b
    if !s.sealRange c.rid base len then c.addrFault s base
    else if !c.sealMatches base len then .stop s 7 0 base 0
    else .done (c.pend s false base len) 1)

end Sys2Proof.Machine
end

