-- ==== Sys2Proof/Machine/Ending.lean ====
section
/-! DEFINITION. How a run ends before its END, and memory errors of device memory: undoing lines, cutting a step short,
retirement frames, lost granules, withdrawn channels (16 R279 to R281; 17 R289; 21 R322, R325). -/

namespace Sys2Proof.Machine

/-! ## The end of a step -/

/-- A tile whose step is over: its streams are EMPTY (05 R69, 11 R218). -/
def Tile.emptied (t : Tile) : Tile :=
  { t with ld := { t.ld with st := .empty }, ex := { t.ex with st := .empty }, st := { t.st with st := .empty },
           ct := { t.ct with st := .empty }, hold := .none, drift := none, armed := false, outst := [], before := [] }

/-- The lines that the running step has written since the host was last told of its writes, as they were (17 R291). -/
def Region.fresh (r : Region) : List Undo :=
  match r.run with
  | some run => run.fresh
  | none => []

/-- A region whose running step is over; what it wrote is not published to the host yet (17 R291). -/
def Region.noRun (r : Region) : Region :=
  { r with run := none, draining := false, tiles := r.tiles.map Tile.emptied, colls := [], unpub := r.unpub ++ r.fresh,
           mark := none, bars := [] }

/-- What a line held before steps wrote it of which the host has seen no publication yet (17 R291). DEDUCED: log 33. -/
def Region.unseen (r : Region) (line : Nat) : List (BitVec 512) :=
  ((r.shown.map (·.was) ++ r.unpub ++ r.fresh).filter (fun u => u.line == line)).map (·.data)

/-- A device line written whole, with its stamp. -/
def Mem.putLine (m : Mem) (line : Nat) (d : BitVec 512) (stamp : BitVec 32) : Mem :=
  { m with hbm := memWrite m.hbm (64 * line) 64 d.toNat, stamps := tabSet 0 m.stamps line stamp }

/-- Lines whose first writer was an atomic, put back to what they held before the step wrote them (17 R289). -/
def Mem.restore (m : Mem) (us : List Undo) : Mem :=
  us.foldl (fun m u => if u.atomic then m.putLine u.line u.data u.stamp else m) m

/-- A stream state of a tile holds for all four. -/
def Tile.allStreams (t : Tile) (p : StreamSt → Bool) : Bool := streamKinds.all (fun k => p (t.stream k).st)

/-- The engine operations of the running step are complete. -/
def Region.opsDone (r : Region) (run : Run) : Bool :=
  run.copies.all (fun o => o.st == .done) && r.colls.all (fun o => o.st == .done)

/-- Every stream is ENDED and nothing that one of them issued is in flight: the step writes no more (05 R71). -/
def Region.quiet (r : Region) (run : Run) : Bool :=
  run.effs.isEmpty && r.opsDone run && r.tiles.all (fun t => t.allStreams (· == .ended))

/-- The lines that a step cut short has written: each holds its prior contents; where the step writes no more, that or what it
holds, which is what the complete step writes there, line by line by free values (00 R3; DESIGN CHOICE, log 10). -/
def State.cutLines (s : State) (us : List Undo) (whole : Bool) : State :=
  us.foldl
    (fun s u =>
      let keep := whole && !Config.freeBit s.free
      { s with mem := if keep then s.mem else s.mem.putLine u.line u.data u.stamp, free := s.free + 1 })
    s

/-- The highest region tick that a tile of the region has begun. -/
def Region.maxTick (r : Region) : Nat := (r.tiles.map (·.tick)).foldl max 0

/-! ## Frames of a step's faults (16 R281; 21 R320, R325) -/

/-- A fault that does not end the run. -/
def FaultRec.machine (f : FaultRec) (cause : Nat) : Bool := f.cls == 15 && f.cause == cause

/-- An insertion that keeps a list of pairs in rising order, each once. -/
def pairInsert (x : Nat × Nat) : List (Nat × Nat) → List (Nat × Nat)
  | [] => [x]
  | y :: ys => if x = y then y :: ys else if x.1 < y.1 ∨ (x.1 = y.1 ∧ x.2 < y.2) then x :: y :: ys else y :: pairInsert x ys

/-- Lost granules as windows of 32 granule rows of one channel-set index: index, first row, bits (16 R281).
DEDUCED: log 16. -/
def lostWindows : List (Nat × Nat) → List (Nat × Nat × Nat)
  | [] => []
  | (i, q) :: xs =>
    match lostWindows xs with
    | (j, q0, bits) :: ws =>
      if i = j ∧ q0 < q + 32 ∧ bits <<< (q0 - q) < 2 ^ 32 then (i, q, bits <<< (q0 - q) ||| 1) :: ws
      else (i, q, 1) :: (j, q0, bits) :: ws
    | [] => [(i, q, 1)]

/-- The frames of one page's lost granules (16 R281; 21 R320, R325). -/
def Region.lostFrames (r : Region) (lost : List (Nat × Nat)) (f : FaultRec) : List FaultRec :=
  let gs := (lost.filter (fun x => pageOf (BitVec.ofNat 64 x.1) x.2 == f.addr)).map (fun x => (x.1 - f.addr.toNat) / 1024)
  let at' := gs.foldl (fun acc g => pairInsert (g % 2 ^ r.k, g / 2 ^ r.k) acc) []
  (lostWindows at').map (fun x =>
    { f with aux := BitVec.ofNat 8 0 ++ BitVec.ofNat 8 x.1 ++ BitVec.ofNat 16 x.2.1 ++ BitVec.ofNat 32 x.2.2 })

/-- The recorded faults of a stopped step in frame order: a page with lost granules has its frames once (R320, R325).
DEDUCED: log 16. -/
def Region.frameFaults (r : Region) (run : Run) : List FaultRec :=
  let fs := faultSort (run.faults.filter (fun f => match run.stop with
    | some st => decide (f.tick < st)
    | none => true))
  (fs.foldl
    (fun (acc : List FaultRec × List Word) f =>
      if f.machine 2 then
        if acc.2.contains f.addr then acc else (acc.1 ++ r.lostFrames run.lost f, f.addr :: acc.2)
      else (acc.1 ++ [f], acc.2))
    ([], [])).1

/-! ## Going back to a mark (02 R27) -/

/-- A counter as it goes back: one that a context of the step holds is as it was. -/
def Ctr.back (now old : Ctr) : Ctr := if now.st == .bound then old else now

/-- The region as its mark has it, with bars; the freeze point, errors of the device and what lies outside the step stay. -/
def Region.back (r : Region) (m : Mark) (bars : List Bar) : Region :=
  let now := r.run.getD m.run
  let dev := now.faults.filter (fun f => f.seq == 5 && !m.run.faults.contains f)
  let run := { m.run with
    f := now.f, lost := now.lost, badCarried := now.badCarried, errs := now.errs, faults := m.run.faults ++ dev,
    stop := leastOf (m.run.stop.toList ++ dev.map (fun f => f.tick + 256)) }
  let keys := (r.ctrs.map (·.1) ++ m.ctrs.map (·.1)).eraseDups
  { r with
    tiles := m.tiles, run := some run, log := r.log.take m.logged ++ (r.log.drop m.logged).filter (·.fault.isSome), colls := m.colls, collCount := m.collCount, bars := r.bars ++ bars,
    ctrs := keys.foldl (fun t k => tabSet {} t k ((tabGet {} r.ctrs k).back (tabGet {} m.ctrs k))) r.ctrs,
    mark := some { m with run := run, lines := [], host := [], looks := [], due := run.effs, tried := [], last := none, late := [] } }

/-- The memory as it was when the step was marked. -/
def Mem.back (mem : Mem) (m : Mark) : Mem :=
  let mem := m.lines.foldl (fun mem u => mem.putLine u.line u.data u.stamp) mem
  { mem with host := m.host.foldl (fun h x => memWrite h x.1 x.2.length (bytesToNat x.2)) mem.host }

/-- The state with a region's marked step gone back to its mark, holding in turn by `bars`. -/
def State.goBack (s : State) (rid : Nat) (bars : List Bar) : State :=
  let r := s.region rid
  match r.mark with
  | none => s
  | some m => { s.setRegion rid (r.back m bars) with mem := s.mem.back m }

/-- A step in progress cut short by RELEASE or a machine fault of causes 3 and 4 (00 R3). What a tile did beside a held one goes
back first. -/
def State.cutStep (s : State) (rid : Nat) : State :=
  let s := s.goBack rid []
  let r := s.region rid
  match r.run with
  | none => s
  | some run => ((s.celResolve rid 0).setRegion rid r.noRun).cutLines run.undo (r.quiet run)

/-- A machine fault of cause 3 or 4: the run ends at once; the region is released, its queued STARTs discarded; an earlier
conductor frame of the run stands last in the window (21 R320, R322). -/
def State.machineFault (s : State) (rid cause : Nat) : State :=
  let r := s.region rid
  match r.st with
  | .free | .releasing => s
  | _ =>
    let old := match r.run with
      | some run => r.frameFaults run
      | none => []
    let f : FaultRec := ⟨r.maxTick, 0xFF, 5, 0, 15, cause, 0, 0, 0, 0, 0⟩
    let fs := faultSort (old ++ [f])
    let s := (s.cutStep rid).dropRun rid
    let r := (s.region rid).rewriteFrames (fs ++ r.condFault.toList)
    (s.setRegion rid { r with st := .releasing, startQ := [], condFault := none }).postFaults rid fs

/-! ## Retirement (16 R279 to R281) -/

/-- Spare frames of a channel. -/
def spareFrames : Nat := 32

/-- The location code of a channel in the corrected-error log (21 R327). -/
def chanLoc (ch : Nat) : Nat := 0x100 + ch

/-- The channel of a memory key. -/
def keyChan (key : Nat) : Nat := key / 2 ^ 31

/-- The 64 KiB block of a memory key, in its channel. -/
def keyBlock (key : Nat) : Nat := key % 2 ^ 31 / 65536

/-- The granule of a memory key zero-filled, its stamps 0, no error standing in it (16 R280, 17 R288). -/
def Mem.loseGranule (m : Mem) (key : Nat) : Mem :=
  let g := key / 1024 * 1024
  let ls := (List.range 16).map (fun i => g / 64 + i)
  { m with hbm := memWrite m.hbm g 1024 0, stamps := ls.foldl (fun t l => tabSet 0 t l 0) m.stamps,
           ecc := ls.foldl (fun t l => tabSet .none t l .none) m.ecc }

/-- The retirement record of a block. -/
def Mem.retireOf (m : Mem) (ch blk : Nat) : Option Retire := m.retire.find? (fun x => x.chan == ch && x.blk == blk)

/-- The region that owns a channel. -/
def State.chanOwner (s : State) (ch : Nat) : Option Nat :=
  (List.range 32).find? (fun rid => (s.region rid).cs.contains ch && (s.region rid).st != .free)

/-- A channel withdrawn: logged, and the run of the region that owns it ends (16 R280, 21 R322). -/
def State.withdraw (s : State) (ch : Nat) : State :=
  if s.mem.withdrawn.contains ch then s
  else
    let s := { s with mem := { s.mem with withdrawn := s.mem.withdrawn ++ [ch] } }
    let owner := s.chanOwner ch
    let s := s.celLog 10 (chanLoc ch) (owner.getD 0xFF)
    match owner with
    | some rid => s.machineFault rid 4
    | none => s

/-- A block starts COPYING into a spare, where it is IN USE; without a spare the channel is withdrawn (16 R279, R280). -/
def State.retire (s : State) (ch blk : Nat) : State :=
  match s.mem.retireOf ch blk with
  | some _ => s
  | none =>
    let used := tabGet 0 s.mem.spares ch
    if spareFrames ≤ used then s.withdraw ch
    else
      { s with mem := { s.mem with retire := s.mem.retire ++ [⟨ch, blk, used, false, []⟩],
                                   spares := tabSet 0 s.mem.spares ch (used + 1) } }

/-- The other copy of an address on a REPLICATED page: the replica of a home granule, or the home granule of a replica (16 R278). -/
def State.otherCopy (s : State) (rid key : Nat) (va : Word) : Option Nat :=
  let r := s.region rid
  let page (p : PageRec) : Bool :=
    p.rid == rid && p.replicated && decide (p.page.toNat ≤ va.toNat) && decide (va.toNat < p.page.toNat + p.size)
  match s.mem.pages.find? page with
  | none => none
  | some p =>
    match entryLeaf p.leaf p.size with
    | none => none
    | some l =>
      let at' (sd : Nat) := hbmKey (r.placeRepl (vaOff va) l.size (l.frame * 8192) (l.rframe * 8192) sd)
      if at' 0 = key then some (at' 1) else if at' 1 = key then some (at' 0) else none

/-- The other copy of an address on a REPLICATED page, where no uncorrectable error stands in its granule (16 R280). -/
def State.goodCopy (s : State) (rid key : Nat) (va : Word) : Option Nat :=
  match s.otherCopy rid key va with
  | some k => if (List.range 16).all (fun i => tabGet Soft.none s.mem.ecc (k / 1024 * 16 + i) != Soft.double) then some k else none
  | none => none

/-- An uncorrectable error met at a key, behind an address of region `rid` on a page of `size` bytes: the block starts its
retirement; the other copy of a REPLICATED page repairs the granule, or it is lost. The result says whether the line can be read
(16 R280). DEDUCED: log 21. -/
def State.loseLine (s : State) (rid size key : Nat) (va : Word) : State × Bool :=
  let ch := keyChan key
  let gran := va.toNat % size / 1024
  let other := s.goodCopy rid key va
  let detail (rep : Bool) : BitVec 512 := 0#415 ++ BitVec.ofBool rep ++ BitVec.ofNat 32 gran ++ pageOf va size
  let s := s.retire ch (keyBlock key)
  match other with
  | some k =>
    let v := memRead s.mem.hbm (k / 1024 * 1024) 1024
    let m := s.mem.loseGranule key
    let m := { m with hbm := memWrite m.hbm (key / 1024 * 1024) 1024 v, stamps := s.mem.stamps }
    (({ s with mem := m }).celLog 4 (chanLoc ch) rid (detail true), true)
  | none =>
    let m := s.mem.loseGranule key
    let m := { m with retire := m.retire.map (fun x =>
      if x.chan == ch && x.blk == keyBlock key then { x with lost := x.lost ++ [key % 65536 / 1024] } else x) }
    (({ s with mem := m }).celLog 4 (chanLoc ch) rid (detail false), false)

/-- The page of an address belongs to the running step's footprint. -/
def Region.touches (r : Region) (va : Word) : Bool :=
  match r.run with
  | some run => (tlbFind run.img.tlb va).isSome
  | none => false

/-- The fault of a page that has lost granules. -/
def lostFault (tick : Nat) (page : Word) : FaultRec := ⟨tick, 0xFF, 5, 0, 15, 2, 0, 0, page, 0, 0⟩

/-- The owner of pages that have lost granules, each granule given by its address and its page's size, receives its fault: where the
running step touches the page, the step ends by it; else its frames and events stand at once and nothing ends (16 R281; 21 R325).
DEDUCED: log 16. -/
def State.reportLost (s : State) (rid tick : Nat) (gs : List (Nat × Nat)) : State :=
  let page (x : Nat × Nat) : Word := pageOf (BitVec.ofNat 64 x.1) x.2
  let (mine, others) := gs.partition (fun x => (s.region rid).touches (BitVec.ofNat 64 x.1))
  let s := mine.foldl
    (fun s x =>
      let r := (s.region rid).modRun (fun run => { run with lost := run.lost ++ [x] })
      s.setRegion rid (r.raise (lostFault tick (page x))))
    s
  if others.isEmpty then s
  else
    let r := s.region rid
    let fs := (others.map page).eraseDups.flatMap (fun p => r.lostFrames others (lostFault 0 p))
    (s.setRegion rid (r.rewriteFrames (fs ++ r.condFault.toList))).postFaults rid fs

/-- A line read by an access: corrected in place where one bit is wrong, and whether it can be read; a granule that is lost is reported
at the tick of the access (16 R280, R281; 21 R327). -/
def State.eccRead (s : State) (rid tick size key : Nat) (va : Word) : State × Bool :=
  match tabGet .none s.mem.ecc (key / 64) with
  | .none => (s, true)
  | .single =>
    (({ s with mem := { s.mem with ecc := tabSet .none s.mem.ecc (key / 64) .none } }).celLog 2 (chanLoc (keyChan key)) rid,
      true)
  | .double =>
    match s.loseLine rid size key va with
    | (s, true) => (s, true)
    | (s, false) => (s.reportLost rid tick [(va.toNat / 1024 * 1024, size)], false)

/-- The address of a device line in the 2 MiB of a region's space from `piece` on, in the plain interleave, with the size of its page:
the inverse of R265. -/
def State.lineVa (s : State) (rid : Nat) (piece : Word) (line : Nat) : Option (Word × Nat) :=
  let r := s.region rid
  let l := 64 * line % 2 ^ 31
  match s.leafOf rid piece, r.cs.findIdx? (· == keyChan (64 * line)) with
  | some f, some i =>
    if f.frame * 8192 ≤ l ∧ l < f.frame * 8192 + f.size / 2 ^ r.k then
      let q := (l - f.frame * 8192) / 1024
      let va := (pageOf piece f.size).toNat + (q * 2 ^ r.k + i) * 1024 + l % 1024
      if va / size2M = piece.toNat / size2M then some (BitVec.ofNat 64 va, f.size) else none
    else none
  | _, _ => none

/-- The errors that stand in lines of a range of a region's space: address, size of the page, key of each. -/
def State.errorsIn (s : State) (rid : Nat) (va : Word) (n : Nat) : List (Word × Nat × Nat) :=
  if s.mem.ecc.isEmpty || n = 0 then []
  else
    let a := va.toNat / size2M
    (List.range ((va.toNat + (n - 1)) / size2M - a + 1)).flatMap (fun i =>
      s.mem.ecc.filterMap (fun x =>
        match s.lineVa rid (BitVec.ofNat 64 ((a + i) * size2M)) x.1 with
        | some (v, size) =>
          if va.toNat / 64 ≤ v.toNat / 64 ∧ v.toNat / 64 ≤ (va.toNat + (n - 1)) / 64 then some (v, size, 64 * x.1) else none
        | none => none))

/-- The lines of a range of a region's space read, by the region manager or a conductor: whether all of them can be (16 R280). -/
def State.eccRange (s : State) (rid : Nat) (va : Word) (n : Nat) : State × Bool :=
  (s.errorsIn rid va n).foldl
    (fun acc x =>
      let (s, ok) := acc.1.eccRead rid (acc.1.region rid).maxTick x.2.1 x.2.2 x.1
      (s, acc.2 && ok))
    (s, true)

/-- Several ranges read so. -/
def State.eccRanges (s : State) (rid : Nat) (xs : List (Word × Nat)) : State × Bool :=
  xs.foldl (fun acc x => let y := acc.1.eccRange rid x.1 x.2; (y.1, acc.2 && y.2)) (s, true)

/-- An uncorrectable error that no replica repairs stands in one of several ranges. -/
def State.eccBad (s : State) (rid : Nat) (xs : List (Word × Nat)) : Bool :=
  !s.mem.ecc.isEmpty && xs.any (fun x => (s.errorsIn rid x.1 x.2).any (fun y =>
    tabGet .none s.mem.ecc (y.2.2 / 64) == .double && (s.goodCopy rid y.2.2 y.1).isNone))

end Sys2Proof.Machine
end

