-- ==== Sys2Proof/Machine/Engine.lean ====
section
/-! DEFINITION. The copy engine and the collective engines: the COPY and COLL forms, and the start and completion of their
operations (12 R233 to R238; 13 R251 to R257; 17 R287). -/

namespace Sys2Proof.Machine

/-! ## Ranges and conflicts (12 R237) -/

/-- Whether two ranges conflict. -/
def OpRange.conflicts (a b : OpRange) : Bool :=
  (a.w || b.w) &&
    (match a.loc, b.loc with
     | .spad i o, .spad j p => i == j && meet o a.n p b.n
     | .va x, .va y => meet x.toNat a.n y.toNat b.n
     | _, _ => false)

/-- An operation as a later one sees it: its context, its counter and number, its ranges. -/
structure OpRec where
  ctx : Nat
  ctr : Option Nat
  num : Word
  ranges : List OpRange

/-- The context of a copy operation, as a number that no engine scope has. -/
def copyCtx (tile ctx : Nat) : Nat := 16 + 2 * tile + ctx

/-- A copy operation's record. -/
def CopyOp.rec' (o : CopyOp) : OpRec := ⟨copyCtx o.tile o.ctx, o.ctr, o.num, [⟨o.src, o.len, false⟩, ⟨o.dst, o.dlen, true⟩]⟩

/-- Whether a participant's source is read (13 R255). -/
def Contrib.reads (p : Contrib) : Bool := p.pat != .broadcast || p.rank == p.root.toNat

/-- Whether a participant's destination is written (13 R255). -/
def Contrib.writes (p : Contrib) : Bool := p.pat != .reduce || p.rank == p.root.toNat

/-- Bytes of a participant's destination (13 R254). -/
def Contrib.dlen (p : Contrib) : Nat := if p.pat = .allgather then p.count.toNat * p.len else p.len

/-- The ranges of a participant. -/
def Contrib.ranges (p : Contrib) : List OpRange :=
  (if p.reads then [⟨p.src, p.len, false⟩] else []) ++ (if p.writes then [⟨p.dst, p.dlen, true⟩] else [])

/-- The operations that the running step has issued (12 R237). -/
def Region.opRecs (r : Region) (run : Run) : List OpRec :=
  run.copies.map CopyOp.rec' ++
    r.colls.flatMap (fun o => o.parts.map (fun p => ⟨o.scope.ctx, some o.ctr, o.num, p.ranges⟩))

/-- Whether an operation of context `ctx` by the issuing tile, with its ranges and its wait, conflicts with an earlier one that
nothing orders before it (12 R237). -/
def Ctx.opConflict (c : Ctx) (ctx : Nat) (wait : Option (Nat × Word)) (rs : List OpRange) : Bool :=
  (c.r.opRecs c.run).any (fun o =>
    rs.any (fun a => o.ranges.any (fun b => a.conflicts b)) &&
      !(o.ctx == ctx ||
        (match o.ctr with
         | none => false
         | some k =>
           (match wait with
            | some (w, v) => w == k && decide (o.num.toNat ≤ v.toNat)
            | none => false) ||
             c.run.acqs.any (fun q => q.tile == c.tile && q.c == k && decide (o.num.toNat ≤ q.n.toNat)))))

/-! ## Places (12 R235; 13 R254) -/

/-- `n` bytes of copy banks at a scratchpad address: the tile and offset, where every line lies in a copy bank. -/
def Ctx.copySpan (c : Ctx) (v : Word) (localOnly : Bool) (n : Nat) : Option (Nat × Nat) :=
  match c.r.spad c.run.img.seam c.tile v localOnly 64 64 true with
  | none => none
  | some (j, off, _) =>
    match c.r.tiles[j]? with
    | none => none
    | some t =>
      let b0 := bankOf off
      if off + n ≤ spadSize ∧ (List.range (bankOf (off + (n - 1)) - b0 + 1)).all (fun i => t.isCopy (b0 + i)) then some (j, off)
      else none

/-- The one format of the banks that a span touches. -/
def Region.spanFmt (r : Region) (j off n : Nat) : Option (BitVec 4) :=
  match r.tiles[j]? with
  | none => none
  | some t =>
    let f := t.fmt (bankOf off)
    if (List.range (bankOf (off + (n - 1)) - bankOf off + 1)).all (fun i => t.fmt (bankOf off + i) == f) then some f else none

/-- A VA side of `n` bytes (12 R235): 64-aligned, clean, and of the device half inside the module and the footprint. -/
def Ctx.vaSide (c : Ctx) (s : State) (v : Word) (n : Nat) (write : Bool) : Bool :=
  vaClean v && decide (v.toNat % 64 = 0) && decide (v.toNat + n ≤ 2 ^ 57) &&
    (!vaDevice v || (decide (vaDie v / 2 = s.time.member) && covered c.run.img.foot v n write))

/-- Whether a length is a multiple of 64 from 64 to 2^26. -/
def lenOk (l : Word) : Bool := decide (l.toNat % 64 = 0) && decide (64 ≤ l.toNat) && decide (l.toNat ≤ 2 ^ 26)

/-- The addresses of the device lines of a range; none of a host range. -/
def devLines (l : Loc) (n : Nat) : List Word :=
  match l with
  | .va v => if vaDevice v then (List.range ((n + 63) / 64)).map (fun i => v + BitVec.ofNat 64 (64 * i)) else []
  | .spad _ _ => []

/-- Registers lines as accesses of a kind by a tile (17 R285, R287), or answers the channel-set index of the first that fails. -/
def State.register (s : State) (rid tile kind : Nat) (lines : List Word) : Except Nat State :=
  let r := s.region rid
  match r.run with
  | none => .error 0
  | some run =>
    lines.foldl
      (fun (acc : Except Nat State) va =>
        let i := r.lineIdx run.img.foot tile va
        match acc, tlbFind run.img.tlb va with
        | .error n, _ => .error n
        | .ok s, some e =>
          let l := r.keyThrough e tile va / 64
          match judgeAt run.sealed0 va (tabGet 0 s.mem.stamps l) run.epoch kind 0 tile with
          | some st =>
            let s := s.keepLine rid l
            .ok { s with mem := { s.mem with stamps := tabSet 0 s.mem.stamps l st } }
          | none => .error i
        | .ok _, none => .error i)
      (.ok s)

/-! ## COPY (12 R234 to R236) -/

/-- Bytes that a copy of `n` bytes between two bank formats writes (12 R236). -/
def copyBytes (fs fd : BitVec 4) (n : Nat) : Nat :=
  match fmtTy fs, fmtTy fd with
  | some a, some b => n * 8 / a.width * b.width / 8
  | _, _ => n

/-- The places of a copy and its destination length, or the address that faults (12 R235, R236). DEDUCED: log 19: one format a
side is asked of bank-to-bank copies alone. -/
def Ctx.copyPlaces (c : Ctx) (s : State) (sk dk : Bool) (src dst : Word) (n : Nat) : Except Word (Loc × Loc × Nat) :=
  if sk then
    if !c.vaSide s src n false then .error src
    else if dk then (if c.vaSide s dst n true then .ok (.va src, .va dst, n) else .error dst)
    else match c.copySpan dst false n with
      | some (j, o) => .ok (.va src, .spad j o, n)
      | none => .error dst
  else
    match c.copySpan src false n with
    | none => .error src
    | some (i, o) =>
      if dk then (if c.vaSide s dst n true then .ok (.spad i o, .va dst, n) else .error dst)
      else
        match c.r.spanFmt i o n, c.copySpan dst false 64 with
        | none, _ => .error src
        | some _, none => .error dst
        | some fs, some (j, p) =>
          let fd := match c.r.tiles[j]? with
            | some t => t.fmt (bankOf p)
            | none => 15
          let m := copyBytes fs fd n
          let crosses := fs != fd && decide (bankOf p ≠ bankOf (p + (m - 1)))
          if !crosses && (c.copySpan dst false m).isSome && c.r.spanFmt j p m == some fd then .ok (.spad i o, .spad j p, m)
          else .error dst

/-- A destination in a range that was sealed when the step started (16 R277). -/
def Ctx.sealTrap (c : Ctx) (l : Loc) (n : Nat) : Bool :=
  match l with
  | .va v => vaDevice v && sealedIn c.run.sealed0 v n
  | .spad _ _ => false

/-- Operations of a copy context that have not completed. -/
def Run.copyOpen (run : Run) (tile ctx : Nat) : List CopyOp :=
  run.copies.filter (fun o => o.tile == tile && o.ctx == ctx && o.st != .done)

/-- COPY (12 R234, R235; 17 R287). -/
def execCopy (h : HeadP) (g : BitVec 3) (dk sk sr ctx : Bool) (wreg : BitVec 4) (wen : Bool) (wctr : BitVec 6)
    (cen : Bool) (ctr : BitVec 6) (nreg lreg dreg sreg : BitVec 4) (s : State) : Out :=
  issue (.copy h g dk sk sr ctx wreg wen wctr cen ctr nreg lreg dreg sreg) s (fun c =>
    let src := c.rd sreg
    let dst := c.rd dreg
    let len := c.rd lreg
    let x := if ctx then 1 else 0
    let k := ctr.toNat
    let wait := if wen then some (wctr.toNat, c.rd wreg) else none
    if !lenOk len then c.addrFault s src
    else
      match c.copyPlaces s sk dk src dst len.toNat with
      | .error a => c.addrFault s a
      | .ok (ls, ld, dlen) =>
        if c.sealTrap ld dlen then .stop s 6 0 dst 0
        else if c.opConflict (copyCtx c.tile x) wait [⟨ls, len.toNat, false⟩] then .stop s 3 0 src 0
        else if c.opConflict (copyCtx c.tile x) wait [⟨ld, dlen, true⟩] then .stop s 3 0 dst 0
        else if cen && (!c.r.mayBind c.run k x c.tile c.tile c.t || (c.r.ctr k).front == BitVec.allOnes 64) then
          .stop s 9 0 0 (ctr.zeroExtend 64)
        else
          match s.register c.rid c.tile 0 (devLines ls len.toNat) with
          | .error i => .stop s 5 3 src 0 i
          | .ok s1 =>
            match s1.register c.rid c.tile 1 (devLines ld dlen) with
            | .error i => .stop s 5 3 dst 0 i
            | .ok s2 =>
              let num := if cen then (c.r.ctr k).front + 1 else 0
              let r := s2.region c.rid
              let r := if cen then r.bind k x c.tile c.tile c.t num else r
              let full := decide (16 ≤ (c.run.copyOpen c.tile x).length)
              let op : CopyOp :=
                { tile := c.tile, ctx := x, issue := c.t, src := ls, dst := ld, len := len.toNat, dlen := dlen, sr := sr,
                  key := c.tl.key, num := num, ctr := if cen then some k else none, wait := wait, st := .waiting,
                  hostSrc := [], hostDst := [], refused := none }
              let r := r.modRun (fun run => { run with copies := run.copies ++ [op] })
              let r := if full then r.modTile c.tile (fun t => { t with hold := .context x c.org }) else r
              .done (c.emit (s2.setRegion c.rid r) [c.eff 1 (.reg nreg num)]) 1)

/-! ## Moving bytes -/

/-- Bytes of a page of the host's translation (PRESUMED: log 34). -/
def hostPage : Nat := 4096

/-- The pages of the host that `n` bytes of its half touch. -/
def hostPages (v : Word) (n : Nat) : Nat := (v.toNat % hostPage + (n - 1)) / hostPage + 1

/-- The host address of byte `i` of a range of the host half, by the answers for its pages (16 R264). -/
def hostAt (v : Word) (pages : List Word) (i : Nat) : Option Nat :=
  let o := v.toNat % hostPage + i
  (pages[o / hostPage]?).map (fun p => p.toNat + o % hostPage)

/-- The lines of a place, for accesses of tile `tile`, those of the device half that are lost with their addresses as zero
(12 R229, 16 R280). -/
def State.readLoc (s : State) (rid tile : Nat) (l : Loc) (host : List Word) (n : Nat) : State × Nat × List (Nat × Word) :=
  let r := s.region rid
  match l with
  | .spad j off =>
    let side := ((r.tiles[j]?).map (fun t => (lineScales (t.fmt (bankOf off)) + 7) / 8)).getD 0
    let ws := (List.range ((n + 63) / 64)).flatMap (fun i => (List.range (8 + side)).map (wordKey (lineOf off + i)))
    let (s, bad) := s.readSoft rid j ws
    let s := if bad then s.tileError rid j r.maxTick ws 0 else s
    let read (t : Tile) : Nat := (if bad then t.garbled s.free ws else t).bytes off n
    (if bad then { s with free := s.free + ws.length } else s, (((s.region rid).tiles[j]?).map read).getD 0, [])
  | .va v =>
    if !vaDevice v then
      let line (i : Nat) : Nat := ((hostAt v host (64 * i)).map (fun a => memRead s.mem.host a 64)).getD 0
      (s, packNat 512 ((List.range (n / 64)).map line), [])
    else
      match r.run with
      | none => (s, 0, [(0, v)])
      | some run =>
        ((devLines l n).zipIdx).foldl
          (fun (acc : State × Nat × List (Nat × Word)) x =>
            match tlbFind run.img.tlb x.1 with
            | some e =>
              let key := r.keyThrough e tile x.1
              let (s, ok) := acc.1.eccRead rid r.maxTick e.size key x.1
              if ok then (s, acc.2.1 ||| ((s.mem.line (key / 64)).toNat <<< (512 * x.2)), acc.2.2)
              else (s, acc.2.1, acc.2.2 ++ [(x.2, x.1)])
            | none => (acc.1, acc.2.1, acc.2.2 ++ [(x.2, x.1)]))
          (s, 0, [])

/-- The state after lines are written to a device or host range, from line `at'` of it on. -/
def State.writeVaLoc (s : State) (rid tile : Nat) (v : Word) (host : List Word) (at' n data : Nat) : State :=
  let r := s.region rid
  if !vaDevice v then
    (List.range ((n + 63) / 64)).foldl
      (fun s i =>
        match hostAt v host (64 * (at' + i)) with
        | some a =>
          let m := min 64 (n - 64 * i)
          let s := s.keepHost rid a m
          { s with mem := { s.mem with host := memWrite s.mem.host a m (data >>> (512 * i)) } }
        | none => s)
      s
  else
    match r.run with
    | none => s
    | some run =>
      ((devLines (.va (v + BitVec.ofNat 64 (64 * at'))) n).zipIdx).foldl
        (fun s x =>
          match tlbFind run.img.tlb x.1 with
          | none => s
          | some e =>
            let key := r.keyThrough e tile x.1
            let m := min 64 (n - 64 * x.2)
            let s := s.keepLine rid (key / 64)
            let r := (s.region rid).modRun (fun run =>
              { run with undo := undoAdd run.undo s.mem (key / 64) false, fresh := undoAdd run.fresh s.mem (key / 64) false })
            { s.setRegion rid r with mem := s.mem.setBytes key m (data >>> (512 * x.2)) })
        s

/-- The tile after payload bytes are written to lines that keep their sidebands (13 R255). -/
def Tile.putBytes (t : Tile) (off n data : Nat) : Tile :=
  (List.range ((n + 63) / 64)).foldl (fun t i => t.setBytes (off + 64 * i) (min 64 (n - 64 * i)) (data >>> (512 * i))) t

/-- The state after a copy moves its bytes, `data` being its source's (12 R236). -/
def State.copyMove (s : State) (rid : Nat) (o : CopyOp) (data : Nat) : State :=
  let r := s.region rid
  match o.dst with
  | .va v => s.writeVaLoc rid o.tile v o.hostDst 0 o.len data
  | .spad j off =>
    match r.tiles[j]? with
    | none => s
    | some t =>
      let fd := t.fmt (bankOf off)
      let t' := match o.src with
        | .va _ => t.put fd off ⟨o.len, data, none⟩
        | .spad i p =>
          match r.tiles[i]? with
          | none => t
          | some u =>
            let fs := u.fmt (bankOf p)
            if fs = fd then
              (List.range (o.len / 64)).foldl
                (fun t k => let (d, sb) := u.line (lineOf p + k); t.setLine (lineOf off + k) d sb) t
            else
              let k := lineScales fs
              let scale (b : Nat) := slice (u.line (lineOf p + b / k)).2 (8 * (b % k)) 8
              let ctr : Word := BitVec.ofNat 64 (2 ^ 63 + 2 ^ 62 * o.ctx) + o.num
              t.put fd off (storedAs fs fd (if o.sr then .sr else .rne)
                (fun e => drawWord o.key ctr (BitVec.ofNat 64 e)) o.len data scale)
      s.setRegion rid (r.setTile j t')

/-- The destination of a failed copy: each line holds its prior contents or a value that no rule gives, by free values (12 R229;
DESIGN CHOICE, log 32). A copy that can fail has whole lines on both sides. -/
def State.copySpoil (s : State) (rid : Nat) (o : CopyOp) : State :=
  (List.range (o.dlen / 64)).foldl
    (fun s i =>
      let n := s.free
      let s' := if Config.freeBit n then s
        else match o.dst with
          | .va a => s.writeVaLoc rid o.tile a o.hostDst i 64 (Config.freeLine n).toNat
          | .spad j off => s.setRegion rid ((s.region rid).modTile j (fun t =>
              t.setLine (lineOf off + i) (Config.freeLine n) ((Config.freeLine (n + 1)).setWidth 128)))
      { s' with free := n + 2 })
    s

/-! ## Start and completion of copies (12 R229, R233, R235) -/

/-- Engines work while the region runs; they pause when it is frozen (10 R196, 12 R231). -/
def Region.enginesRun (r : Region) : Bool := r.run.isSome && r.active

/-- Whether a wait on a counter holds. -/
def Region.waitMet (r : Region) (w : Option (Nat × Word)) : Bool :=
  match w with
  | none => true
  | some (c, v) => decide (v.toNat ≤ (r.ctr c).value.toNat)

/-- A place of the host half. -/
def Loc.isHost : Loc → Bool
  | .va v => !vaDevice v
  | .spad _ _ => false

/-- Page `i` of a host side still needs an answer: its address. -/
def Loc.nextPage (l : Loc) (n : Nat) (answers : List Word) : Option Word :=
  match l with
  | .va v =>
    if !vaDevice v && decide (answers.length < hostPages v n) then
      some (BitVec.ofNat 64 ((v.toNat / hostPage + answers.length) * hostPage))
    else none
  | .spad _ _ => none

/-- The host page for which a copy still needs an answer of the host's translation, its source's first (16 R264). -/
def CopyOp.nextPage (o : CopyOp) : Option Word :=
  if o.refused.isSome then none else (o.src.nextPage o.len o.hostSrc).or (o.dst.nextPage o.dlen o.hostDst)

/-- A copy still needs an answer of the host's translation. -/
def CopyOp.untranslated (o : CopyOp) : Bool := o.nextPage.isSome

/-- A copy reaches the host half. -/
def CopyOp.usesHost (o : CopyOp) : Bool := o.src.isHost || o.dst.isHost

/-- The Neruo link has failed (20 R303). -/
def State.neruoFailed (s : State) : Bool := (tabGet {} s.links 488).st == .failed

/-- The operation of a copy context that is next to start or complete. -/
def Region.copyHead (r : Region) (tile ctx : Nat) : Option CopyOp :=
  match r.run with
  | none => none
  | some run => (run.copyOpen tile ctx).head?

/-- The region with the first open operation of a copy context changed. -/
def Region.modCopy (r : Region) (tile ctx : Nat) (f : CopyOp → CopyOp) : Region :=
  let mine (o : CopyOp) : Bool := o.tile == tile && o.ctx == ctx && o.st != .done
  r.modRun (fun run => { run with copies := mapFirst mine f run.copies })

/-- Whether the next operation of a copy context can start. -/
def State.copyCanStart (s : State) (rid tile ctx : Nat) : Bool :=
  let r := s.region rid
  match r.copyHead tile ctx with
  | none => false
  | some o => r.enginesRun && o.st == .waiting && r.waitMet o.wait && (!o.untranslated || s.neruoFailed)

/-- COPY_OP_START: the context's next operation starts once its wait holds and the one before it is complete (12 R229,
R235). -/
def execCopyOpStart (rid tile ctx : Nat) (s : State) : Out :=
  if s.copyCanStart rid tile ctx then
    .next (s.setRegion rid ((s.region rid).modCopy tile ctx (fun o => { o with st := .started })))
  else .fault .notDue

/-- The address of a copy's host side, its source's first. -/
def CopyOp.hostAddr (o : CopyOp) : Word :=
  match o.src, o.dst with
  | .va a, .va b => if vaDevice a then b else a
  | .va a, .spad _ _ => a
  | .spad _ _, .va b => b
  | .spad _ _, .spad _ _ => 0

/-- The address at which a copy that reaches the host half fails: that of the refused translation, or the host side where the Neruo
link has failed (12 R229). -/
def State.hostFailed (s : State) (o : CopyOp) : Option Word :=
  o.refused.or (if o.usesHost && s.neruoFailed then some o.hostAddr else none)

/-- The region with the failing address of an engine operation logged (00 R11; 12 R229). -/
def Region.logAddr (r : Region) (failed : Option Word) : Region :=
  { r with log := r.log ++ (failed.toList.map (fun a => ⟨r.asid, a, none⟩)) }

/-- COPY_OP_COMPLETE: a started operation moves its bytes, its counter takes its number; a refused translation, a failed
Neruo link or a lost line makes it fail, and it completes all the same (12 R229, R236). -/
def execCopyOpComplete (rid tile ctx : Nat) (s : State) : Out :=
  let r := s.region rid
  match r.copyHead tile ctx with
  | none => .fault .notDue
  | some o =>
    if !r.enginesRun || o.st != .started then .fault .notDue
    else
      let (s, data, failed) := match s.hostFailed o with
        | some a => (s, 0, some a)
        | none =>
          let (s, d, lost) := s.readLoc rid o.tile o.src o.hostSrc o.len
          (s, d, (lost.head?).map (fun (x : Nat × Word) => x.2))
      let s := if failed.isSome then s.copySpoil rid o else s.copyMove rid o data
      let r := ((s.region rid).modCopy tile ctx (fun o => { o with st := .done })).logAddr failed
      let r := match o.ctr with
        | some c => r.setCtr c ((r.ctr c).complete o.num failed)
        | none => r
      .next (s.setRegion rid r)

/-- HOST_TRANSLATION_RESPONSE: the host answers for the next page of a copy context's next operation, its source first: an address, or
a refusal (16 R264, 20 R305). -/
def execHostTranslationResponse (rid tile ctx : Nat) (pa : Option Word) (s : State) : Out :=
  let r := s.region rid
  match r.copyHead tile ctx with
  | none => .fault .notDue
  | some o =>
    match o.nextPage with
    | none => .fault .notDue
    | some va =>
      .next (s.setRegion rid (r.modCopy tile ctx (fun o =>
        match pa with
        | none => { o with refused := some va }
        | some a =>
          if (o.src.nextPage o.len o.hostSrc).isSome then { o with hostSrc := o.hostSrc ++ [a] }
          else { o with hostDst := o.hostDst ++ [a] })))

/-- CONTEXT_HOLD_END: the context that held a tile has room for its operation (12 R235, 13 R254). -/
def Region.contextFree (r : Region) (ctx : Nat) (org : Org) : Bool :=
  match r.run with
  | none => false
  | some run =>
    if ctx < 2 then
      !((run.copyOpen org.tile ctx).drop 16).any (fun o => o.issue == org.issue)
    else
      !((r.colls.filter (fun o => o.scope.ctx == ctx && o.st != .done)).drop 16).any (fun o =>
        o.parts.any (fun p => p.tile == org.tile && p.issue == org.issue))

/-- CONTEXT_HOLD_END (12 R235, 13 R254). -/
def execContextHoldEnd (rid tile : Nat) (s : State) : Out :=
  let r := s.region rid
  match r.tiles[tile]? with
  | some t =>
    match t.hold with
    | .context ctx org =>
      if r.contextFree ctx org then .next (s.setRegion rid (r.modTile tile (fun t => { t with hold := .none })))
      else .fault .notDue
    | _ => .fault .notDue
  | none => .fault .notDue

/-! ## Collectives (13 R251 to R257) -/

/-- Fields of a virtual-device record (20 R314). -/
def vdValid (v : BitVec 640) : Bool := v.getLsbD 0

/-- VDID. -/
def vdId (v : BitVec 640) : BitVec 16 := v.extractLsb' 16 16

/-- MEMBERS. -/
def vdMembers (v : BitVec 640) : BitVec 8 := v.extractLsb' 32 8

/-- RANK. -/
def vdRank (v : BitVec 640) : BitVec 8 := v.extractLsb' 40 8

/-- MAP. -/
def vdMap (v : BitVec 640) : BitVec 512 := v.extractLsb' 128 512

/-- The member count of a scope (13 R251). -/
def Ctx.members (c : Ctx) : CollScope → Nat
  | .die => c.r.w * c.r.h
  | .package => if c.run.img.seam.axis = 0 then 1 else 2
  | .fabric => if vdValid c.r.vd then (vdMembers c.r.vd).toNat else 1

/-- The issuing tile's rank on a scope, where it is its rank's issuing tile (13 R251). -/
def Ctx.rank (c : Ctx) : CollScope → Option Nat
  | .die => some c.tile
  | .package =>
    let side (i : Nat) := c.run.img.seam.side (i % c.r.w) (i / c.r.w)
    if (List.range c.tile).all (fun i => side i != side c.tile) then some (side c.tile) else none
  | .fabric => if c.tile = 0 then some (if vdValid c.r.vd then (vdRank c.r.vd).toNat else 0) else none

/-- A buffer of a participant (13 R254): for die scope local lines of copy banks of the type's format or RAW, otherwise a
device range. -/
def Ctx.collPlace (c : Ctx) (s : State) (scope : CollScope) (ty : ETy) (v : Word) (n : Nat) (write : Bool) : Option Loc :=
  match scope with
  | .die =>
    match c.copySpan v true n with
    | none => none
    | some (j, off) =>
      match c.r.tiles[j]? with
      | none => none
      | some t =>
        if (List.range (bankOf (off + (n - 1)) - bankOf off + 1)).all (fun i =>
            t.fmt (bankOf off + i) == ty.code || t.fmt (bankOf off + i) == 15) then some (.spad j off)
        else none
  | _ => if vaDevice v && c.vaSide s v n write then some (.va v) else none

/-- A participant's contribution, or the address that faults (13 R254). -/
def Ctx.contrib (c : Ctx) (s : State) (scope : CollScope) (root fanin count : BitVec 8) (ty : ETy) (red : CollRed) (pat : CollPat)
    (wait : Option (Nat × Word)) (ctr rank : Nat) (src dst : Word) (len : Nat) : Except Word Contrib :=
  let p : Contrib :=
    { tile := c.tile, rank := rank, issue := c.t, src := .va src, dst := .va dst, wait := wait, pat := pat, red := red,
      ty := ty, count := count, fanin := fanin, root := root, len := len, ctr := ctr }
  match (if p.reads then c.collPlace s scope ty src len false else some (.va 0)),
      (if p.writes then c.collPlace s scope ty dst p.dlen true else some (.va 0)) with
  | none, _ => .error src
  | some _, none => .error dst
  | some ls, some ld => .ok { p with src := ls, dst := ld }

/-- The operation that a participant's COLL number `idx` on a scope joins, if another formed it. DEDUCED: log 19. -/
def Region.collOp (r : Region) (scope : CollScope) (idx : Nat) : Option CollOp :=
  r.colls.find? (fun o => o.scope == scope && o.idx == idx)

/-- COLL (13 R252 to R254; 17 R287). -/
def execColl (h : HeadP) (g : BitVec 3) (scope : CollScope) (root fanin count : BitVec 8) (ty : ETy) (red : CollRed)
    (pat : CollPat) (wreg : BitVec 4) (wen : Bool) (wctr ctr : BitVec 6) (nreg lreg dreg sreg : BitVec 4)
    (s : State) : Out :=
  issue (.coll h g scope root fanin count ty red pat wreg wen wctr ctr nreg lreg dreg sreg) s (fun c =>
    let src := c.rd sreg
    let dst := c.rd dreg
    let len := c.rd lreg
    let k := ctr.toNat
    let wait := if wen then some (wctr.toNat, c.rd wreg) else none
    match c.rank scope with
    | none => .stop s 11 0 src 0
    | some rank =>
      if c.members scope < count.toNat ∨ count.toNat ≤ rank then .stop s 11 0 src 0
      else if !lenOk len then c.addrFault s src
      else
        match c.contrib s scope root fanin count ty red pat wait k rank src dst len.toNat with
        | .error a => c.addrFault s a
        | .ok p =>
          if p.writes && c.sealTrap p.dst p.dlen then .stop s 6 0 dst 0
          else
            let x := scope.ctx
            let key := x * 256 + rank
            let idx := tabGet 0 c.r.collCount key
            let old := c.r.collOp scope idx
            if !c.r.mayBind c.run k x 0 c.tile c.t ||
                (old.isNone && (c.r.ctr k).front == BitVec.allOnes 64) then .stop s 9 0 0 (ctr.zeroExtend 64)
            else if c.opConflict x wait (p.ranges.filter (fun a => !a.w)) then .stop s 3 0 src 0
            else if c.opConflict x wait (p.ranges.filter OpRange.w) then .stop s 3 0 dst 0
            else
              match s.register c.rid c.tile 0 (if p.reads then devLines p.src len.toNat else []) with
              | .error i => .stop s 5 3 src 0 i
              | .ok s1 =>
                match s1.register c.rid c.tile 1 (if p.writes then devLines p.dst p.dlen else []) with
                | .error i => .stop s 5 3 dst 0 i
                | .ok s2 =>
                  let r := s2.region c.rid
                  let num := match old with
                    | some o => o.num
                    | none => (c.r.ctr k).front + 1
                  let r := if old.isNone || (c.r.ctr k).st == .free then
                      r.bind k x 0 c.tile c.t (if old.isNone then num else (c.r.ctr k).front)
                    else r
                  let colls := match old with
                    | some _ => r.colls.map (fun o =>
                        if o.scope == scope && o.idx == idx then { o with parts := o.parts ++ [p] } else o)
                    | none => r.colls ++ [{ scope := scope, idx := idx, num := num, ctr := k, parts := [p], peers := [],
                                            st := .waiting, failed := false, addr := 0, lost := [], data := [] }]
                  let r := { r with colls := colls, collCount := tabSet 0 r.collCount key (idx + 1) }
                  let r := r.modRun (fun run => { run with fabric := run.fabric || scope == .fabric })
                  let full := ((colls.filter (fun o => o.scope == scope && o.st != .done)).drop 16).any (fun o => o.idx == idx)
                  let r := if full then r.modTile c.tile (fun t => { t with hold := .context x c.org }) else r
                  .done (c.emit (s2.setRegion c.rid r) [c.eff 1 (.reg nreg num)]) 1)

/-- The next operation of a scope that is not complete. -/
def Region.collHead (r : Region) (scope : CollScope) : Option CollOp :=
  r.colls.find? (fun o => o.scope == scope && o.st != .done)

/-- The region with the next operation of a scope changed. -/
def Region.modColl (r : Region) (scope : CollScope) (f : CollOp → CollOp) : Region :=
  { r with colls := mapFirst (fun o => o.scope == scope && o.st != .done) f r.colls }

/-- Whether every participant has contributed: those of the region with their waits met, and a peer for every other rank. -/
def CollOp.ready (o : CollOp) (r : Region) (peers : List Peer) : Bool :=
  match o.parts.head? with
  | none => false
  | some p =>
    (List.range p.count.toNat).all (fun rank =>
      (o.parts.any (fun q => q.rank == rank && r.waitMet q.wait)) || (peers.any (fun q => q.rank == rank)))

/-- Whether the participants agree (13 R254; 20 R314). -/
def CollOp.agree (o : CollOp) (r : Region) (peers : List Peer) : Bool :=
  match o.parts.head? with
  | none => false
  | some p =>
    o.parts.all (fun q =>
      q.pat == p.pat && q.red == p.red && q.ty == p.ty && q.count == p.count && q.fanin == p.fanin && q.root == p.root &&
        q.len == p.len && q.ctr == o.ctr) &&
    peers.all (fun q =>
      q.pat == p.pat && q.red == p.red && q.ty == p.ty && q.count == p.count && q.fanin == p.fanin && q.root == p.root &&
        q.len == p.len && q.vdid == vdId r.vd && q.members == vdMembers r.vd && q.map == vdMap r.vd)

/-- Whether the next operation of a scope can start with the peers' contributions given (13 R254). -/
def Region.collCanStart (r : Region) (scope : CollScope) (peers : List Peer) : Bool :=
  match r.collHead scope with
  | none => false
  | some o => r.enginesRun && o.st == .waiting && o.ready r peers && (scope == .fabric || peers.isEmpty)

/-- The address that a place is named by: its own scratchpad's offsets stand for a die-scope buffer (06 R103). -/
def Loc.addr (l : Loc) : Word :=
  match l with
  | .va a => a
  | .spad _ off => BitVec.ofNat 64 off

/-- The address that is logged where an operation fails and no line of it is lost: its first participant's source, or its destination where
it reads none (00 R11). DESIGN CHOICE: log 32. -/
def CollOp.named (o : CollOp) : Word :=
  match o.parts.head? with
  | some p => if p.reads then p.src.addr else p.dst.addr
  | none => 0

/-- COLL_OP_START: every participant contributes; the sources are taken as they stand (13 R254, R255). -/
def execCollOpStart (rid : Nat) (scope : CollScope) (peers : List Peer) (s : State) : Out :=
  let r := s.region rid
  match r.collHead scope with
  | none => .fault .notDue
  | some o =>
    if !r.collCanStart scope peers then .fault .notDue
    else
      let failed := peers.any (fun q => !q.ok) || (scope == .fabric && r.split)
      let (s, data, lost) := (o.parts.filter Contrib.reads).foldl
        (fun (acc : State × List (Nat × List Byte) × List (Nat × Nat × Word)) p =>
          let (s, v, gone) := acc.1.readLoc rid p.tile p.src [] p.len
          (s, acc.2.1 ++ [(p.rank, natToBytes v p.len)], acc.2.2 ++ gone.map (fun x => (p.rank, x))))
        (s, [], [])
      .next (s.setRegion rid ((s.region rid).modColl scope (fun o =>
        { o with st := .started, peers := peers, failed := failed || !lost.isEmpty,
                 addr := (lost.head?.map (·.2.2)).getD o.named,
                 lost := lost.map (fun x => (x.1, some x.2.1)) ++ (peers.filter (fun q => !q.ok)).map (fun q => (q.rank, none)),
                 data := data ++ peers.map (fun q => (q.rank, q.data)) })))

/-! ### Combination (13 R256) -/

/-- A W96 element with its upper bits as copies of bit 95 (04 R52). -/
def w96Norm (e : Nat) : Nat := (w96Store (BitVec.ofNat 96 e)).toNat

/-- comb of R256 for SUM, MAX and MIN. -/
def collComb (red : CollRed) (t : ETy) (a b : Nat) : Nat :=
  match red with
  | .max => laneMax t a b
  | .min => laneMin t a b
  | _ =>
    if t = .w96 then
      (w96Store (w96Sat (w96Int (BitVec.ofNat 96 a) + w96Int (BitVec.ofNat 96 b))).1).toNat
    else laneAdd t a b

/-- A list in groups of at most `f`, the first ones whole. -/
def groupsOf {α : Type} (f : Nat) : Nat → List α → List (List α)
  | 0, _ => []
  | fuel + 1, xs => if xs.isEmpty then [] else xs.take f :: groupsOf f fuel (xs.drop f)

/-- The values of one node's inputs combined left to right, element by element. -/
def combNode (f : Nat → Nat → Nat) : List (List Nat) → List Nat
  | [] => []
  | x :: xs => xs.foldl (fun acc y => List.zipWith f acc y) x

/-- The tree of R256 over the ranks' elements. -/
def collTree (f : Nat → Nat → Nat) (fanin : Nat) : Nat → List (List Nat) → List Nat
  | 0, v => combNode f v
  | fuel + 1, v =>
    if v.length ≤ 1 then combNode f v
    else
      let n := if fanin = 0 ∨ v.length < fanin then v.length else fanin
      collTree f fanin fuel ((groupsOf n v.length v).map (combNode f))

/-- TOPK of R256: the first k of all pairs. -/
def collTopk (t : ETy) (len : Nat) (srcs : List Nat) : Nat :=
  let k := len / 8
  let pairs := srcs.flatMap (fun v => (List.range k).map (fun i => (elemAt v 32 i, elemAt v 32 (k + i))))
  let top := selectTop t k pairs
  packNat 32 (top.map (·.1)) ||| (packNat 32 (top.map (·.2)) <<< (32 * k))

/-- The bytes that an operation writes to its destinations, from the ranks' sources in order (13 R255, R256). -/
def collResult (pat : CollPat) (red : CollRed) (t : ETy) (fanin root len : Nat) (srcs : List Nat) : Nat :=
  match pat with
  | .broadcast => (srcs[root]?).getD 0
  | .allgather => packNat (8 * len) srcs
  | _ =>
    if srcs.length = 1 then (srcs[0]?).getD 0
    else if red = .topk then collTopk t len srcs
    else
      let n := len * 8 / t.width
      let norm (e : Nat) := if t = .w96 then w96Norm e else e
      packNat t.width (collTree (collComb red t) fanin 128 (srcs.map (fun v => (unpackNat t.width v n).map norm)))

/-- The source of a rank, zero where the pattern does not read it. -/
def CollOp.srcOf (o : CollOp) (rank : Nat) : Nat :=
  match o.data.find? (fun d => d.1 == rank) with
  | some d => bytesToNat d.2
  | none => 0

/-- Whether line `i` of a participant's destination depends on a rank's source line, or on any of its source (13 R255, R256). -/
def Contrib.needsLine (p : Contrib) (i rank : Nat) (line : Option Nat) : Bool :=
  let here (a b : Nat) : Bool := match line with
    | some l => decide (a ≤ l) && decide (l ≤ b)
    | none => true
  match p.pat with
  | .broadcast => rank == p.root.toNat && here i i
  | .allgather => rank == 64 * i / p.len && here (64 * i % p.len / 64) (64 * i % p.len / 64)
  | _ => if p.red = .topk then true else if p.ty = .w96 then here (i - 1) (i + 1) else here i i

/-- Whether line `i` of a participant's destination has a result: no source line that it depends on is lost. -/
def CollOp.hasLine (o : CollOp) (p : Contrib) (i : Nat) : Bool := !o.lost.any (fun x => p.needsLine i x.1 x.2)

/-- A participant's destination after an operation that failed without a disagreement: each line holds its prior contents or
its result, by free values; a line whose result a lost source line keeps away holds its prior contents (13 R257; DESIGN CHOICE: log 2,
32). -/
def State.collSpoil (s : State) (rid : Nat) (o : CollOp) (q : Contrib) (v : Nat) : State :=
  (List.range (q.dlen / 64)).foldl
    (fun s i =>
      let n := s.free
      let line := bitsOf v (512 * i) 512
      let s' := if Config.freeBit n || !o.hasLine q i then s
        else match q.dst with
          | .va a => s.writeVaLoc rid q.tile a [] i 64 line
          | .spad j off => s.setRegion rid ((s.region rid).modTile j (fun t => t.putBytes (off + 64 * i) 64 line))
      { s' with free := n + 1 })
    s

/-- A participant's destination after an operation that went well (13 R255). -/
def State.collPut (s : State) (rid : Nat) (q : Contrib) (v : Nat) : State :=
  match q.dst with
  | .va a => s.writeVaLoc rid q.tile a [] 0 q.dlen v
  | .spad j off => s.setRegion rid ((s.region rid).modTile j (fun t => t.putBytes off q.dlen v))

/-- COLL_OP_COMPLETE: the destinations are written, and the counter takes the operation's number; a failed operation sets ERR,
and leaves the destinations as they are where its participants disagree (13 R255 to R257). -/
def execCollOpComplete (rid : Nat) (scope : CollScope) (s : State) : Out :=
  let r := s.region rid
  match r.collHead scope with
  | none => .fault .notDue
  | some o =>
    if !r.enginesRun || o.st != .started then .fault .notDue
    else
      let differ := !o.agree r o.peers
      let broken := o.failed || (scope == .fabric && r.split)
      let s := match o.parts.head? with
        | none => s
        | some p =>
          let v := collResult p.pat p.red p.ty p.fanin.toNat p.root.toNat p.len ((List.range p.count.toNat).map o.srcOf)
          let outs := o.parts.filter Contrib.writes
          if differ then s
          else if broken then outs.foldl (fun s q => s.collSpoil rid o q v) s
          else outs.foldl (fun s q => s.collPut rid q v) s
      let failed := if differ || broken then some o.addr else none
      let r := ((s.region rid).modColl scope (fun o => { o with st := .done })).logAddr failed
      .next (s.setRegion rid (r.setCtr o.ctr ((r.ctr o.ctr).complete o.num failed)))

end Sys2Proof.Machine
end

