-- ==== Sys2Proof/Machine/Vector.lean ====
section
/-! DEFINITION. The vector unit: element-wise and row instructions, draws, masks and the queue instructions of the execute
stream (07 R136 to R161). -/

namespace Sys2Proof.Machine

/-! ## Row groups (07 R140, R141) -/

/-- The latency of an operation (07 R140). -/
def VOp.lat : VOp → Nat
  | .rcp _ | .sqrt _ | .rsq _ => 8
  | .exp _ | .log _ | .tanh _ | .sig _ => 12
  | .shuf _ | .madw _ => 6
  | .scan _ _ => 8
  | .red _ _ => 10
  | .trn _ | .draw _ => 12
  | .topk _ _ => 20
  | _ => 4

/-- Sideband sets that a row group writes: VMOV's copies and VCVT's 0x60 (07 R137). -/
def VOp.sets (op : VOp) (tl : Tile) (e : VEnv) (g : Nat) : List (Nat × BitVec 1024) :=
  match op with
  | .mov _ => [(8 * e.d + 2 * g, tl.set e.a (2 * g)), (8 * e.d + 2 * g + 1, tl.set e.a (2 * g + 1))]
  | .cvt toF32 _ t =>
    if !toF32 && t.isScaled then
      let v := BitVec.ofNat 1024 (packFn 8 128 (fun _ => 0x60))
      [(8 * e.d + 2 * g, v), (8 * e.d + 2 * g + 1, v)]
    else []
  | _ => []

/-- The writes of destination row `i`. -/
def VOp.writes (op : VOp) (tl : Tile) (e : VEnv) (i : Nat) : List RowW :=
  let rd (r : Nat) (j : Nat) := (tl.row r j).toNat
  let m := laneMask e.mask op.dstTy.width
  match op with
  | .topk t k =>
    let first : BitVec 4096 := BitVec.ofNat 4096 (2 ^ (32 * k) - 1)
    let p := topkRows t k e.mask (rd e.a i) (rd e.b i) 0 0
    [⟨16 * e.d + i, m &&& first, BitVec.ofNat 4096 p.1⟩, ⟨16 * e.c + i, m &&& first, BitVec.ofNat 4096 p.2⟩]
  | op => [⟨16 * e.d + i, m, BitVec.ofNat 4096 (op.row e (rd e.a) (rd e.b) (rd e.c) (rd e.d) (tl.set e.a (i / 2)) i)⟩]

/-- The landing of row group `g`, computed from the tile's rows as they stand. -/
def VOp.group (op : VOp) (tl : Tile) (e : VEnv) (g : Nat) : Act :=
  .rows (op.writes tl e (4 * g) ++ op.writes tl e (4 * g + 1) ++ op.writes tl e (4 * g + 2) ++ op.writes tl e (4 * g + 3))
    (op.sets tl e g)

/-- The effects of the row-group reads of an operation issued at tick `t` from group `g` on: VTRN reads every row at
t + 3 (07 R141). -/
def vecEffs (org : Org) (op : VOp) (e : VEnv) : List Eff :=
  match op with
  | .trn _ => [mkEff org (org.issue + 3) org.tile (.vec op e 3) 3]
  | _ => [1, 2, 3].map (fun g => mkEff org (org.issue + g) org.tile (.vec op e g) g)

/-- The landings that the reads of group `g` put in flight. -/
def vecLandings (org : Org) (op : VOp) (e : VEnv) (g : Nat) (tl : Tile) : List Eff :=
  match op with
  | .trn _ => [0, 1, 2, 3].map (fun j => mkEff org (org.issue + e.lat + j) org.tile (op.group tl e j) j)
  | _ => [mkEff org (org.issue + e.lat + g) org.tile (op.group tl e g) g]

/-! ## Issue -/

/-- The physical register of a name (05 R95). -/
def Ctx.phys (c : Ctx) (r : BitVec 4) : Nat := physReg c.tl.rotb r

/-- The operands of a vector operation, fixed at issue (07 R138, 05 R95). -/
def Ctx.venv (c : Ctx) (op : VOp) (g : BitVec 3) (d a b x : BitVec 4) (v : Word) : VEnv :=
  { d := c.phys d, a := c.phys a, b := c.phys b, c := c.phys x, mask := c.tl.pmask g.toNat, x := v, idx := 0,
    key := c.tl.key, ctr := c.tl.drawCtr, did := c.tl.drawId, lat := op.lat }

/-- Issues a vector operation: the first row group is read now, the others one tick apart; occupancy 4 (07 R140). -/
def Ctx.vector (c : Ctx) (s : State) (op : VOp) (e : VEnv) : Iss :=
  let now := match op with
    | .trn _ => []
    | _ => vecLandings c.org op e 0 c.tl
  .done (c.emit s (now ++ vecEffs c.org op e)) 4

/-- The draw counter after a draw instruction (04 R64). -/
def Ctx.drawn (c : Ctx) (s : State) : State := c.onTile s (fun tl => { tl with drawCtr := tl.drawCtr + 1 })

/-- A vector instruction of registers d, a, b under a lane guard. -/
def vec3 (i : Instr) (g : BitVec 3) (op : VOp) (d a b : BitVec 4) (s : State) : Out :=
  issue i s (fun c => c.vector s op (c.venv op g d a b d 0))

/-- VADD (07 R144). -/
def execVadd (h : Head) (t : ETy) (d a b : BitVec 4) (s : State) : Out := vec3 (.vadd h t d a b) h.g (.add t) d a b s

/-- VSUB (07 R144). -/
def execVsub (h : Head) (t : ETy) (d a b : BitVec 4) (s : State) : Out := vec3 (.vsub h t d a b) h.g (.sub t) d a b s

/-- VMUL (07 R144). -/
def execVmul (h : Head) (t : ETy) (d a b : BitVec 4) (s : State) : Out := vec3 (.vmul h t d a b) h.g (.mul t) d a b s

/-- VFMA (07 R144). -/
def execVfma (h : Head) (t : ETy) (d a b : BitVec 4) (s : State) : Out := vec3 (.vfma h t d a b) h.g (.fma t) d a b s

/-- VFMS (07 R144). -/
def execVfms (h : Head) (t : ETy) (d a b : BitVec 4) (s : State) : Out := vec3 (.vfms h t d a b) h.g (.fms t) d a b s

/-- VMIN (07 R144). -/
def execVmin (h : Head) (t : ETy) (d a b : BitVec 4) (s : State) : Out := vec3 (.vmin h t d a b) h.g (.min t) d a b s

/-- VMAX (07 R144). -/
def execVmax (h : Head) (t : ETy) (d a b : BitVec 4) (s : State) : Out := vec3 (.vmax h t d a b) h.g (.max t) d a b s

/-- VAND (07 R144). -/
def execVand (h : Head) (t : ETy) (d a b : BitVec 4) (s : State) : Out := vec3 (.vand h t d a b) h.g (.and t) d a b s

/-- VOR (07 R144). -/
def execVor (h : Head) (t : ETy) (d a b : BitVec 4) (s : State) : Out := vec3 (.vor h t d a b) h.g (.or t) d a b s

/-- VXOR (07 R144). -/
def execVxor (h : Head) (t : ETy) (d a b : BitVec 4) (s : State) : Out := vec3 (.vxor h t d a b) h.g (.xor t) d a b s

/-- VSHL (07 R144). -/
def execVshl (h : Head) (t : ETy) (d a b : BitVec 4) (s : State) : Out := vec3 (.vshl h t d a b) h.g (.shl t) d a b s

/-- VSHR (07 R144). -/
def execVshr (h : Head) (t : ETy) (d a b : BitVec 4) (s : State) : Out := vec3 (.vshr h t d a b) h.g (.shr t) d a b s

/-- VSRA (07 R144). -/
def execVsra (h : Head) (t : ETy) (d a b : BitVec 4) (s : State) : Out := vec3 (.vsra h t d a b) h.g (.sra t) d a b s

/-- VMADW (07 R154). -/
def execVmadw (h : Head) (t : ETy) (d a b : BitVec 4) (s : State) : Out := vec3 (.vmadw h t d a b) h.g (.madw t) d a b s

/-- VABS (07 R144). -/
def execVabs (h : Head) (t : ETy) (d a : BitVec 4) (s : State) : Out := vec3 (.vabs h t d a) h.g (.abs t) d a d s

/-- VNEG (07 R144). -/
def execVneg (h : Head) (t : ETy) (d a : BitVec 4) (s : State) : Out := vec3 (.vneg h t d a) h.g (.neg t) d a d s

/-- VRCP (07 R144). -/
def execVrcp (h : Head) (t : ETy) (d a : BitVec 4) (s : State) : Out := vec3 (.vrcp h t d a) h.g (.rcp t) d a d s

/-- VSQRT (07 R144). -/
def execVsqrt (h : Head) (t : ETy) (d a : BitVec 4) (s : State) : Out := vec3 (.vsqrt h t d a) h.g (.sqrt t) d a d s

/-- VRSQ (07 R144). -/
def execVrsq (h : Head) (t : ETy) (d a : BitVec 4) (s : State) : Out := vec3 (.vrsq h t d a) h.g (.rsq t) d a d s

/-- VEXP (07 R144). -/
def execVexp (h : Head) (t : ETy) (d a : BitVec 4) (s : State) : Out := vec3 (.vexp h t d a) h.g (.exp t) d a d s

/-- VLOG (07 R144). -/
def execVlog (h : Head) (t : ETy) (d a : BitVec 4) (s : State) : Out := vec3 (.vlog h t d a) h.g (.log t) d a d s

/-- VTANH (07 R144). -/
def execVtanh (h : Head) (t : ETy) (d a : BitVec 4) (s : State) : Out := vec3 (.vtanh h t d a) h.g (.tanh t) d a d s

/-- VSIG (07 R144). -/
def execVsig (h : Head) (t : ETy) (d a : BitVec 4) (s : State) : Out := vec3 (.vsig h t d a) h.g (.sig t) d a d s

/-- VMOV (07 R144, R137). -/
def execVmov (h : Head) (t : ETy) (d a : BitVec 4) (s : State) : Out := vec3 (.vmov h t d a) h.g (.mov t) d a d s

/-- VPOPC (07 R144). -/
def execVpopc (h : Head) (t : ETy) (d a : BitVec 4) (s : State) : Out := vec3 (.vpopc h t d a) h.g (.popc t) d a d s

/-- VTRN (07 R156). -/
def execVtrn (h : Head) (t : ETy) (d a : BitVec 4) (s : State) : Out := vec3 (.vtrn h t d a) h.g (.trn t) d a d s

/-- VCLASS (07 R144, R145). -/
def execVclass (h : Head) (t : ETy) (d a : BitVec 4) (s : State) : Out := vec3 (.vclass h t d a) h.g (.cls t) d a d s

/-- VCMP: td is compared with tb in place (07 R148). -/
def execVcmp (h : Head) (cc : CmpOp) (t : ETy) (d b : BitVec 4) (s : State) : Out :=
  vec3 (.vcmp h cc t d b) h.g (.cmp cc t) d d b s

/-- VSELM: (ta & tc) | (tb & ~tc) (07 R146). -/
def execVselm (h : Head) (d a b x : BitVec 4) (s : State) : Out :=
  issue (.vselm h d a b x) s (fun c => c.vector s .selm (c.venv .selm h.g d a b x 0))

/-- VCVT; with SR it is a draw instruction (07 R150, R151). -/
def execVcvt (h : Head) (toF32 : Bool) (rm : RMode) (t : ETy) (d a : BitVec 4) (s : State) : Out :=
  issue (.vcvt h toF32 rm t d a) s (fun c =>
    let op := VOp.cvt toF32 rm t
    c.vector (if rm = .sr then c.drawn s else s) op (c.venv op h.g d a d d 0))

/-- VBCAST: s[a] to every lane (07 R147). -/
def execVbcast (h : Head) (t : ETy) (d a : BitVec 4) (s : State) : Out :=
  issue (.vbcast h t d a) s (fun c => c.vector s (.bcast t) (c.venv (.bcast t) h.g d d d d (c.rd a)))

/-- VBCASTI: a converted immediate to every lane (07 R147). -/
def execVbcasti (h : Head) (t : ETy) (d : BitVec 4) (imm : BitVec 10) (s : State) : Out :=
  issue (.vbcasti h t d imm) s (fun c =>
    c.vector s (.bcasti t) (c.venv (.bcasti t) h.g d d d d (imm.signExtend 64)))

/-- VLANE: s[a] plus the flat index (07 R147). -/
def execVlane (h : Head) (t : ETy) (d a : BitVec 4) (s : State) : Out :=
  issue (.vlane h t d a) s (fun c => c.vector s (.lane t) (c.venv (.lane t) h.g d d d d (c.rd a)))

/-- VROT: lanes rotated by s[b] (07 R156). -/
def execVrot (h : Head) (t : ETy) (d a b : BitVec 4) (s : State) : Out :=
  issue (.vrot h t d a b) s (fun c => c.vector s (.rot t) (c.venv (.rot t) h.g d a d d (c.rd b)))

/-- VSHUF: lanes by the index rows 0 and 1 of tb, read at issue (07 R156, R141). -/
def execVshuf (h : Head) (t : ETy) (d a b : BitVec 4) (s : State) : Out :=
  issue (.vshuf h t d a b) s (fun c =>
    let e := c.venv (.shuf t) h.g d a b d 0
    c.vector s (.shuf t) { e with idx := c.tl.row e.b 1 ++ c.tl.row e.b 0 })

/-- VSCAN (07 R155). -/
def execVscan (h : Head) (op : ScanOp) (t : ETy) (d a : BitVec 4) (s : State) : Out :=
  vec3 (.vscan h op t d a) h.g (.scan op t) d a d s

/-- VRED (07 R155). -/
def execVred (h : Head) (op : ScanOp) (t : ETy) (d a : BitVec 4) (s : State) : Out :=
  vec3 (.vred h op t d a) h.g (.red op t) d a d s

/-- VADDW (07 R153). -/
def execVaddw (h : Head) (t : ETy) (d a p : BitVec 4) (s : State) : Out :=
  vec3 (.vaddw h t d a p) h.g (.addw t p.toNat) d a d s

/-- VDRAW: a draw instruction (07 R157). -/
def execVdraw (h : Head) (t : ETy) (d : BitVec 4) (s : State) : Out :=
  issue (.vdraw h t d) s (fun c => c.vector (c.drawn s) (.draw t) (c.venv (.draw t) h.g d d d d 0))

/-- VTOPK (07 R158, R159). -/
def execVtopk (h : HeadP) (g : BitVec 3) (t : ETy) (k : BitVec 8) (vsrc xsrc vdst xdst : BitVec 4) (s : State) : Out :=
  issue (.vtopk h g t k vsrc xsrc vdst xdst) s (fun c =>
    let op := VOp.topk t k.toNat
    c.vector s op (c.venv op g vdst vsrc xsrc xdst 0))

/-! ## Queues (07 R160, R161) -/

/-- The head of a queue, and the tile without it (06 R114). -/
def Tile.pop (tl : Tile) (q : Nat) : Option (QEntry × Tile) :=
  match tl.queue q with
  | [] => none
  | x :: xs => some (x.ent, tl.setQueue q xs)

/-- The state after the issuing tile's queue loses its head. -/
def Ctx.popped (c : Ctx) (s : State) (q : Nat) : State :=
  c.onTile s (fun tl => match tl.pop q with
    | some (_, tl) => tl
    | none => tl)

/-- VPOP: an entry into rows 2k and 2k + 1 and set k at T + 2 (07 R161). -/
def execVpop (h : Head) (d q k : BitVec 4) (s : State) : Out :=
  issue (.vpop h d q k) s (fun c =>
    match c.tl.pop q.toNat with
    | none => .stop s 3 0 0 0
    | some (ent, _) =>
      let r := 16 * c.phys d + 2 * k.toNat
      let ones := BitVec.allOnes 4096
      .done (c.emit (c.popped s q.toNat)
        [c.eff 2 (.rows [⟨r, ones, ent.pay.extractLsb' 0 4096⟩, ⟨r + 1, ones, ent.pay.extractLsb' 4096 4096⟩]
          [(8 * c.phys d + k.toNat, ent.side)])]) 1)

/-- The entry VPUSH forms from two rows and a set (07 R161). -/
def pushEntry (t : ETy) (r0 r1 : BitVec 4096) (set : BitVec 1024) : QEntry :=
  ⟨(if t = .e2m1 then 0 else r1) ++ r0, if t.isScaled then set else 0, t.code⟩

/-- VPUSH: rows 2k and 2k + 1 and set k, read at T, into a store queue at T + 2 (07 R161). -/
def execVpush (h : Head) (t : ETy) (q a k : BitVec 4) (s : State) : Out :=
  issue (.vpush h t q a k) s (fun c =>
    let r := c.phys a
    let ent := pushEntry t (c.tl.row r (2 * k.toNat)) (c.tl.row r (2 * k.toNat + 1)) (c.tl.set r k.toNat)
    .done (c.emit s [c.eff 2 (.push (4 + q.toNat) ent 0)]) 1)

/-- QDROP: removes entries from the head of a load queue (07 R161). -/
def execQdrop (h : Head) (q : BitVec 4) (n : BitVec 8) (s : State) : Out :=
  issue (.qdrop h q n) s (fun c =>
    let es := c.tl.queue q.toNat
    if es.length < n.toNat then .stop s 3 0 0 0
    else .done (c.onTile s (fun tl => tl.setQueue q.toNat (if n = 0 then [] else es.drop n.toNat))) 1)

/-! ## Masks (07 R149) -/

/-- A mask operation: p[d] := f(p[a], p[b]) at T + 1. -/
def maskOp (i : Instr) (d a b : BitVec 4) (f : BitVec 512 → BitVec 512 → BitVec 512) (s : State) : Out :=
  issue i s (fun c => .done (c.emit s [c.eff 1 (.pmask d.toNat (f (c.tl.pmask a.toNat) (c.tl.pmask b.toNat)))]) 1)

/-- PAND (07 R149). -/
def execPand (h : Head) (d a b : BitVec 4) (s : State) : Out := maskOp (.pand h d a b) d a b (fun x y => x &&& y) s

/-- POR (07 R149). -/
def execPor (h : Head) (d a b : BitVec 4) (s : State) : Out := maskOp (.por h d a b) d a b (fun x y => x ||| y) s

/-- PXOR (07 R149). -/
def execPxor (h : Head) (d a b : BitVec 4) (s : State) : Out := maskOp (.pxor h d a b) d a b (fun x y => x ^^^ y) s

/-- PNOT (07 R149). -/
def execPnot (h : Head) (d a : BitVec 4) (s : State) : Out := maskOp (.pnot h d a) d a a (fun x _ => ~~~x) s

/-- The mask of the nonzero lanes of a row (07 R149). -/
def rowMask (t : ETy) (row : BitVec 4096) : BitVec 512 :=
  BitVec.ofNat 512 (packFn 1 512 (fun l => if l < t.lanes ∧ elemAt row.toNat t.width l ≠ 0 then 1 else 0))

/-- PSET: the nonzero lanes of row r (07 R149). -/
def execPset (h : Head) (t : ETy) (d a r : BitVec 4) (s : State) : Out :=
  issue (.pset h t d a r) s (fun c =>
    .done (c.emit s [c.eff 2 (.pmask d.toNat (rowMask t (c.tl.row (c.phys a) r.toNat)))]) 1)

/-- PCNT (07 R149). -/
def execPcnt (h : Head) (d a : BitVec 4) (s : State) : Out :=
  issue (.pcnt h d a) s (fun c =>
    .done (c.emit s [c.eff 2 (.reg d (BitVec.ofNat 64 (popN (c.tl.pmask a.toNat).toNat 512)))]) 1)

/-- PFIRST (07 R149). -/
def execPfirst (h : Head) (d a : BitVec 4) (s : State) : Out :=
  issue (.pfirst h d a) s (fun c =>
    .done (c.emit s [c.eff 2 (.reg d (BitVec.ofNat 64 (lowestBit (c.tl.pmask a.toNat).toNat 512)))]) 1)

end Sys2Proof.Machine
end

