-- ==== Sys2Proof/Machine/Matrix.lean ====
section
/-! DEFINITION. The matrix array: operands, increments, additions, readout, status (08 R162 to R178). -/

namespace Sys2Proof.Machine

/-! ## Increments (08 R164 to R167) -/

/-- The exact values of one scale block of an operand: eight K-values of position `p`, block `q` of `nq`, from a row whose
place in its pair is `i` (08 R164, R165). -/
def blockVals (t : ETy) (row : Nat) (set : BitVec 1024) (i nq p q : Nat) : List Val :=
  (List.range 8).map (fun k =>
    let l := 8 * (nq * p + q) + k
    scaledVal t (elemAt row t.width l) (if t.isScaled then scaleOf set t i l else 0))

/-- The exact sum of the products of two blocks of scaled values (08 R166). -/
def dotVals (a b : List Val) : Val := (List.zipWith Val.mul a b).foldl Val.add .zero

/-- Scale blocks of a K-block: one for 8-bit types, two for 4-bit types (08 R165). -/
def kBlocks (t : ETy) : Nat := if t.width = 4 then 2 else 1

/-- The increment that block sums give, in units of 2^-32, each rounded once: none where an operand makes the element stay
as it is; an infinity saturates (08 R166). -/
def increment (ds : List Val) : Option Int :=
  match ds.foldl Val.add .zero with
  | .nan => none
  | .inf s => some (if s then -(2 ^ 97) else 2 ^ 97)
  | .fin _ _ _ =>
    some ((ds.map (fun d => match d with
      | .fin s n e => roundUnits .rne 0 s n 1 e (-32)
      | _ => 0)).foldl (· + ·) 0)

/-- An element of an accumulator row after an increment, and whether it saturated (08 R167). -/
def accStep (old : Nat) (inc : Option Int) : Nat × Bool :=
  match inc with
  | none => (old, false)
  | some x => let (v, sat) := satAdd (BitVec.ofNat 96 old) x; (v.toNat, sat)

/-- An accumulator row after its increments, and whether an element saturated. -/
def accRowAdd (row : BitVec 12288) (incs : List (Option Int)) : BitVec 12288 × Bool :=
  let es := List.zipWith accStep (unpackNat 96 row.toNat 128) incs
  (BitVec.ofNat 12288 (packNat 96 (es.map (·.1))), es.any (·.2))

/-- The increments of one K-block for accumulator row `r` (08 R164, R166): `b0`, `b1` are the two B rows with their sets,
and of 8-bit types the second is the odd row of the same pair. -/
def mmaIncs (aty : ETy) (aRow : BitVec 4096) (aSet : BitVec 1024) (aHi : Bool)
    (bs : List (List (List Val))) (r : Nat) : List (Option Int) :=
  let nq := kBlocks aty
  let a := (List.range nq).map (blockVals aty aRow.toNat aSet (if aHi then 1 else 0) nq r)
  bs.map (fun b => increment (List.zipWith dotVals a b))

/-- The B operand: of each of 128 columns its scale blocks (08 R164). -/
def mmaCols (bty : ETy) (b0 b1 : BitVec 4096) (s0 s1 : BitVec 1024) : List (List (List Val)) :=
  let nq := kBlocks bty
  (List.range 128).map (fun c =>
    (List.range nq).map (fun q =>
      if c < 64 then blockVals bty b0.toNat s0 0 nq c q
      else blockVals bty b1.toNat s1 (if nq = 1 then 1 else 0) nq (c - 64) q))

/-- The tile with accumulator row `row` of `m` increased; SAT is sticky (08 R162, R167). -/
def Tile.accAdd (tl : Tile) (m : Bool) (row : Nat) (incs : List (Option Int)) : Tile :=
  let (v, sat) := accRowAdd (tl.accRow m row) incs
  let tl := { tl with acc := tabSet 0 tl.acc ((if m then 64 else 0) + row) v }
  if m then { tl with sat1 := satFlag tl.sat1 sat } else { tl with sat0 := satFlag tl.sat0 sat }

/-- The tile after the additions of a K-block (08 R170). -/
def Tile.mmaAdd (tl : Tile) (m : Bool) (aty bty : ETy) (aRow : BitVec 4096) (aSet : BitVec 1024) (aHi : Bool)
    (b0 b1 : BitVec 4096) (s0 s1 : BitVec 1024) : Tile :=
  let cols := mmaCols bty b0 b1 s0 s1
  (List.range 64).foldl (fun tl r => tl.accAdd m r (mmaIncs aty aRow aSet aHi cols r)) tl

/-- The tile after the additions of a MADDW group: four rows of W96 to one accumulator row (08 R175). -/
def Tile.maddw (tl : Tile) (m : Bool) (row : Nat) (rows : List (BitVec 4096)) : Tile :=
  tl.accAdd m row (rows.flatMap (fun x =>
    (unpackNat 128 x.toNat 32).map (fun e => some (w96Int (BitVec.ofNat 96 e)))))

/-- The tile with accumulator `m` cleared (08 R169). -/
def Tile.mclr (tl : Tile) (m : Bool) : Tile :=
  { tl with acc := tl.acc.filter (fun x => decide (64 ≤ x.1) != m) }

/-! ## Pending additions (08 R163) -/

/-- Whether an effect adds, or will add, into accumulator `m`. -/
def Act.addsTo (m : Bool) : Act → Bool
  | .mmaAdd n _ _ _ _ _ _ _ _ _ | .mmaBlk n _ _ _ _ _ _ _ | .maddw n _ _ | .maddwRd n _ _ _ => n == m
  | _ => false

/-- Whether accumulator `m` of a tile is PENDING at tick `t` (08 R163). DEDUCED: an addition that a taken branch has cancelled (04 R34)
is no longer due, so it leaves the accumulator SETTLED (log 19). -/
def Run.pending (run : Run) (tile : Nat) (m : Bool) (t : Nat) : Bool :=
  run.effs.any (fun e => e.tile == tile && e.act.addsTo m && decide (t < e.due))

/-! ## MMA (08 R170, R171) -/

/-- Rows of A, and pairs of B, that one K-block takes. -/
def kStride (t : ETy) : Nat := if t.width = 4 then 2 else 1

/-- The addition that a block read now puts in flight (08 R164, R170). -/
def mmaRead (tl : Tile) (m : Bool) (aty bty : ETy) (ta tb arow bpair : Nat) : Act :=
  let second := 2 * bpair + kStride bty
  .mmaAdd m aty bty (tl.row ta arow) (tl.set ta (arow / 2)) (decide (arow % 2 = 1)) (tl.row tb (2 * bpair))
    (tl.row tb second) (tl.set tb bpair) (tl.set tb (second / 2))

/-- Issues `n` K-blocks: the first is read now, the others one tick apart; the array is busy for `n` ticks (08 R169, R170). -/
def Ctx.mma (c : Ctx) (s : State) (m : Bool) (aty bty : ETy) (ta tb : BitVec 4) (arow bpair n : Nat) : Iss :=
  if c.t < c.tl.arrayBusy then .stop s 3 0 0 0
  else
    let s := c.onTile s (fun tl => { tl with arrayBusy := c.t + n })
    let a := c.phys ta
    let b := c.phys tb
    let first := c.eff 8 (mmaRead c.tl m aty bty a b arow bpair)
    let rest :=
      if n ≤ 1 then []
      else [c.eff 1 (.mmaBlk m aty bty a b (arow + kStride aty) (bpair + kStride bty) (n - 1)) 1]
    .done (c.emit s (first :: rest)) 1

/-- MMA: one K-block from row 0 of tA and pair 0 of tB (08 R170). -/
def execMma (h : Head) (t : ETy) (d a b : BitVec 4) (s : State) : Out :=
  issue (.mma h t d a b) s (fun c => c.mma s (d = 1) t t a b 0 0 1)

/-- The MMA form: c K-blocks (08 R171). -/
def execMmaForm (h : HeadP) (g : BitVec 3) (acc : Bool) (cnt : BitVec 5) (bpair : BitVec 3) (arow : BitVec 4)
    (bty aty : ETy) (tb ta : BitVec 4) (s : State) : Out :=
  issue (.mmaForm h g acc cnt bpair arow bty aty tb ta) s (fun c =>
    c.mma s acc aty bty ta tb arow.toNat bpair.toNat cnt.toNat)

/-! ## Clear, readout, exact partials, status -/

/-- MCLR: every element is zero at T + 1 (08 R169). -/
def execMclr (h : Head) (d : BitVec 4) (s : State) : Out :=
  issue (.mclr h d) s (fun c => .done (c.emit s [c.eff 1 (.mclr (d = 1))]) 1)

/-- The readout of an element (08 R172). -/
def MRead.elem (p : MRead) (w : Nat) (r col : Nat) : Nat :=
  let band := if col < 64 then p.bandB0 else p.bandB1
  let x := ETy.w96.val w
  let a := ETy.bf16.val p.bandA.toNat
  let b := ETy.bf16.val band.toNat
  let v : Val :=
    if a.isNan || b.isNan then .nan
    else if a.isInf || b.isInf then (if x.isZero then .nan else .inf ((x.sign != a.sign) != b.sign))
    else (x.mul a).mul b
  let id : BitVec 64 := (p.row + BitVec.ofNat 32 r) ++ (p.col + BitVec.ofNat 32 col)
  p.ty.round p.rm (if p.rm = .sr then drawWord p.key p.ctr id else 0) v

/-- The writes of readout group `g` into physical register `d` (08 R172): every lane; those past column 127 are +0. -/
def MRead.writes (p : MRead) (d g : Nat) (rows : List (BitVec 12288)) : List RowW :=
  rows.zipIdx.map (fun x =>
    let r := 4 * g + x.2
    let es := (unpackNat 96 x.1.toNat 128).zipIdx.map (fun y => p.elem y.1 r y.2)
    ⟨16 * d + r, BitVec.allOnes 4096, BitVec.ofNat 4096 (packNat p.ty.width es)⟩)

/-- Issues a readout of rows 16b to 16b + 15: a PENDING accumulator is a schedule violation; occupancy 4 (08 R172, R174). -/
def Ctx.mread (c : Ctx) (s : State) (m : Bool) (b : Nat) (d : BitVec 4) (p : MRead) : Iss :=
  if c.run.pending c.tile m c.t then .stop s 3 0 0 0
  else
    let s := if p.rm = .sr then c.drawn s else s
    .done (c.emit s ([0, 1, 2, 3].map (fun g =>
      c.eff (16 + g) (.mread p (c.phys d) g ([0, 1, 2, 3].map (fun i => c.tl.accRow m (16 * b + 4 * g + i)))) g))) 4

/-- MREAD: bands 1.0, RNE, origin 0 (08 R172). -/
def execMread (h : Head) (t : ETy) (d a b : BitVec 4) (s : State) : Out :=
  issue (.mread h t d a b) s (fun c =>
    c.mread s (a = 1) b.toNat d ⟨t, .rne, 0x3F80, 0x3F80, 0x3F80, BitVec.ofNat 32 (16 * b.toNat), 0, 0, 0⟩)

/-- The MREAD form (08 R172, R173). -/
def execMreadForm (h : HeadP) (g : BitVec 3) (rm : RMode) (acc : Bool) (greg : BitVec 4)
    (bandB1 bandB0 bandA : BitVec 16) (b : BitVec 2) (t : ETy) (td : BitVec 4) (s : State) : Out :=
  issue (.mreadForm h g rm acc greg bandB1 bandB0 bandA b t td) s (fun c =>
    let o := c.rd greg
    c.mread s acc b.toNat td
      ⟨t, rm, bandA, bandB0, bandB1, o.extractLsb' 32 32 + BitVec.ofNat 32 (16 * b.toNat), o.extractLsb' 0 32, c.tl.key,
        c.tl.drawCtr⟩)

/-- The rows of group `g` that MADDW reads (08 R175). -/
def maddwRows (tl : Tile) (a g : Nat) : List (BitVec 4096) := [0, 1, 2, 3].map (fun i => tl.row a (4 * g + i))

/-- MADDW: 512 W96 elements of ta into rows 4j to 4j + 3; occupancy 4 (08 R175). -/
def execMaddw (h : Head) (d a j : BitVec 4) (s : State) : Out :=
  issue (.maddw h d a j) s (fun c =>
    let m : Bool := d = 1
    let r := c.phys a
    let row := 4 * j.toNat
    .done (c.emit s (c.eff 8 (.maddw m row (maddwRows c.tl r 0)) ::
      [1, 2, 3].map (fun g => c.eff g (.maddwRd m (row + g) r g) g))) 4)

/-- The W96 lanes of a quarter of an accumulator row (08 R176). -/
def pushRow (acc : BitVec 12288) (i : Nat) : BitVec 4096 :=
  BitVec.ofNat 4096 (packNat 128 (((unpackNat 96 acc.toNat 128).drop (32 * i)).take 32 |>.map
    (fun e => (w96Store (BitVec.ofNat 96 e)).toNat)))

/-- MPUSH: rows 4j to 4j + 3 into td as W96, its sets zero; occupancy 4 (08 R174, R176). -/
def execMpush (h : Head) (d a j : BitVec 4) (s : State) : Out :=
  issue (.mpush h d a j) s (fun c =>
    let m : Bool := a = 1
    if c.run.pending c.tile m c.t then .stop s 3 0 0 0
    else
      let r := c.phys d
      .done (c.emit s ([0, 1, 2, 3].map (fun g =>
        let acc := c.tl.accRow m (4 * j.toNat + g)
        c.eff (16 + g) (.rows ([0, 1, 2, 3].map (fun i => ⟨16 * r + 4 * g + i, BitVec.allOnes 4096, pushRow acc i⟩))
          [(8 * r + 2 * g, 0), (8 * r + 2 * g + 1, 0)]) g))) 4)

/-- MSTAT: PEND and SAT to s[d] at T + 1, and with clr a clear of SAT at T + 1 (08 R177). -/
def execMstat (h : Head) (d a : BitVec 4) (clr : Bool) (s : State) : Out :=
  issue (.mstat h d a clr) s (fun c =>
    let m : Bool := a = 1
    let sat := if m then c.tl.sat1 else c.tl.sat0
    let v : Word := 0#62 ++ BitVec.ofBool (c.run.pending c.tile m c.t) ++ BitVec.ofBool sat
    .done (c.emit s (c.eff 1 (.reg d v) :: (if clr then [c.eff 1 (.msatClr m) 1] else []))) 1)

end Sys2Proof.Machine
end

