-- ==== Sys2Proof/Machine/Stores.lean ====
section
/-! DEFINITION. The store stream's instructions and forms (06 R125 to R134, 13 R247): their checks at issue, in the order of
R126, and the effects they put in flight. -/

namespace Sys2Proof.Machine

/-! ## Scratchpad stores -/

/-- The key of a store queue. -/
def sqKey (q : Nat) : Nat := 4 + q

/-- STQ: pops the queue and writes the entry at T + 4 + h (06 R126). -/
def execStq (h : Head) (q a : BitVec 4) (s : State) : Out :=
  issue (.stq h q a) s (fun c =>
    match c.spad (c.rd a) with
    | none => c.addrFault s (c.rd a)
    | some (j, off, hops) =>
      match c.tl.pop (sqKey q.toNat) with
      | none => .stop s 3 0 (c.rd a) 0
      | some (ent, _) =>
        .done (c.emit (c.popped s (sqKey q.toNat)) [mkEff c.org (c.t + 4 + hops) j (.bankWr (.stq off ent))]) 1)

/-- STT: the inverse of LDT, at T + 8 (06 R126). -/
def execStt (h : Head) (q a b : BitVec 4) (s : State) : Out :=
  issue (.stt h q a b) s (fun c =>
    match c.block a b with
    | none => c.addrFault s (c.rd a)
    | some off =>
      match c.tl.pop (sqKey q.toNat) with
      | none => .stop s 3 0 (c.rd a) 0
      | some (ent, _) =>
        if tagScaled ent.tag then c.addrFault s (c.rd a)
        else .done (c.emit (c.popped s (sqKey q.toNat)) [c.eff 8 (.bankWr (.stt off (c.rd b).toNat ent))]) 1)

/-- SCAT: pops the queue, reads the index line at T + 1, writes at T + 6 (06 R126). -/
def execScat (h : Head) (q a b : BitVec 4) (s : State) : Out :=
  issue (.scat h q a b) s (fun c =>
    match c.spad (c.rd b) true with
    | none => c.addrFault s (c.rd b)
    | some (_, off, _) =>
      match c.tl.pop (sqKey q.toNat) with
      | none => .stop s 3 0 (c.rd a) 0
      | some (ent, _) =>
        .done (c.emit (c.popped s (sqKey q.toNat)) [c.eff 1 (.bankRd (.scatIdx (c.rd a) off ent) false)]) 1)

/-- STX and STXO: eight bytes of s[d] (06 R127). -/
def storeWord (c : Ctx) (s : State) (d : BitVec 4) (v : Word) : Iss :=
  match c.spad v false 8 8 with
  | none => c.addrFault s v
  | some (j, off, hops) => .done (c.emit s [mkEff c.org (c.t + 4 + hops) j (.bankWr (.stx off (c.rd d)))]) 1

/-- STX (06 R127). -/
def execStx (h : Head) (d a : BitVec 4) (s : State) : Out := issue (.stx h d a) s (fun c => storeWord c s d (c.rd a))

/-- STXO (06 R127). -/
def execStxo (h : Head) (d a : BitVec 4) (off : BitVec 10) (s : State) : Out :=
  issue (.stxo h d a off) s (fun c =>
    match offsetAddr (c.rd a) off with
    | none => c.addrFault s (c.rd a)
    | some v => storeWord c s d v)

/-- SSTRM: pops and writes one entry per tick; the first pop is at issue (06 R128). -/
def execSstrm (h : HeadP) (g : BitVec 3) (q : BitVec 2) (areg : BitVec 4) (stride cnt : BitVec 16) (s : State) : Out :=
  issue (.sstrm h g q areg stride cnt) s (fun c =>
    let base := c.rd areg
    let st := stride.toInt
    match (List.range cnt.toNat).find? (fun k => (c.spad (formAddr base st k)).isNone) with
    | some k => c.addrFault s (formAddr base st k)
    | none =>
      match c.spad base with
      | none => c.addrFault s base
      | some (j, off, hops) =>
        match c.tl.pop (sqKey q.toNat) with
        | none => .stop s 3 0 base 0
        | some (ent, _) =>
          let first := mkEff c.org (c.t + 4 + hops) j (.bankWr (.stq off ent))
          let rest := if cnt.toNat ≤ 1 then [] else [c.eff 1 (.sstrm q.toNat base st 1 (cnt.toNat - 1)) 1]
          .done (c.emit (c.popped s (sqKey q.toNat)) (first :: rest)) 1)

/-- SSTOP: removes entries from the head of a store queue and ends a running SSTRM's pops (06 R130). -/
def execSstop (h : Head) (q : BitVec 4) (n : BitVec 8) (s : State) : Out :=
  issue (.sstop h q n) s (fun c =>
    let es := c.tl.queue (sqKey q.toNat)
    if es.length < n.toNat then .stop s 3 0 0 0
    else
      let s := c.onTile s (fun tl => tl.setQueue (sqKey q.toNat) (if n = 0 then [] else es.drop n.toNat))
      .done (s.setRegion c.rid ((s.region c.rid).modRun (fun run =>
        { run with effs := run.effs.filter (fun e => match e.act with
            | .sstrm p _ _ _ _ => !(e.org.tile == c.tile && p == q.toNat)
            | _ => true) }))) 1)

/-! ## Words on circuits (06 R129, 13 R247) -/

/-- The circuit a SEND or SENDX may offer a word to: it has a record, this tile is its source, and fewer than four of its
words wait to depart. -/
def Ctx.circuit (c : Ctx) (n : Nat) : Option Circ :=
  match c.run.img.circ n with
  | none => none
  | some x => if x.src c.r.w = c.tile ∧ (c.run.waitingWords n).length < 4 then some x else none

/-- SEND: the line at s[a], read at T, to circuit c (06 R129). DEDUCED: the circuit is looked at before the address (log 18). -/
def execSend (h : Head) (n : BitVec 8) (a : BitVec 4) (s : State) : Out :=
  issue (.send h n a) s (fun c =>
    match c.circuit n.toNat with
    | none => .stop s 3 0 (c.rd a) 0
    | some _ =>
      match c.spad (c.rd a) true with
      | none => c.addrFault s (c.rd a)
      | some (_, off, _) => .done (c.emit s [c.eff 0 (.bankRd (.send n.toNat off) false)]) 1)

/-- SENDX: s[a] as bytes 0 to 7 of a word to circuit c (06 R129). -/
def execSendx (h : Head) (n : BitVec 8) (a : BitVec 4) (s : State) : Out :=
  issue (.sendx h n a) s (fun c =>
    match c.circuit n.toNat with
    | none => .stop s 3 0 0 0
    | some x =>
      .done (s.setRegion c.rid ((s.region c.rid).modRun (fun run =>
        run.offer x c.org c.r.w c.r.h c.t ((c.rd a).zeroExtend 512)))) 1)

/-! ## Timed HBM4E access (06 R131 to R134) -/

/-- Whether a store's lines meet a range that was sealed when the step started (16 R277). -/
def Ctx.trapped (c : Ctx) (lines : List Word) : Bool :=
  lines.any (fun va => sealedIn c.run.sealed0 (BitVec.ofNat 64 (va.toNat / 64 * 64)) 64)

/-- A line of an entry (06 R113). -/
def QEntry.line (e : QEntry) (k : Nat) : BitVec 512 := e.pay.extractLsb' (512 * k) 512

/-- A scale line of an entry. -/
def QEntry.sideLine (e : QEntry) (k : Nat) : BitVec 512 := e.side.extractLsb' (512 * k) 512

/-- STM: pops the queue and writes payload and scales; its checks in the order of R126 (06 R131, R133).
DEDUCED: log 18. -/
def execStm (h : Head) (q a b : BitVec 4) (s : State) : Out :=
  issue (.stm h q a b) s (fun c =>
    let va := c.rd a
    let first := (List.range 8).map (fun k => va + BitVec.ofNat 64 (64 * k))
    if !s.vaTimed va 512 then c.addrFault s va
    else if c.trapped first then .stop s 6 0 va 0
    else
      match c.tl.pop (sqKey q.toNat) with
      | none => .stop s 3 0 va 0
      | some (ent, _) =>
        let lines := entryLines va (c.rd b) ent.tag b
        if !s.entryAligned va (c.rd b) ent.tag b then c.addrFault s (c.badAddr s ent.tag a b)
        else if c.trapped lines then .stop s 6 0 va 0
        else
          let np := tagLines ent.tag
          match c.request s va lines np .none
            (fun k => .write 0 64 (if k < np then ent.line k else ent.sideLine (k - np))) with
          | .done s occ => .done (c.popped s (sqKey q.toNat)) occ
          | r => r)

/-- A store or atomic of `n` bytes inside one line (06 R131). -/
def Ctx.storeLine (c : Ctx) (s : State) (va : Word) (n : Nat) (dest : Dest) (op : ChanOp) : Iss :=
  if !s.vaTimed va n then c.addrFault s va
  else if c.trapped [va] then .stop s 6 0 va 0
  else c.request s va [va] 1 dest (fun _ => op)

/-- STXM: eight bytes of s[d] to memory (06 R133). -/
def execStxm (h : Head) (d a : BitVec 4) (s : State) : Out :=
  issue (.stxm h d a) s (fun c =>
    let va := c.rd a
    c.storeLine s va 8 .none
      (.write (va.toNat % 64) 8 ((c.rd d).zeroExtend 512 <<< (8 * (va.toNat % 64)))))

/-- ATOM (06 R134). -/
def execAtom (h : Head) (op : AtomOp) (a b : BitVec 4) (s : State) : Out :=
  issue (.atom h op a b) s (fun c =>
    let va := c.rd a
    c.storeLine s va (if op = .add128 then 16 else 8) .none (.atom op (va.toNat % 64) (c.rd b) (c.rd (b + 1))))

/-- ATOMF: as ATOM, and the old value to s[d] at T + L (06 R134). -/
def execAtomf (h : Head) (op : AtomfOp) (d a b : BitVec 4) (s : State) : Out :=
  issue (.atomf h op d a b) s (fun c =>
    let va := c.rd a
    c.storeLine s va 8 (.reg d (va.toNat % 64)) (.atomf op (va.toNat % 64) (c.rd b) (c.rd (b + 1))))

end Sys2Proof.Machine
end

