-- ==== Sys2Proof/Machine/Tick.lean ====
section
/-! DEFINITION. What falls due in a running step: landings, appends, running forms, channel accesses and their answers, words
on circuits, the ends of waits (01 R14, R17; 05 R72, R81; 06 R114, R122, R128, R132 to R134; 13 R247 to R249). -/

namespace Sys2Proof

/-- What ATOM leaves of an old value (06 R134). -/
def AtomOp.newValue (op : AtomOp) (old x : Word) : Word :=
  match op with
  | .add64 | .add128 => old + x
  | .min64 => if x.slt old then x else old
  | .max64 => if old.slt x then x else old
  | .minu64 => if x.ult old then x else old
  | .maxu64 => if old.ult x then x else old
  | .and64 => old &&& x
  | .or64 => old ||| x
  | .xor64 => old ^^^ x

/-- What ATOMF leaves of an old value (06 R134). -/
def AtomfOp.newValue (op : AtomfOp) (old x y : Word) : Word :=
  match op with
  | .add64 => old + x
  | .swap64 => x
  | .cas64 => if old = x then y else old

end Sys2Proof

namespace Sys2Proof.Machine

/-! ## Landings (01 R14, 05 R81, 07 R143) -/

/-- A row with the masked bits of a write. -/
def RowW.over (w : RowW) (old : BitVec 4096) : BitVec 4096 := (old &&& ~~~w.mask) ||| (w.val &&& w.mask)

/-- A row as it was before the writes of this tick. -/
def Tile.rowBefore (t : Tile) (key : Nat) : BitVec 4096 :=
  match t.before.find? (fun x => x.1 == t.tick && x.2.1 == key) with
  | some x => x.2.2
  | none => tabGet 0 t.rows key

/-- The tile with rows and sets written. A row that a write of an earlier-issued instruction reached in this tick has nothing of it:
bits that are not written are as before the tick (07 R143). DEDUCED: a write whose mask enables no lane of a row reaches it all the same
(log 19). -/
def Tile.putRows (t : Tile) (ws : List RowW) (sets : List (Nat × BitVec 1024)) : Tile :=
  { t with rows := ws.foldl (fun m w => tabSet 0 m w.key (w.over (t.rowBefore w.key))) t.rows,
           before := ws.map (fun w => (t.tick, w.key, t.rowBefore w.key)) ++
             t.before.filter (fun x => x.1 == t.tick && !ws.any (fun w => w.key == x.2.1)),
           sets := sets.foldl (fun m x => tabSet 0 m x.1 x.2) t.sets }

/-- A control register after SETC or a DKEY form's write (05 R78, R79): STICKY.DRIFTW is write-one-to-clear. -/
def Tile.putCtrl (t : Tile) (n : BitVec 8) (v : Word) : Tile :=
  match n with
  | 0x07 => if v.getLsbD 0 then { t with driftw := false } else t
  | 0x10 => { t with drawCtr := v }
  | 0x11 => { t with drawId := v }
  | _ => t

/-- A tile after an effect of its own lands. -/
def Tile.land (t : Tile) (k : SeqKind) (a : Act) : Tile :=
  match a with
  | .reg d v => let x := t.stream k; t.setStream k { x with s := regSet x.s d v }
  | .form f v => let x := t.stream k; t.setStream k { x with forms := tabSet 0 x.forms f v }
  | .rows ws sets => t.putRows ws sets
  | .pmask p v => if p = 0 then t else { t with masks := tabSet 0 t.masks p v }
  | .ctrl n v => t.putCtrl n v
  | .driftw => { t with driftw := true }
  | .key v => { t with key := v }
  | .fmt b f => { t with banks := tabSet 0x0F t.banks b ((t.bank b).extractLsb' 4 4 ++ f) }
  | .mclr m => t.mclr m
  | .msatClr m => if m then { t with sat1 := false } else { t with sat0 := false }
  | .mread p d g rows => t.putRows (p.writes d g rows) []
  | .maddw m row rows => t.maddw m row rows
  | .mmaAdd m aty bty aRow aSet aHi b0 b1 s0 s1 => t.mmaAdd m aty bty aRow aSet aHi b0 b1 s0 s1
  | _ => t

/-- Whether an effect is a landing of RESULT_WRITEBACK. -/
def Act.isLanding : Act → Bool
  | .reg _ _ | .form _ _ | .rows _ _ | .pmask _ _ | .ctrl _ _ | .driftw | .key _ | .fmt _ _ | .mclr _ | .msatClr _
  | .mread _ _ _ _ | .maddw _ _ _ | .front _ _ | .fault _ _ _ => true
  | _ => false

/-- FRONT of a counter at tick `t` after a CNTS; the change is noted for reads at earlier ticks (12 R231). -/
def Region.setFront (r : Region) (c t tile : Nat) (v : Word) : Region :=
  let x := r.ctr c
  let r := r.modRun (fun run => { run with fronts := run.fronts ++ [(c, t - 1, tile, x.front, x.st == .bound)] })
  r.setCtr c { x with front := v }

/-- The state after a landing. -/
def State.landing (s : State) (rid : Nat) (e : Eff) : State :=
  match e.act with
  | .front c v => s.setRegion rid ((s.region rid).setFront c e.due e.tile v)
  | .fault cls cause addr => s.raise rid (e.org.fault e.due cls cause addr)
  | a => s.setRegion rid ((s.region rid).modTile e.tile (fun t => t.land e.org.k a))

/-- RESULT_WRITEBACK (01 R14). -/
def execResultWriteback (rid : Nat) (s : State) : Out :=
  onEffect s rid Act.isLanding (fun s e => .next (s.landing rid e))

/-- MMA_BLOCK_ADD: the increments of a K-block (08 R166, R167, R170). -/
def execMmaBlockAdd (rid : Nat) (s : State) : Out :=
  onEffect s rid
    (fun a => match a with
      | .mmaAdd _ _ _ _ _ _ _ _ _ _ => true
      | _ => false)
    (fun s e => .next (s.landing rid e))

/-! ## Queues (01 R17, 06 R114) -/

/-- An entry lands in a queue: it is appended, or, where the residue check is armed, it is a residue fault and is discarded
(01 R17). A count above sixteen is judged after the tick's pops. `addr` is the address that brought the entry (00 R11). -/
def State.append (s : State) (rid : Nat) (e : Eff) (q : Nat) (ent : QEntry) (addr : Word) : State :=
  let r := s.region rid
  match r.tiles[e.tile]? with
  | none => s
  | some t =>
    if t.armed then s.raise rid (t.residueFault e.tile q e.due)
    else
      let xs := t.queue q ++ [⟨ent, e.org, e.due, addr⟩]
      let r := r.setTile e.tile (t.setQueue q xs)
      s.setRegion rid (if xs.length ≤ 16 then r else r.modRun (fun run => run.add (mkEff e.org e.due e.tile (.trim q))))

/-- A queue with more than sixteen entries loses the last one, a schedule violation of its pusher (06 R114). -/
def State.trim (s : State) (rid : Nat) (e : Eff) (q : Nat) : State :=
  let r := s.region rid
  match r.tiles[e.tile]? with
  | none => s
  | some t =>
    let xs := t.queue q
    match xs.getLast? with
    | some x =>
      if 16 < xs.length then
        (s.setRegion rid (r.setTile e.tile (t.setQueue q xs.dropLast))).raise rid (x.org.fault e.due 3 0 x.addr)
      else s
    | none => s

/-- The entry that an LDM brings: a scaled tag without scale lines has every scale byte 0x60 (06 R133). -/
def Req.entry (q : Req) (tag : BitVec 4) : QEntry :=
  let at' (k : Nat) : Nat := match q.got.find? (fun x => x.1 == k) with
    | some x => x.2.toNat
    | none => 0
  let pay := packNat 512 ((List.range q.npay).map at')
  let side :=
    if q.npay < q.nline then at' q.npay ||| (at' (q.npay + 1) <<< 512)
    else if tagScaled tag then packFn 8 128 (fun _ => 0x60)
    else 0
  ⟨BitVec.ofNat 8192 pay, BitVec.ofNat 1024 side, tag⟩

/-- An HBM4E request ends at T + L: its data lands, or the first failure of its lines is a memory fault (06 R132, R134). A
dropped request answers nothing; a stopped one pushes nothing. -/
def State.response (s : State) (rid : Nat) (e : Eff) (id : Nat) : State :=
  let r := s.region rid
  match r.run with
  | none => s
  | some run =>
    match run.reqs.find? (fun q => q.id == id) with
    | none => s
    | some q =>
      let s := s.setRegion rid (r.modRun (fun run => { run with reqs := run.reqs.filter (fun q => q.id != id) }))
      if q.dropped then s
      else
        match q.fail with
        | some (cause, i) => s.raise rid (e.org.fault e.due 5 cause q.addr 0 i)
        | none =>
          match q.dest with
          | .none => s
          | .reg d lo =>
            let v := match q.got.head? with
              | some x => x.2.extractLsb' (8 * lo) 64
              | none => 0
            s.setRegion rid ((s.region rid).modTile e.tile (fun t => t.land e.org.k (.reg d v)))
          | .queue k tag => if q.stopped then s else s.append rid e k (q.entry tag) q.addr

/-- QUEUE_APPEND: an entry lands in a queue, or an overflow of the tick is judged (06 R114). -/
def execQueueAppend (rid : Nat) (s : State) : Out :=
  onEffect s rid
    (fun a => match a with
      | .push _ _ _ | .trim _ => true
      | _ => false)
    (fun s e => match e.act with
      | .push q ent addr => .next (s.append rid e q ent addr)
      | .trim q => .next (s.trim rid e q)
      | _ => .fault .notDue)

/-- MEMORY_RESPONSE (06 R132, R133). -/
def execMemoryResponse (rid : Nat) (s : State) : Out :=
  onEffect s rid
    (fun a => match a with
      | .resp _ _ => true
      | _ => false)
    (fun s e => match e.act with
      | .resp id _ => .next (s.response rid e id)
      | _ => .fault .notDue)

/-! ## Running forms and row groups (06 R122, R128; 07 R140; 08 R170, R175) -/

/-- The continuation of a running form one tick later. -/
def Eff.again (e : Eff) (act : Act) : Eff := mkEff e.org (e.due + 1) e.tile act (e.sub + 1)

/-- The state with effects added to a region's running step. -/
def State.emit (s : State) (rid : Nat) (es : List Eff) : State :=
  s.setRegion rid ((s.region rid).modRun (fun run => run.addAll es))

/-- A read, pop, block or row group of an instruction that goes on by itself. -/
def State.formStep (s : State) (rid : Nat) (e : Eff) : State :=
  let r := s.region rid
  match r.tiles[e.tile]?, r.run with
  | some t, some run =>
    match e.act with
    | .vec op env g => s.emit rid (vecLandings e.org op env g t)
    | .maddwRd m row a g => s.emit rid [mkEff e.org (e.due + 8) e.tile (.maddw m row (maddwRows t a g)) e.sub]
    | .mmaBlk m aty bty ta tb arow bpair left =>
      s.emit rid (mkEff e.org (e.due + 8) e.tile (mmaRead t m aty bty ta tb arow bpair) e.sub ::
        (if left ≤ 1 then []
         else [e.again (.mmaBlk m aty bty ta tb (arow + kStride aty) (bpair + kStride bty) (left - 1))]))
    | .lstrm q addr stride k left =>
      match r.spad run.img.seam e.tile (formAddr addr stride k) false 64 512 false with
      | none => s
      | some (j, off, hops) =>
        s.emit rid (mkEff e.org (e.due + 1 + hops) j (.bankRd (.ldq q off (e.due + 6 + 2 * hops)) false) e.sub ::
          (if left ≤ 1 then [] else [e.again (.lstrm q addr stride (k + 1) (left - 1))]))
    | .sstrm q addr stride k left =>
      match r.spad run.img.seam e.tile (formAddr addr stride k) false 64 64 false, t.pop (sqKey q) with
      | some (j, off, hops), some (ent, t) =>
        let s := s.setRegion rid (r.setTile e.tile t)
        if left = 0 then s
        else s.emit rid (mkEff e.org (e.due + 4 + hops) j (.bankWr (.stq off ent)) e.sub ::
          (if left ≤ 1 then [] else [e.again (.sstrm q addr stride (k + 1) (left - 1))]))
      | _, _ => s.raise rid (e.org.fault e.due 3 0 (formAddr addr stride k)) e.sub
    | _ => s
  | _, _ => s

/-- RUNNING_FORM_STEP (06 R122, R128; 08 R170). -/
def execRunningFormStep (rid : Nat) (s : State) : Out :=
  onEffect s rid
    (fun a => match a with
      | .vec _ _ _ | .maddwRd _ _ _ _ | .mmaBlk _ _ _ _ _ _ _ _ | .lstrm _ _ _ _ _ | .sstrm _ _ _ _ _ => true
      | _ => false)
    (fun s e => .next (s.formStep rid e))

/-! ## Channel accesses (06 R132, R134; 12 R238; 16 R270; 17 R285) -/

/-- Whether tile `tile` acquired operation `n` of a counter before tick `t`. -/
def Run.acquired (run : Run) (tile : Nat) (c : Option Nat) (n : Word) (t : Nat) : Bool :=
  match c with
  | none => false
  | some c => run.acqs.any (fun q => q.tile == tile && q.c == c && decide (n.toNat ≤ q.n.toNat) && decide (q.tick < t))

/-- Whether an access issued at tick `t`, with its channel tick at `u`, touches a line of an operation that its task issued before `u`
and had not acquired before `t` (12 R238). -/
def Region.unacquired (r : Region) (run : Run) (tile t u : Nat) (va : Word) : Bool :=
  run.copies.any (fun o =>
    o.tile == tile && decide (o.issue < u) && (o.src.holdsLine o.len va || o.dst.holdsLine o.dlen va) &&
      !run.acquired tile o.ctr o.num t) ||
  r.colls.any (fun o => o.parts.any (fun p =>
    p.tile == tile && decide (p.issue < u) && p.ranges.any (fun x => x.loc.holdsLine x.n va) &&
      !run.acquired tile (some o.ctr) o.num t))

/-- The kind of an access in R285's table, and its F code. -/
def ChanOp.kind : ChanOp → Nat × Nat
  | .read => (0, 0)
  | .write _ _ _ => (1, 0)
  | .atom op _ _ _ => (2, op.code.toNat)
  | .atomf _ _ _ _ => (3, 0)

/-- Whether an access writes. -/
def ChanOp.writes : ChanOp → Bool
  | .read => false
  | _ => true

/-- Whether an access needs what the line held. -/
def ChanOp.needsLine : ChanOp → Bool
  | .write _ n _ => decide (n ≠ 64)
  | _ => true

/-- What an access writes into a line that holds `old`: offset, bytes, value. -/
def ChanOp.store (op : ChanOp) (old : BitVec 512) : Option (Nat × Nat × Nat) :=
  match op with
  | .read => none
  | .write lo n v => some (lo, n, v.toNat >>> (8 * lo))
  | .atom op lo x y =>
    if op = .add128 then
      some (lo, 16, ((old.extractLsb' (8 * lo) 128) + (y ++ x)).toNat)
    else some (lo, 8, (op.newValue (old.extractLsb' (8 * lo) 64) x).toNat)
  | .atomf op lo x y => some (lo, 8, (op.newValue (old.extractLsb' (8 * lo) 64) x y).toNat)

/-- The state with a request changed. -/
def State.modReq (s : State) (rid id : Nat) (f : Req → Req) : State :=
  s.setRegion rid ((s.region rid).modRun (fun run =>
    { run with reqs := run.reqs.map (fun q => if q.id == id then f q else q) }))

/-- A line of a request, of channel-set index `i`, fails; the first failure is the one that is reported (16 R270). -/
def State.failReq (s : State) (rid id cause i : Nat) : State :=
  s.modReq rid id (fun q => { q with fail := some (q.fail.getD (cause, i)) })

/-- A line access that has its channel tick: the checks of R270 in the order outside, write, unacquired, stamp, lost
granule, and then the access itself (16 R270, 17 R285, R289). DEDUCED: log 17. -/
def State.serve (s : State) (rid : Nat) (e : Eff) (id pos : Nat) (va : Word) (op : ChanOp) : State :=
  let r := s.region rid
  match r.run with
  | none => s
  | some run =>
    let i := r.lineIdx run.img.foot e.org.tile va
    match (if s.inHome rid va then tlbFind run.img.tlb va else none) with
    | none => s.failReq rid id 1 i
    | some tlb =>
      let (kind, aop) := op.kind
      let key := r.keyThrough tlb e.org.tile va / 64 * 64
      let l := key / 64
      if op.writes && !tlb.w then s.failReq rid id 2 i
      else if r.unacquired run e.org.tile e.org.issue e.due va then s.failReq rid id 6 i
      else
        match judgeAt run.sealed0 va (tabGet 0 s.mem.stamps l) run.epoch kind aop e.org.tile with
        | none => s.failReq rid id 3 i
        | some stamp =>
          let (s, ok) := if op.needsLine then s.eccRead rid e.due tlb.size key va else (s, true)
          if !ok then s.failReq rid id 4 i
          else
            let old := s.mem.line l
            let undo := undoAdd run.undo s.mem l (decide (2 ≤ kind))
            let fresh := undoAdd run.fresh s.mem l false
            let mem := { s.mem with stamps := tabSet 0 s.mem.stamps l stamp }
            let s := { s.keepLine rid l with mem := mem }
            let s := match op.store old with
              | none => s
              | some (lo, n, v) =>
                { s.setRegion rid ((s.region rid).modRun (fun run => { run with undo := undo, fresh := fresh })) with
                  mem := mem.setBytes (key + lo) n v }
            match op with
            | .write _ _ _ => s
            | _ => s.modReq rid id (fun q => { q with got := q.got ++ [(pos, old)] })

/-- The least region tick that a tile of the region stands at. -/
def Region.leastTick (r : Region) : Nat := (r.tiles.map (·.tick)).foldl min tickMax

/-- The bars that a claim asks for which comes too late: a COPY or COLL of another tile, of that channel tick or a later one, was tried
that names the line, or for which a claim was judged that had the channel tick for a higher tile, or that comes after this one on its
line, not both of them reads. That tile then waits for the claim's tile. DEDUCED: log 31. -/
def Region.lateClaim (r : Region) (run : Run) (ch : Nat) (e : Eff) (va : Word) (op : ChanOp) : List Bar :=
  match r.mark with
  | none => []
  | some m =>
    let judged := (run.chans.filter (fun x =>
        (x.ch == ch && x.tick == e.due && decide (e.org.tile < x.tile)) ||
        (x.line == va.toNat / 64 && decide (e.due < x.tick) && !(x.read && !op.writes)))).map
      (fun x => (x.tick, (BitVec.ofNat 64 (64 * x.line) : Word)))
    r.newBars ((m.tried.filter (fun p => p.tile != e.org.tile &&
        ((decide (e.due ≤ p.tick) && p.ranges.any (fun a => a.covers va && (a.w || op.writes))) ||
          judged.any (fun x => decide (x.1 ≤ p.tick) && p.judged.any (fun a => a.covers x.2))))).map
      (fun p => { tile := p.tile, tick := p.tick, behind := e.org.tile, upto := p.tick - 8 }))

/-- CHANNEL_ACCESS: a line request claims its channel tick; the lowest tile has it, the others are refused (06 R132). A claim that
comes too late is only noted: the step goes back (02 R27). DEDUCED: log 17. -/
def execChannelAccess (rid : Nat) (s : State) : Out :=
  onEffect s rid
    (fun a => match a with
      | .chan _ _ _ _ => true
      | _ => false)
    (fun s e => match e.act with
      | .chan id pos va op =>
        let r := s.region rid
        match r.run with
        | none => .fault .notDue
        | some run =>
          let ch := r.chanOf run.img.foot e.org.tile va
          let late := r.lateClaim run ch e va op
          if !late.isEmpty then
            .next (s.setRegion rid { r with mark := r.mark.map (fun m => { m with late := m.late ++ late }) })
          else if run.chans.any (fun x => x.ch == ch && x.tick == e.due) then .next (s.failReq rid id 5 (r.lineIdx run.img.foot e.org.tile va))
          else
            let chans := ⟨ch, e.due, e.org.tile, va.toNat / 64, !op.writes⟩ :: run.chans.filter (fun x => decide (r.leastTick ≤ x.tick))
            .next ((s.setRegion rid { r with run := some { run with chans := chans } }).serve rid e id pos va op)
      | _ => .fault .notDue)

/-! ## Words on circuits (13 R247 to R249) -/

/-- The logical side from which a circuit's words arrive at a destination (10 R196): rows are gone along first, then
columns. -/
def Circ.arrives (c : Circ) (w dest : Nat) : Src :=
  let x := dest % w
  let y := dest / w
  if c.y0 < y then .north
  else if y < c.y0 then .south
  else if c.x0 < x then .west
  else if x < c.x0 then .east
  else .loc

/-- A word that is due at a tile inside the window of a DRIFT: that DRIFT was not idle, accelerated still or not (20 R316). -/
def Region.endsDrift (r : Region) (e : Eff) : Region :=
  r.modTile e.tile (fun t => match t.drift with
    | some (a, b, _) => if a ≤ e.due ∧ e.due ≤ b then { t with driftw := true, drift := none } else t
    | none => t)

/-- WORD_DEPARTURE: an offered word departs; it is due at every destination (13 R247, R248). -/
def execWordDeparture (rid : Nat) (s : State) : Out :=
  onEffect s rid
    (fun a => match a with
      | .depart _ _ => true
      | _ => false)
    (fun s e => match e.act with
      | .depart n line =>
        let r := s.region rid
        match r.run with
        | none => .fault .notDue
        | some run =>
          match run.img.circ n with
          | none => .fault .notDue
          | some c =>
            let run := { run with lastDep := tabSet 0 run.lastDep n (e.due + 1) }
            let words := (c.dests run.img r.w r.h).map (fun d =>
              mkEff e.org (e.due + c.latTo run.img.seam r.w d) d (.word n line (c.arrives r.w d)) d)
            .next (s.setRegion rid (words.foldl Region.endsDrift { r with run := some (run.addAll words) }))
      | _ => .fault .notDue)

/-- The fault of a word that nothing takes: against the load stream, at the PC of the word it issues at that tick, or issues
next, or of its END; a FAULTED load stream takes none (13 R249). -/
def Tile.discardFault (t : Tile) (tile tick : Nat) : Option FaultRec :=
  let x := t.ld
  let f (issue pc : Nat) : FaultRec := ⟨tick, tile, 0, issue, 3, 0, pc, x.wordAt pc, 0, 0, 0⟩
  if x.st == .faulted then none
  else if x.lastTick = some tick then some (f tick x.lastPc)
  else if x.st == .ended then some (f (x.lastTick.getD 0) x.endPc)
  else some (f tick x.pc)

/-- WORD_DUE: a word that no RECV or RECVX took at its tick is discarded (13 R249). -/
def execWordDue (rid : Nat) (s : State) : Out :=
  onEffect s rid
    (fun a => match a with
      | .word _ _ _ => true
      | _ => false)
    (fun s e =>
      match (s.region rid).tiles[e.tile]? with
      | none => .fault .notDue
      | some t =>
        match t.discardFault e.tile e.due with
        | some f => .next (s.raise rid f)
        | none => .next s)

/-! ## Waits and the tick bound (05 R72, R96, R97; 20 R316) -/

/-- WAIT_END: the target tick of a WAITT, WAITD or DRIFT is reached: the stream is RUNNING (05 R69). -/
def execWaitEnd (rid : Nat) (s : State) : Out :=
  let r := s.region rid
  match r.pick with
  | some (u, .waitEnd tile k) =>
    .next (s.setRegion rid ((r.advance u).modTile tile (fun t =>
      let t := if k = .ctl then { t with drift := none } else t
      t.setStream k { t.stream k with st := .running })))
  | _ => .fault .notDue

/-- TICK_BOUND: a stream that is live at the last tick overruns, at the PC of the word it would issue next (05 R72). -/
def execTickBound (rid : Nat) (s : State) : Out :=
  let r := s.region rid
  match r.pick with
  | some (u, .bound tile k) =>
    match r.tiles[tile]? with
    | some t =>
      let x := t.stream k
      .next (s.setRegion rid ((r.advance u).raise ⟨u, tile, k.num, u, 4, 0, x.pc, x.wordAt x.pc, 0, 0, 0⟩))
    | none => .fault .notDue
  | _ => .fault .notDue

end Sys2Proof.Machine
end

