-- ==== Sys2Proof/Machine/Image.lean ====
section
/-! DEFINITION. Step images: the header, sections and records, the checks of a STEP and the admission of its footprint
(11 R210 to R216; 13 R244 to R246; 16 R268 to R271, R277, R278; 17 R283; 10 R186). -/

namespace Sys2Proof.Machine

/-! ## Header and sections (11 R210, R211) -/

/-- The magic number of a step image. -/
def stepMagic : Nat := 0x53544550

/-- Offset and length of section `j`. -/
def secOf (img j : Nat) : Nat × Nat := (bitsOf img (288 + 64 * j) 32, bitsOf img (256 + 64 * j) 32)

/-- The bytes of section `j` as a number. -/
def secData (img j : Nat) : Nat := let (o, n) := secOf img j; bitsOf img (8 * o) (8 * n)

/-- Records of `w` bits of a section. -/
def secRecords (img j w : Nat) : List Nat := unpackNat w (secData img j) ((secOf img j).2 * 8 / w)

/-- A table of the values of a list that differ from a default. -/
def tabOf {β : Type} [DecidableEq β] (d : β) (xs : List β) : Tab β :=
  (xs.zipIdx.filter (fun x => decide (x.1 ≠ d))).map (fun x => (x.2, x.1))

/-- Sections lie after the header, inside LEN, and apart (R210, R211). DEDUCED: one that overlaps the header breaks code 1's check (log 20). -/
def secsOk (img len : Nat) : Bool :=
  let ss := ((List.range 12).map (secOf img)).filter (fun x => x.2 != 0)
  ss.all (fun x => decide (128 ≤ x.1) && decide (x.1 + x.2 ≤ len)) &&
    ss.zipIdx.all (fun x => ss.zipIdx.all (fun y => x.2 == y.2 || !meet x.1.1 x.1.2 y.1.1 y.1.2))

/-- The lengths that R211 allows. -/
def secLensOk (img : Nat) : Bool :=
  let n (j : Nat) := (secOf img j).2
  (List.range 4).all (fun j => n j != 0 && decide (n j % 4 = 0) && decide (n j ≤ 16384)) &&
    (n 4 == 0 || n 4 == 4096) && (n 5 == 0 || n 5 == 48) && (n 6 == 0 || n 6 == 64) &&
    decide (n 7 % 16 = 0) && decide (n 8 % 8 = 0) && decide (n 9 % 32 = 0) && decide (n 10 % 8 = 0)

/-- A live-in record's reserved bits are zero. -/
def liveReserved (r : Nat) : Bool := bitsOf r 21 11 = 0 && bitsOf r 48 15 = 0

/-- First line and count of a live-in record, and whether it is filled. -/
def liveOf (r : Nat) : Nat × Nat × Bool := (bitsOf r 0 21 / 64, bitsOf r 32 16, bitsOf r 63 1 = 1)

/-- A live-in record against R211. -/
def liveOk (r : Nat) : Bool :=
  let (l, n, _) := liveOf r
  decide (bitsOf r 0 21 % 64 = 0) && decide (1 ≤ n) && decide (n ≤ 24576) && decide (l + n ≤ 24576)

/-- The bits of a run of lines. -/
def linesMask (l n : Nat) : BitVec 24576 := BitVec.ofNat 24576 ((2 ^ n - 1) <<< l)

/-- The filled lines, in record order, with the contents section 11 gives (R211). -/
def fillsOf (img : Nat) : List Fill :=
  let lines := ((secRecords img 10 64).map liveOf).flatMap (fun x =>
    if x.2.2 then (List.range x.2.1).map (fun i => x.1 + i) else [])
  let recs := secRecords img 11 640
  (List.zip lines recs).map (fun x => ⟨x.1, BitVec.ofNat 512 x.2, BitVec.ofNat 128 (x.2 >>> 512)⟩)

/-! ## Records (11 R213; 13 R244, R245; 16 R268) -/

/-- The loop-nest record, and whether it is in order (R213). -/
def nestOf (x : Nat) : Nest × Bool :=
  let d := bitsOf x 0 4
  let perm := (List.range 6).map (fun k => bitsOf x (8 + 3 * k) 3)
  let ext := (List.range 6).map (fun j => bitsOf x (64 + 32 * j) 32)
  let ok := decide (1 ≤ d) && decide (d ≤ 6) && decide (bitsOf x 4 4 = 0) && decide (bitsOf x 26 38 = 0) &&
    decide (bitsOf x 256 256 = 0) &&
    (List.range d).all (fun j => (perm.take d).contains j) && (perm.drop d).all (· == 0) &&
    (ext.take d).all (· != 0) && (ext.drop d).all (· == 0) && decide ((ext.take d).foldl (· * ·) 1 < 2 ^ 48)
  (⟨d, perm.take d, ext.take d⟩, ok)

/-- A footprint record (R268). -/
def footOf (x : Nat) : Foot :=
  ⟨BitVec.ofNat 64 x, bitsOf x 64 32, bitsOf x 97 1 = 1, bitsOf x 98 1 = 1, bitsOf x 99 1 = 1⟩

/-- A footprint record's own limits (R268, R269). -/
def footOk (x : Nat) : Bool :=
  decide (bitsOf x 96 1 = 0) && decide (bitsOf x 100 28 = 0) && decide (1 ≤ bitsOf x 64 32) && decide (bitsOf x 64 32 ≤ 2048) &&
    decide (bitsOf x 0 64 % (footOf x).size = 0)

/-- A circuit record (R244). -/
def circOf (x : Nat) : Circ :=
  ⟨bitsOf x 0 8, bitsOf x 8 8, bitsOf x 16 8, bitsOf x 24 4, bitsOf x 28 3, bitsOf x 32 4, bitsOf x 36 3,
    bitsOf x 39 1 = 1, bitsOf x 40 8⟩

/-- A circuit record's reserved bits are zero (R244, R246). -/
def circReserved (x : Nat) : Bool :=
  decide (bitsOf x 31 1 = 0) && decide (bitsOf x 48 16 = 0) &&
    (if bitsOf x 39 1 = 1 then decide (bitsOf x 32 7 = 0) else decide (bitsOf x 40 8 = 0))

/-- The first group record that offends (R246). -/
def badGroup (n : Nat) : List Nat → List Nat → Nat → Option Nat
  | [], _, _ => none
  | x :: xs, seen, i =>
    let gid := bitsOf x 0 8
    if bitsOf x 8 56 ≠ 0 ∨ bitsOf x 192 64 ≠ 0 ∨ seen.contains gid ∨ bitsOf x 64 128 >>> n ≠ 0 then some i
    else badGroup n xs (gid :: seen) (i + 1)

/-- Whether a circuit record is in order beside those before it (R246). -/
def circOk (img : Img) (w h : Nat) (gids : List Nat) (before : List Circ) (x : Nat) : Bool :=
  let c := circOf x
  circReserved x && decide (c.plog ≤ 8) && decide (c.slot < c.period) && !before.any (fun d => d.c == c.c) &&
    decide (c.x0 < w) && decide (c.y0 < h) &&
    (if c.mc then gids.contains c.group
     else decide (c.x1 < w) && decide (c.y1 < h) && decide (c.y1 * w + c.x1 ≠ c.src w)) &&
    !before.any (fun d => d.conflict c img w h)

/-- The first circuit record that offends (R246). -/
def badCirc (img : Img) (w h : Nat) (gids : List Nat) : List Nat → List Circ → Nat → Option Nat
  | [], _, _ => none
  | x :: xs, before, i =>
    if circOk img w h gids before x then badCirc img w h gids xs (before ++ [circOf x]) (i + 1) else some i

/-! ## The image (11 R210 to R216) -/

/-- The parts of an image, as read from its bytes. -/
def imgOf (va param : Word) (key : BitVec 64) (x : Nat) : Img :=
  let plane (j : Nat) : Tab (BitVec 32) := tabOf 0 ((secRecords x j 32).map (BitVec.ofNat 32))
  let form (k : Nat) : Tab (BitVec 128) :=
    tabOf 0 (((secRecords x 4 128).drop (64 * k)).take 64 |>.map (BitVec.ofNat 128))
  let lives := (secRecords x 10 64).map liveOf
  let carried := (lives.filter (fun l => !l.2.2)).foldl (fun v l => v ||| linesMask l.1 l.2.1) 0
  { va := va, param := param, key := key, len := bitsOf x 128 32, arch := BitVec.ofNat 16 (bitsOf x 32 16),
    energy := bitsOf x 108 4, tregs := (bitsOf x 103 5 + 3) / 4 * 4, freezen := bitsOf x 92 11,
    seam := ⟨bitsOf x 78 2, bitsOf x 80 4, bitsOf x 84 8⟩, draws := BitVec.ofNat 64 (bitsOf x 192 64),
    planes := (List.range 4).map plane, forms := (List.range 4).map form,
    banks := tabOf 0x0F ((secRecords x 5 8).map (BitVec.ofNat 8)),
    nest := if (secOf x 6).2 = 0 then none else some (nestOf (secData x 6)).1,
    foot := (secRecords x 7 128).map footOf, circs := (secRecords x 8 64).map circOf,
    groups := (secRecords x 9 256).foldl (fun t g => tabSet 0 t (bitsOf g 0 8) (BitVec.ofNat 128 (bitsOf g 64 128))) [],
    carried := carried, anyCarried := lives.any (fun l => !l.2.2), fills := fillsOf x, tlb := [] }

/-- The tile part (R212). -/
def tilePart (x : Nat) : List Byte :=
  [0, 1, 2, 3, 4, 5, 6, 10, 11].flatMap (fun j => natToBytes (secData x j) (secOf x j).2)

/-- The seam declaration against its own limits (R216). -/
def seamLimits (sm : Seam) (w h : Nat) : Bool :=
  match sm.axis with
  | 0 => sm.pos == 0 && sm.lat == 0
  | 1 => decide (1 ≤ sm.pos) && decide (sm.pos ≤ w - 1) && decide (2 ≤ sm.lat)
  | 2 => decide (1 ≤ sm.pos) && decide (sm.pos ≤ h - 1) && decide (2 ≤ sm.lat)
  | _ => false

/-- The die of a logical tile under a placement. -/
def dieAt (p : Place) (w h x y : Nat) : Nat := siteIndex (sitePos p w h x y) / 64

/-- A placement meets a seam declaration (10 R186). -/
def seamMet (p : Place) (w h : Nat) (sm : Seam) : Bool :=
  (List.range h).all (fun y => (List.range w).all (fun x =>
    let link (nx ny : Nat) : Bool :=
      let cross := dieAt p w h x y != dieAt p w h nx ny
      if sm.axis != 0 && sm.side x y != sm.side nx ny then sm.lat == (if cross then 24 else 2) else !cross
    (decide (w ≤ x + 1) || link (x + 1) y) && (decide (h ≤ y + 1) || link x (y + 1))))

/-- The checks of code 1 that the header's own fields decide, and those of reserved fields (R216). -/
def imgCode1 (x len : Nat) : Bool :=
  decide (bitsOf x 0 32 = stepMagic) && decide (len % 64 = 0) && decide (128 ≤ len) && decide (len ≤ 1048576) &&
    decide (bitsOf x 112 16 = 0) && decide (bitsOf x 48 23 = 0) && secsOk x len &&
    (secRecords x 5 8).all (fun b => decide (b < 32)) && (secRecords x 10 64).all liveReserved

/-- The checks of code 3 (R216). -/
def imgCode3 (x w h : Nat) : Bool :=
  let sm : Seam := ⟨bitsOf x 78 2, bitsOf x 80 4, bitsOf x 84 8⟩
  let lives := (secRecords x 10 64).map liveOf
  decide (bitsOf x 103 5 ≤ 16) && decide (1 ≤ bitsOf x 92 11) && decide (bitsOf x 92 11 ≤ 1024) && seamLimits sm w h &&
    secLensOk x &&
    (secRecords x 5 8).all (fun b => [0, 1, 2, 3, 4, 5, 7, 9, 13, 15].contains (b % 16)) &&
    (secRecords x 10 64).all liveOk &&
    lives.zipIdx.all (fun a => lives.zipIdx.all (fun b => a.2 == b.2 || !meet a.1.1 a.1.2.1 b.1.1 b.1.2.1)) &&
    decide ((secOf x 11).2 = 80 * ((lives.filter (·.2.2)).map (·.2.1)).foldl (· + ·) 0) &&
    (decide ((secOf x 6).2 = 0) || (nestOf (secData x 6)).2)

/-- The record that offends R246, as a byte offset in the image. -/
def badTable (x : Nat) (img : Img) (w h : Nat) : Option Nat :=
  let gs := secRecords x 9 256
  match badGroup (w * h) gs [] 0 with
  | some i => some ((secOf x 9).1 + 32 * i)
  | none =>
    match badCirc img w h (gs.map (fun g => bitsOf g 0 8)) (secRecords x 8 64) [] 0 with
    | some i => some ((secOf x 8).1 + 8 * i)
    | none => none

/-! ## Walks and admission (16 R267, R269 to R271) -/

/-- The walk of an offset as an admission makes it: the walk cache gives root-directory and table entries it holds, the
table store the others; where a held entry is stale, the old entries or the new ones are taken, by a free value
(R271; DESIGN CHOICE: log 2). -/
def State.walkPage (s : State) (die asid o : Nat) : State × Option Leaf :=
  let store (a : Nat) : Word := s.mem.tableWord die a
  let held (a : Nat) : Word := tabGet (store a) s.mem.walk (walkKey die asid (a % 2 ^ 28))
  let stale := (walkTables held store asid o).1.any (fun a => held a != store a) ||
    (walkTables store store asid o).1.any (fun a => held a != store a)
  let useOld := !stale || Config.freeBit s.free
  let (as, leaf) := walkTables (if useOld then held else store) store asid o
  let walk := as.foldl (fun t a =>
    let k := walkKey die asid (a % 2 ^ 28)
    if t.any (fun x => x.1 == k) then t else tabSet 0 t k (store a)) s.mem.walk
  ({ s with mem := { s.mem with walk := walk }, free := if stale then s.free + 1 else s.free }, leaf)

/-- The pages of a footprint. -/
def footPages (fs : List Foot) : List (Foot × Word) :=
  fs.flatMap (fun f => (List.range f.count).map (fun i => (f, f.base + BitVec.ofNat 64 (i * f.size))))

/-- A local frame of a page of a region meets R267. -/
def frameOk (k size lfa : Nat) : Bool :=
  decide (lfa % (size / 2 ^ k) = 0) && decide (lfa + size / 2 ^ k ≤ 0x50000000)

/-- Whether the leaf of a page is the one that was recorded of every sealed page which it meets (R277). -/
def State.sameLeaf (s : State) (rid : Nat) (va : Word) (l : Leaf) : Bool :=
  s.mem.pages.all (fun p =>
    p.rid != rid || !meet va.toNat l.size p.page.toNat p.size || !s.isSealed rid p.page p.size ||
      (p.page == va && p.size == l.size && p.leaf == l.raw))

/-- The checks of a page that a walk found (R269, R277), and its TLB entry. -/
def State.pageEntry (s : State) (rid : Nat) (f : Foot) (va : Word) (l : Leaf) : Option Tlb :=
  let r := s.region rid
  if l.size = f.size ∧ (!f.w || l.w) ∧ frameOk r.k l.size (l.frame * 8192) ∧
      (!l.rv || frameOk r.k l.size (l.rframe * 8192)) ∧ s.sameLeaf rid va l ∧
      (r.seam.axis = 0 || !f.repl || (l.rv && s.pageSealed rid va l.size)) then
    some ⟨va, f.big, l.frame, l.rframe, f.w, f.repl⟩
  else none

/-- The footprint as a whole (R269). -/
def State.footInOrder (s : State) (rid : Nat) (xs : List Nat) : Bool :=
  let fs := xs.map footOf
  xs.all footOk && decide ((fs.map (·.count)).foldl (· + ·) 0 ≤ 2048) &&
    fs.all (fun f => s.inHome rid f.base && decide (vaOff f.base + f.count * f.size ≤ 2 ^ 49)) &&
    fs.zipIdx.all (fun a => fs.zipIdx.all (fun b =>
      a.2 == b.2 || !meet a.1.base.toNat (a.1.count * a.1.size) b.1.base.toNat (b.1.count * b.1.size)))

/-- Frames of the loaded entries that no two pages share. -/
def framesApart (k : Nat) (es : List Tlb) : Bool :=
  es.zipIdx.all (fun a => es.zipIdx.all (fun b =>
    a.2 == b.2 || !meet (a.1.frame * 8192) (a.1.size / 2 ^ k) (b.1.frame * 8192) (b.1.size / 2 ^ k)))

/-- Walks and checks every page of a footprint: the entries to load, or none where a check fails (R269). -/
def State.walkFoot (s : State) (rid : Nat) (xs : List Nat) : State × Option (List Tlb) :=
  if s.footInOrder rid xs then
    let r := s.region rid
    let (s, es) := (footPages (xs.map footOf)).foldl
      (fun (acc : State × Option (List Tlb)) p =>
        let (s, l) := acc.1.walkPage (r.tableDie rid) r.asid (vaOff p.2)
        match acc.2, l with
        | some es, some l => (s, (s.pageEntry rid p.1 p.2 l).map (fun e => es ++ [e]))
        | _, _ => (s, none))
      (s, some [])
    match es with
    | some es => (s, if framesApart r.k es then some es else none)
    | none => (s, none)
  else (s, none)

/-- A memory with the bytes of one range of keys copied over another of the same length. -/
def memCopy (m : Memory) (src dst n : Nat) : Memory :=
  m.filter (fun c => c.1 < dst) ++
    (m.filter (fun c => src ≤ c.1 ∧ c.1 < src + n)).map (fun c => (c.1 - src + dst, c.2)) ++
    m.filter (fun c => dst + n ≤ c.1)

/-- The replica frames of a page filled: each channel takes, at RLFA, the granules whose home channel is its counterpart on
the other side (16 R278). Errors of the home granules have been met before. -/
def State.fillReplica (s : State) (rid : Nat) (e : Tlb) : State :=
  let r := s.region rid
  let half := 2 ^ (r.k - 1)
  let n := e.size / 2 ^ r.k
  let hbm := (List.range (2 ^ r.k)).foldl
    (fun m i =>
      let from' := (r.cs[i]?).getD 0
      let onto := (r.cs[(i + half) % 2 ^ r.k]?).getD 0
      memCopy m (hbmKey (from', e.frame * 8192)) (hbmKey (onto, e.rframe * 8192)) n)
    s.mem.hbm
  let old (l : Nat) : Bool := r.cs.any (fun ch =>
    let a := hbmKey (ch, e.rframe * 8192) / 64
    decide (a ≤ l) && decide (l < a + n / 64))
  let s := s.recordLeaf rid e.va
  { s with mem := { s.mem with
      hbm := hbm,
      ecc := s.mem.ecc.filter (fun x => !old x.1),
      pages := s.mem.pages.map (fun p => if p.rid == rid && p.page == e.va then { p with replicated := true } else p) } }

/-- The key of a page in the record of admissions. -/
def pageKey (e : Tlb) : Nat := e.va.toNat / size2M * 2 + (if e.big then 1 else 0)

/-- The stamps of a page's lines cleared (17 R283). -/
def State.clearStamps (s : State) (rid : Nat) (e : Tlb) : State :=
  let r := s.region rid
  let n := e.size / 2 ^ r.k / 64
  let hit (l : Nat) : Bool := r.cs.any (fun ch =>
    let a := hbmKey (ch, e.frame * 8192) / 64
    decide (a ≤ l) && decide (l < a + n))
  { s with mem := { s.mem with stamps := s.mem.stamps.filter (fun x => !hit x.1) } }

/-- A page that an admission fills the replica frames of: they are filled once per sealing (16 R278). -/
def State.mustFill (s : State) (rid : Nat) (e : Tlb) : Bool :=
  e.repl && (s.region rid).seam.axis != 0 && !s.mem.pages.any (fun p => p.rid == rid && p.page == e.va && p.replicated)

/-- An admission: stamps of pages that the region has not admitted within its previous 524,285 steps are cleared, and
replica frames are filled (16 R278; 17 R283). -/
def State.admission (s : State) (rid : Nat) (es : List Tlb) : State :=
  es.foldl
    (fun s e =>
      let r := s.region rid
      let last := tabGet 0 r.admitted (pageKey e)
      let s := if last = 0 ∨ last + 524285 < r.steps + 1 then s.clearStamps rid e else s
      if s.mustFill rid e then s.fillReplica rid e else s)
    s

/-! ## The checks of a STEP (11 R216) -/

/-- The lowest of the codes whose check fails. -/
def lowestCode (cs : List (Nat × Bool)) : Option Nat := (cs.find? (fun c => !c.2)).map (·.1)

/-- Reads and checks the image that a STEP names: the step to be staged, or the code and the address that are logged. DEDUCED: the limits of
SEAMPOS are those of the region's shape (log 20). -/
def State.readImage (s : State) (rid : Nat) (g : Graph) (va param : Word) : State × Except (Nat × Word) Img :=
  let r := s.region rid
  let inRange (n : Nat) : Bool := decide (g.imgBase.toNat ≤ va.toNat) && decide (va.toNat + n ≤ g.imgBase.toNat + g.imgLen)
  let bad1 := (s, Except.error (1, va))
  if !(vaClean va && vaDevice va && decide (va.toNat % 64 = 0)) || !inRange 128 then bad1
  else
    match s.readVa rid va 128 with
    | none => bad1
    | some hd =>
      let len := bitsOf hd 128 32
      if len < 128 || 1048576 < len || !inRange len then bad1
      else
        match s.readVa rid va len with
        | none => bad1
        | some x =>
          if !imgCode1 x len then bad1
          else
            let img := imgOf va param g.key x
            let (s', tlb) := s.walkFoot rid (secRecords x 7 128)
            let table := badTable x img r.w r.h
            let code := lowestCode [
              (2, decide (bitsOf x 32 16 ≤ Config.archRev)),
              (3, imgCode3 x r.w r.h),
              (4, seamMet r.place r.w r.h img.seam),
              (5, bitsOf x 71 4 + 1 == r.w && bitsOf x 75 3 + 1 == r.h),
              (6, tlb.isSome),
              (7, !(r.afterYield && img.anyCarried)),
              (8, decide ((crc32c (tilePart x)).toNat = bitsOf x 160 32)),
              (9, table.isNone)]
            match code, tlb with
            | none, some es => (s', .ok { img with tlb := es })
            | some 9, _ => (s', .error (9, va + BitVec.ofNat 64 (table.getD 0)))
            | c, _ => (s', .error (c.getD 6, va))

/-- What the region manager reads to stage the image at an address: its header, the image, and the pages whose replica frames the
admission fills (R216; 16 R278). -/
def State.imageReads (s : State) (rid : Nat) (g : Graph) (va param : Word) : List (Word × Nat) :=
  [(va, 128), (va, min 1048576 (bitsOf ((s.readVa rid va 128).getD 0) 128 32))] ++
    (match (s.readImage rid g va param).2 with
     | .ok img => (img.tlb.filter (s.mustFill rid)).map (fun e => (e.va, e.size))
     | .error _ => [])

end Sys2Proof.Machine
end

