-- ==== Sys2Proof/Machine/Conductor.lean ====
section
/-! DEFINITION. The conductor: the beginning and end of graph runs, the graph instructions, the launch pool, and the counter
instructions on a conductor (11 R216 to R226; 12 R232; 10 R200, R201; 23 R349). -/

namespace Sys2Proof.Machine

/-! ## Waiting (11 R221, R222) -/

/-- No step that the conductor launched is STAGING, STAGED or RUNNING, or to be staged again (R217, R222). -/
def Region.drained (r : Region) : Bool := r.staging.isNone && r.staged.isNone && r.restage.isNone && r.run.isNone

/-- A word of a conductor that waits stays where it is. DEDUCED: log 11. -/
def holdWord (s : State) : Out := .next s

/-- The state with the running graph moved to its next word. -/
def CCtx.advance (c : CCtx) (s : State) : State := s.setRegion c.rid ((s.region c.rid).setGraph c.g.next)

/-- The state with the running graph moved on and s[d] := v. -/
def CCtx.result (c : CCtx) (s : State) (d : BitVec 4) (v : Word) : State :=
  s.setRegion c.rid ((s.region c.rid).setGraph { c.g.next with s := regSet c.g.s d v })

/-- A fault of the conductor word (21 R320). -/
def CCtx.fault (c : CCtx) (s : State) (cls cause : Nat) (addr aux : Word) : State :=
  s.condFault c.rid cls cause c.g.pc c.word addr aux

/-! ## Beginning a run (11 R219, R220; 04 R68) -/

/-- The magic number of a graph object. -/
def graphMagic : Nat := 0x47524150

/-- A 64-aligned address of the device half. -/
def vaObject (v : Word) : Bool := vaClean v && vaDevice v && decide (v.toNat % 64 = 0)

/-- The header of a graph object against its table, and its ARCH (R219, R4). -/
def graphHeaderOk (hd : Nat) : Bool :=
  let clen := bitsOf hd 64 32
  let pblen := bitsOf hd 256 13
  let pbuf : Word := BitVec.ofNat 64 (bitsOf hd 192 64)
  decide (bitsOf hd 0 32 = graphMagic) && decide (bitsOf hd 49 15 = 0) && decide (bitsOf hd 96 32 = 0) &&
    decide (bitsOf hd 269 115 = 0) && decide (clen % 4 = 0) && decide (4 ≤ clen) && decide (clen ≤ 65536) &&
    decide (pblen ≤ 4096) && (if pblen = 0 then pbuf == 0 else vaObject pbuf) &&
    vaObject (BitVec.ofNat 64 (bitsOf hd 384 64)) && decide (bitsOf hd 448 64 % 64 = 0) &&
    decide (bitsOf hd 32 16 ≤ Config.archRev)

/-- A graph run from its header, before its first word. -/
def graphOf (va : Word) (hd : Nat) (key : BitVec 64) (plen ctr depth ord : Nat) (arg : Word) (shared : Bool) : Graph :=
  { va := va, clen := bitsOf hd 64 32, arch := BitVec.ofNat 16 (bitsOf hd 32 16),
    imgBase := BitVec.ofNat 64 (bitsOf hd 384 64), imgLen := bitsOf hd 448 64, pbuf := BitVec.ofNat 64 (bitsOf hd 192 64),
    plen := plen, key := key, ctr := ctr, depth := depth, ord := ord, arg := arg, shared := shared, pc := 64, s := [],
    nextOrd := 0, kids := [], joined := 0 }

/-- The cause of the graph fault that a run raises before its first word: 1 header, 2 PLEN, 4 patch buffer; the lowest
counts. `patch` is a top-level run's launch record (R219, R220). DEDUCED: a header or code on a page that is not mapped is cause 1
(log 20). -/
def State.graphFault (s : State) (rid : Nat) (va : Word) (hd : Option Nat) (patch : Option (List Byte)) : Option Nat :=
  match hd with
  | none => some 1
  | some hd =>
    let clen := bitsOf hd 64 32
    let pblen := bitsOf hd 256 13
    let pbuf : Word := BitVec.ofNat 64 (bitsOf hd 192 64)
    let imgBase := bitsOf hd 384 64
    let imgLen := bitsOf hd 448 64
    if !graphHeaderOk hd || !s.mapped rid va (64 + clen) false then some 1
    else if (match patch with
      | some p => decide (pblen < p.length)
      | none => false) then some 2
    else if meet pbuf.toNat pblen va.toNat (64 + clen) || meet pbuf.toNat pblen imgBase imgLen then some 4
    else if patch.isSome && decide (0 < pblen) &&
        (!s.inHome rid pbuf || !s.mapped rid pbuf pblen true || s.isSealed rid pbuf pblen) then some 4
    else none

/-- The ranges that a run holds sealed (R219), with the leaves of their pages recorded (16 R277). -/
def State.sealRun (s : State) (rid depth : Nat) (g : Graph) : State :=
  let own : List RmSeal := [⟨rid, depth, g.va, 64 + g.clen⟩, ⟨rid, depth, g.imgBase, g.imgLen⟩]
  own.foldl (fun s x => s.recordLeaves rid x.base x.len)
    { s with mem := { s.mem with rmSeals := s.mem.rmSeals ++ own.filter (fun x => x.len != 0) } }

/-- The ranges that runs of a depth or more held are unsealed (R219). -/
def State.unsealRuns (s : State) (rid depth : Nat) : State :=
  State.forgetLeaves
    { s with mem := { s.mem with rmSeals := s.mem.rmSeals.filter (fun x => x.rid != rid || decide (x.depth < depth)) } } rid

/-- The running step has taken a fault that ends its run: the conductor issues nothing more (21 R322). -/
def Region.runFaulted (r : Region) : Bool :=
  match r.run with
  | some run => run.faults.any (fun f => f.cls != 15)
  | none => false

/-- Whether a run can begin: the next queued START's where no graph runs, or the next pending child of a graph that joins. -/
def State.canBegin (s : State) (rid : Nat) : Bool :=
  let r := s.region rid
  let live := r.st == .running || r.st == .yielding
  !s.waiting rid &&
    (if r.graphs.isEmpty then live && r.run.isNone && !r.startQ.isEmpty
     else (live || r.st == .halting) && !r.begun && !r.runFaulted &&
       (match r.graphs with
        | g :: _ => !g.kids.isEmpty
        | [] => false))

/-- What is kept of a conductor for a later resume or restart (10 R200, 21 R325). DEDUCED: log 15. -/
def Region.keep (r : Region) : Kept := ⟨r.graphs, r.poolShared, r.poolRes, r.afterYield, r.collCount⟩

/-- A region whose conductor stands at its restart record, which is taken (21 R325). -/
def Region.takeRecord (r : Region) : Region := { r with restart := some r.keep, sinceRecord := 0, measured := 0 }

/-- The beginning of a queued START's run: its counter becomes SIGNALLED, its header is checked, its launch record copied
(R219, R220; 12 R227). -/
def State.beginTop (s : State) (rid : Nat) (l : Launch) (rest : List Launch) : State :=
  let r := s.region rid
  let x := (r.ctr l.ctr).leave .signalled
  let r := { (r.setCtr l.ctr { x with ctrOf := true }) with startQ := rest }
  let s := s.setRegion rid r
  let hd := s.readVa rid l.graph 64
  match s.graphFault rid l.graph hd (some l.patch), hd with
  | none, some hd =>
    let key : BitVec 64 :=
      if bitsOf hd 48 1 = 1 then BitVec.ofNat 64 (bytesToNat (l.patch.take 8)) else BitVec.ofNat 64 (bitsOf hd 128 64)
    let g := graphOf l.graph hd key l.patch.length l.ctr 0 0 0 false
    let s := s.sealRun rid 0 g
    let s := s.writeVa rid g.pbuf (bitsOf hd 256 13) (bytesToNat l.patch)
    let r := { s.region rid with graphs := [g], begun := true, poolShared := 0, poolRes := [], afterYield := false }
    s.setRegion rid r.takeRecord
  | c, _ => s.condFault rid 14 (c.getD 1) 0 0 l.graph 0

/-- The beginning of the next pending child of the running graph (R219, R226; 04 R68). -/
def State.beginChild (s : State) (rid : Nat) (g : Graph) (up : List Graph) : State :=
  match g.kids with
  | [] => s
  | (ord, va, arg, shared) :: kids =>
    let hd := s.readVa rid va 64
    match s.graphFault rid va hd none, hd with
    | none, some hd =>
      let key := d10Key g.key (BitVec.allOnes 64) (BitVec.ofNat 64 ord)
      let child := graphOf va hd key 0 0 (g.depth + 1) ord arg shared
      let s := s.sealRun rid (g.depth + 1) child
      s.setRegion rid { s.region rid with graphs := child :: { g with kids := kids } :: up, begun := true }
    | c, _ => s.condFault rid 14 (c.getD 1) 0 0 va 0

/-- GRAPH_RUN_BEGIN (11 R219, R220, R226). -/
def execGraphRunBegin (rid : Nat) (s : State) : Out :=
  if s.canBegin rid then
    let r := s.region rid
    match r.graphs, r.startQ with
    | g :: up, _ => .next (s.beginChild rid g up)
    | [], l :: rest => .next (s.beginTop rid l rest)
    | [], [] => .fault .notDue
  else .fault .notDue

/-! ## Joining (11 R225, R226) -/

/-- The pool after a run's entry returns to FREE. -/
def Region.freeEntry (r : Region) (g : Graph) : Region :=
  if g.shared then { r with poolShared := r.poolShared - 1 }
  else { r with poolRes := tabSet 0 r.poolRes g.depth (tabGet 0 r.poolRes g.depth - 1) }

/-- The pool after a LAUNCH at child depth `k` takes an entry: a shared one where one is FREE (R225). -/
def Region.takeEntry (r : Region) (k : Nat) : Region × Bool :=
  if r.poolShared < 192 then ({ r with poolShared := r.poolShared + 1 }, true)
  else ({ r with poolRes := tabSet 0 r.poolRes k (tabGet 0 r.poolRes k + 1) }, false)

/-- A word that joins: the next pending child begins, and the word goes on when that child has ended. -/
def CCtx.join (c : CCtx) (s : State) : State := s.setRegion c.rid { s.region c.rid with begun := false }

/-! ## Graph instructions (11 R216, R222 to R226) -/

/-- An insertion into a list in rising order. -/
def natInsert (x : Nat) : List Nat → List Nat
  | [] => [x]
  | y :: ys => if x < y then x :: y :: ys else y :: natInsert x ys

/-- The log entries of a tile part that mismatches on all four transfers to every tile, in ascending site index (11 R212; 21 R329). -/
def State.logCrc (s : State) (rid : Nat) : State :=
  let r := s.region rid
  ((List.range (r.w * r.h)).foldl (fun xs i => natInsert (r.site i) xs) []).foldl
    (fun s x => (List.range 4).foldl (fun s _ => s.celLog 6 x rid) s) s

/-- STEP: reads, checks and admits an image; its tile part is on its way to the tiles. The word is done when the step is
STAGED (R216). A region that halts stages none (10 R194). -/
def execCondStep (a b : BitVec 4) (s : State) : Out :=
  issueCond (.condStep a b) s (fun c =>
    if c.r.staging.isSome || c.r.staged.isSome || c.r.restage.isSome || c.r.st == .halting then holdWord s
    else
      let va := c.rd a
      let (s', res) := s.readImage c.rid c.g va (c.rd b)
      let s' := s'.setRegion c.rid { s'.region c.rid with afterYield := false }
      match res with
      | .error (code, addr) =>
        let s' := if code = 8 then s'.logCrc c.rid else s'
        .next (c.fault s' 13 code addr 0)
      | .ok img =>
        let s' := s'.admission c.rid img.tlb
        .next (s'.setRegion c.rid { s'.region c.rid with staging := some img, crc := [], restaging := false, stepPc := c.g.pc, stepWord := c.word }))

/-- A stream's shadow plane takes a staged plane (R218; 05 R69). -/
def Stream.shadowed (x : Stream) (p : Option (Tab (BitVec 32))) : Stream := { x with shadow := p.getD [] }

/-- A tile with a staged image's planes in its shadow planes. -/
def Tile.shadowed (img : Img) (t : Tile) : Tile :=
  { t with ld := t.ld.shadowed img.planes[0]?, ex := t.ex.shadowed img.planes[1]?, st := t.st.shadowed img.planes[2]?,
           ct := t.ct.shadowed img.planes[3]? }

/-- The STEP that is STAGED now counted, and measured unless it is one that the run has staged before it went back to its restart
record: the measurement depends on the run alone (23 R349). DEDUCED: log 15. -/
def Region.measure (r : Region) (dig : BitVec 256) : Region :=
  let r := { r with sinceRecord := r.sinceRecord + 1 }
  if r.sinceRecord ≤ r.measured then r
  else { r with measured := r.sinceRecord, rmeas := sha256 (beBytes r.rmeas.toNat 32 ++ beBytes dig.toNat 32) }

/-- STEP_STAGED: the tile part stands on every tile: the step is STAGED, the measurement takes its image, and the STEP is done
(R217; 23 R349). A step that is staged again was done before: its STEP does not move on, and nothing is measured. -/
def execStepStaged (rid : Nat) (s : State) : Out :=
  let r := s.region rid
  match r.staging, r.graphs with
  | some img, g :: _ =>
    let tiles := r.tiles.map (Tile.shadowed img)
    if r.restaging then
      .next (s.setRegion rid { r with staging := none, staged := some img, restaging := false, tiles := tiles })
    else
    let dig := sha256 (natToBytes ((s.readVa rid img.va img.len).getD 0) img.len)
    let r := { r.measure dig with staging := none, staged := some img, tiles := tiles }
    .next (s.setRegion rid (r.setGraph g.next))
  | _, _ => .fault .notDue

/-- The entries of a FENCE's list: counter and value; none where the list lies outside the object or a reserved bit is set
(R223). -/
def CCtx.fenceList (c : CCtx) (s : State) (list base : Word) (n : Nat) : Option (List (Nat × Word)) :=
  if list.toNat % 8 = 0 ∧ c.g.va.toNat ≤ list.toNat ∧ list.toNat + 8 * n ≤ c.g.va.toNat + 64 + c.g.clen then
    match s.readVa c.rid list (8 * n) with
    | none => none
    | some v =>
      let es := unpackNat 64 v n
      if es.all (fun e => decide (bitsOf e 6 2 = 0)) then
        some (es.map (fun e => (bitsOf e 0 6, base + BitVec.ofNat 64 (e >>> 8))))
      else none
  else none

/-- Waits for counters, then acquires: a failed operation among those acquired is a copy fault, with the address it failed at (R223;
12 R232; 21 R321). -/
def CCtx.acquire (c : CCtx) (s : State) (es : List (Nat × Word)) : State :=
  match es.find? (fun e => (c.r.ctr e.1).failedTo e.2) with
  | some e => c.fault s 10 0 (c.r.ctr e.1).addr 0
  | none => c.advance s

/-- Whether counters have reached values. -/
def CCtx.reached (c : CCtx) (es : List (Nat × Word)) : Bool :=
  es.all (fun e => decide (e.2.toNat ≤ (c.r.ctr e.1).value.toNat))

/-- FENCE (R223). -/
def execFence (a b n : BitVec 4) (s : State) : Out :=
  issueCond (.fence a b n) s (fun c =>
    match c.fenceList s (c.rd a) (c.rd b) n.toNat with
    | none => .next (c.fault s 2 0 (c.rd a) 0)
    | some es => if c.reached es then .next (c.acquire s es) else holdWord s)

/-- A counter written by SIGNAL or a conductor CNTS: FREE or SIGNALLED, never lowered; it publishes the writes of the steps
that have ended (11 R223; 12 R227, R232). -/
def CCtx.setCounter (c : CCtx) (s : State) (k : Nat) (v : Word) : State :=
  let x := c.r.ctr k
  if x.st = .bound ∨ v.toNat < x.value.toNat then c.fault s 9 0 0 (BitVec.ofNat 64 k)
  else
    c.advance (s.setRegion c.rid
      ((c.r.setCtr k { x.leave .signalled with value := v, front := v }).tellCtr k))

/-- SIGNAL: drains, then writes the counter (R223). -/
def execSignal (n : BitVec 8) (a : BitVec 4) (s : State) : Out :=
  issueCond (.signal n a) s (fun c =>
    if c.r.drained then .next (c.setCounter s n.toNat (c.rd a)) else holdWord s)

/-- LAUNCH: records a child; a pool without a FREE entry joins the pending children first (R224, R225). DEDUCED: the depth is looked at
before the address (log 20). -/
def execLaunch (d a b : BitVec 4) (s : State) : Out :=
  issueCond (.launch d a b) s (fun c =>
    if 8 ≤ c.g.depth then .next (c.fault s 14 3 (c.rd a) 0)
    else if !vaObject (c.rd a) then .next (c.fault s 2 0 (c.rd a) 0)
    else if (c.r.poolFree c.g.depth = 0 ∨ 0 < c.g.joined) ∧ c.g.kids ≠ [] then .next (c.join s)
    else
      let (r, shared) := c.r.takeEntry (c.g.depth + 1)
      let g := { c.g.next with
        s := regSet c.g.s d (BitVec.ofNat 64 c.g.nextOrd), nextOrd := c.g.nextOrd + 1, joined := 0,
        kids := c.g.kids ++ [(c.g.nextOrd, c.rd a, c.rd b, shared)] }
      .next (s.setRegion c.rid (r.setGraph g)))

/-- JOINC: runs the pending children in ordinal order, then writes their number (R226). -/
def execJoinc (d : BitVec 4) (s : State) : Out :=
  issueCond (.joinc d) s (fun c =>
    if c.g.kids ≠ [] then .next (c.join s)
    else
      let g := { c.g.next with s := regSet c.g.s d (BitVec.ofNat 64 c.g.joined), joined := 0 }
      .next (s.setRegion c.rid (c.r.setGraph g)))

/-- A tile at zero-fill (10 R193). -/
def Tile.zero : Tile := {}

/-- A region that gives up its sites and its tile state, with its conductor kept (10 R200). -/
def Region.yielded (r : Region) (k : Kept) : Region :=
  { r with st := .yielded, holds := false, saved := false, tiles := [], graphs := [], begun := false, kept := some k }

/-- The seals of a restart record's runs, and no others (11 R219); replicas of pages that stay sealed stay. DEDUCED: log 15. -/
def State.reseal (s : State) (rid : Nat) (gs : List Graph) : State :=
  let mine (g : Graph) (x : RmSeal) : Bool := x.rid == rid && x.depth == g.depth && (x.base == g.va || x.base == g.imgBase)
  let s := { s with mem := { s.mem with rmSeals := s.mem.rmSeals.filter (fun x => x.rid != rid || gs.any (fun g => mine g x)) } }
  (gs.foldl (fun s g => if s.mem.rmSeals.any (mine g) then s else s.sealRun rid g.depth g) s).forgetLeaves rid

/-- A region's conductor as a restart record holds it; counters and queued STARTs stay (R325). DEDUCED: log 15. -/
def Region.atRecord (r : Region) (k : Kept) : Region :=
  { r with graphs := k.graphs, begun := true, poolShared := k.shared, poolRes := k.reserved, afterYield := k.afterYield,
           staging := none, staged := none, restage := none, collCount := k.collCount, sinceRecord := 0 }

/-- A region where no step is in progress YIELDED at its restart record; before its first word, with its START still to run
(21 R325). -/
def State.yieldAtRecord (s : State) (rid : Nat) : State :=
  let r := s.region rid
  match r.restart with
  | some k =>
    let s := s.reseal rid k.graphs
    s.setRegion rid { ((s.region rid).atRecord k).yielded k with afterYield := k.afterYield, restart := some k }
  | none => s.setRegion rid (r.yielded ⟨[], 0, [], false, r.collCount⟩)

/-- A region whose conductor or region manager met a granule that is lost while no step was in progress YIELDED at its restart record, unless
a channel that is withdrawn has ended the run (16 R280, R281; 21 R325). -/
def State.yieldLost (s : State) (rid : Nat) : State :=
  if (s.region rid).st == .releasing then s else s.yieldAtRecord rid

/-- YIELDP: drains; the restart record is taken; a region that is YIELDING yields (10 R200, R201; 21 R325). -/
def execYieldp (s : State) : Out :=
  issueCond .yieldp s (fun c =>
    if !c.r.drained then holdWord s
    else
      let r := Region.takeRecord { c.r.setGraph c.g.next with afterYield := true }
      if r.st = .yielding then .next ((s.setRegion c.rid (r.yielded r.keep)).post ⟨c.rid, 2, 0, 3, 0⟩)
      else .next (s.setRegion c.rid r))

/-- HOSTN: drains, then posts an event (R223). -/
def execHostn (a : BitVec 4) (code : BitVec 8) (s : State) : Out :=
  issueCond (.hostn a code) s (fun c =>
    if c.r.drained then .next ((c.advance s).post ⟨c.rid, 3, code.toNat, 0, c.rd a⟩) else holdWord s)

/-- The end of a top-level run: 1 is added to its counter, a completion event is posted, and the region goes on (R223;
10 R190). -/
def CCtx.complete (c : CCtx) (s : State) : State :=
  let k := c.g.ctr
  let x := c.r.ctr k
  let v := x.value + 1
  let s := s.setRegion c.rid ((c.r.setCtr k { x with value := v, front := v }).tellCtr k)
  let s := s.dropRun c.rid
  let s := s.post ⟨c.rid, 4, k, 0, v⟩
  s.setRegion c.rid (s.region c.rid).afterRun

/-- END on a conductor: drains, joins, and ends the run (R223, R225). -/
def execEndConductor (s : State) : Out :=
  issueCond .endConductor s (fun c =>
    if !c.r.drained then holdWord s
    else if c.g.kids ≠ [] then .next (c.join s)
    else
      match c.r.graphs with
      | _ :: p :: up =>
        let r := { c.r with graphs := { p with joined := p.joined + 1 } :: up }.freeEntry c.g
        .next ((s.setRegion c.rid r).unsealRuns c.rid c.g.depth)
      | _ => .next (c.complete s))

/-! ## Counter instructions on a conductor (12 R232) -/

/-- CNTW on a conductor: waits in any state, then acquires. -/
def execCntwConductor (n : BitVec 8) (a : BitVec 4) (s : State) : Out :=
  issueCond (.cntwConductor n a) s (fun c =>
    let es := [(n.toNat, c.rd a)]
    if c.reached es then .next (c.acquire s es) else holdWord s)

/-- CNTS on a conductor: as SIGNAL, without draining. -/
def execCntsConductor (n : BitVec 8) (a : BitVec 4) (s : State) : Out :=
  issueCond (.cntsConductor n a) s (fun c => .next (c.setCounter s n.toNat (c.rd a)))

/-- CNTR on a conductor: drains, then reads VALUE. -/
def execCntrConductor (d : BitVec 4) (n : BitVec 8) (s : State) : Out :=
  issueCond (.cntrConductor d n) s (fun c =>
    if c.r.drained then .next (c.result s d (c.r.ctr n.toNat).value) else holdWord s)

end Sys2Proof.Machine
end

