-- ==== Sys2Proof/Machine/Place.lean ====
section
/-! DEFINITION. The region manager: command descriptors, placement, START, YIELD, FREEZE, RESUME, RELEASE, and the events that
end ZEROING, RESUMING and RELEASING (10 R181 to R194, R197 to R202; 16 R273, R274; 21 R326). -/

namespace Sys2Proof

open Machine

/-! ## Descriptors (10 R189) -/

/-- A field of a descriptor. -/
def Cmd.fld (c : Cmd) (lo len : Nat) : Nat := slice c.desc lo len

/-- The region that a descriptor names. -/
def Cmd.rid (c : Cmd) : Nat := c.fld 8 5

/-- CMD. -/
def Cmd.cmd (c : Cmd) : Nat := c.fld 0 8

/-- EXPLICIT. -/
def Cmd.explicit (c : Cmd) : Bool := c.desc.getLsbD 24

/-- X0, Y0 and ROT as a placement. -/
def Cmd.at' (c : Cmd) : Place := ⟨c.fld 64 4, c.fld 68 3, c.fld 71 2⟩

/-- ROTMASK. -/
def Cmd.rotmask (c : Cmd) : BitVec 4 := c.desc.extractLsb' 32 4

/-- The bits that a command uses: those of its fields, of CMD and of RID. DEDUCED: SLOT counts as used without SHARED, and SEAMPOS with
SEAMAXIS 0 (log 27). -/
def Cmd.used (c : Cmd) : List (Nat × Nat) :=
  let origin := if c.explicit then [(64, 9)] else []
  (0, 8) :: (8, 5) ::
    (match c.cmd with
     | 1 => [(16, 7), (24, 2), (26, 2), (28, 4), (32, 4), (36, 4), (40, 10), (50, 5), (55, 1)] ++ origin
     | 2 => [(128, 57), (192, 57), (256, 13), (270, 6)]
     | 5 => [(24, 1), (32, 4)] ++ origin
     | _ => [])

/-- Whether a descriptor is well formed: code 1 refuses the others (10 R189). -/
def Cmd.inOrder (c : Cmd) : Bool :=
  let mask : Nat := c.used.foldl (fun m x => m ||| ((2 ^ x.2 - 1) <<< x.1)) 0
  decide (1 ≤ c.cmd) && decide (c.cmd ≤ 6) && decide (c.desc.toNat &&& ((2 ^ 512 - 1) ^^^ mask) = 0) &&
    (c.cmd != 2 || decide (c.fld 256 13 ≤ 4096)) && (c.cmd != 1 || c.fld 26 2 != 3) &&
    (!(c.cmd == 1 || c.cmd == 5) || !c.explicit || c.rotmask.getLsbD c.at'.rot)

/-- A service region may only START itself (R209). -/
def Cmd.self (c : Cmd) : Bool :=
  match c.req with
  | .service rid => rid == c.rid && c.cmd != 2
  | .host | .manager => false

end Sys2Proof

namespace Sys2Proof.Machine

/-! ## Placements (10 R182, R183, R186, R190) -/

/-- The footprint lies inside the grid (R182). -/
def insideGrid (p : Place) (w h : Nat) : Bool :=
  let (fw, fh) := if p.rot % 2 = 0 then (w, h) else (h, w)
  decide (p.x0 + fw ≤ 16) && decide (p.y0 + fh ≤ 8)

/-- A site is good (02 R21). -/
def State.good (s : State) (pos : Nat × Nat) : Bool :=
  if pos.1 < 8 then s.boot.good0.getLsbD (pos.2 * 8 + pos.1) else s.boot.good1.getLsbD (pos.2 * 8 + (pos.1 - 8))

/-- Whether a region keeps its sites from others: a FROZEN region does not (R183, R197). -/
def Region.blocks (r : Region) : Bool := r.holds && r.st != .frozen

/-- The regions of the module other than one. -/
def State.others (s : State) (rid : Nat) : List (Nat × Region) := s.regions.filter (fun x => x.1 != rid)

/-- The sites of a shared slot, fixed by the first of its regions to take sites (R202). -/
def State.slotSites (s : State) (slot : Nat) : Option (List (Nat × Nat)) :=
  match tabGet [] s.slots slot with
  | [] => none
  | ps => some ps

/-- A footprint that the region may have: inside the grid, on good sites, off failed links, within its slot's footprint, and,
where it takes sites, on sites that no other region keeps (R183, R202; 20 R303). -/
def State.fits (s : State) (rid : Nat) (slot : Option Nat) (p : Place) (w h : Nat) (takes : Bool) : Bool :=
  let ps := placePos p w h
  insideGrid p w h && ps.all s.good && !(footLinks ps).any s.linkFailed &&
    (match slot with
     | none => true
     | some k => match s.slotSites k with
       | none => true
       | some qs => ps.all qs.contains) &&
    (!takes || (s.others rid).all (fun x => !x.2.blocks || ps.all (fun q => !(placePos x.2.place x.2.w x.2.h).contains q)))

/-- Placements in the order of the search: origins in ascending site index, rotations ascending (R190). -/
def candidates (mask : BitVec 4) : List Place :=
  (List.range 128).flatMap (fun i =>
    ([0, 1, 2, 3].filter (fun r => mask.getLsbD r)).map (fun r => ⟨i / 64 * 8 + i % 8, i % 64 / 8, r⟩))

/-- The die of each side of a region: one for a region on one die (R185, R186). -/
def sideDies (p : Place) (w h : Nat) (sm : Seam) : List Nat :=
  match sm.axis with
  | 0 => [dieAt p w h 0 0]
  | 1 => [dieAt p w h 0 0, dieAt p w h sm.pos 0]
  | _ => [dieAt p w h 0 0, dieAt p w h 0 sm.pos]

/-- Channels that no region owns and that are not withdrawn, of a die, the lowest first. -/
def State.freeChans (s : State) (rid die : Nat) : List Nat :=
  ((List.range 128).map (fun n => 128 * die + n)).filter (fun ch =>
    !s.mem.withdrawn.contains ch && !(s.others rid).any (fun x => x.2.st != .free && x.2.cs.contains ch))

/-- The channel set that a placement would have, the lowest free channels of each side's die (R184, R186). -/
def State.chooseChans (s : State) (rid : Nat) (dies : List Nat) (k : Nat) : Option (List Nat) :=
  let n := if dies.length = 1 then 2 ^ k else 2 ^ (k - 1)
  let cs := dies.zipIdx.map (fun d => ((s.freeChans rid d.1).drop (n * ((dies.take d.2).filter (· == d.1)).length)).take n)
  if cs.all (fun c => c.length == n) then some cs.flatten else none

/-- The key of an ASID on a die. -/
def asidKey (die asid : Nat) : Nat := 1024 * die + asid

/-- The ASID is FREE on each die of a placement (16 R273). -/
def State.asidFree (s : State) (dies : List Nat) (asid : Nat) : Bool :=
  dies.all (fun d => tabGet .free s.asids (asidKey d asid) == .free)

/-- Bytes of a region's context range (R184). -/
def contextBytes (w h : Nat) : Nat := w * h * 0x400000 + 0x10000

/-- The context range fits in the store of the conductor's die (R184). -/
def State.contextFits (s : State) (rid w h : Nat) : Bool :=
  let used := ((s.mem.store.filter (fun x => x.1 / 16 == rid / 16 && x.1 != rid)).map (·.2)).foldl (· + ·) 0
  decide (used + contextBytes w h ≤ 0x28000000)

/-! ## Command results (10 R191, 21 R326) -/

/-- A command's final state is reported (R191). -/
def State.final (s : State) (rid cmd : Nat) : State := s.post ⟨rid, 2, 0, cmd, 0⟩

/-- A command's result is reported, and a refusal is an error response with an address logged (R191). -/
def State.answer (s : State) (rid cmd code : Nat) (addr : Word) : State :=
  let s := s.post ⟨rid, 1, code, cmd % 64, 0⟩
  if code = 0 then s else s.reqRecord 0 rid addr code

/-! ## PLACE (10 R190, R193; 16 R273) -/

/-- K is in range (R184). -/
def kInRange (k : Nat) (sm : Seam) : Bool := if sm.axis = 0 then decide (k ≤ 7) else decide (1 ≤ k) && decide (k ≤ 8)

/-- SEAMPOS is in range for the shape (R189). -/
def seamInRange (w h : Nat) (sm : Seam) : Bool :=
  match sm.axis with
  | 0 => true
  | 1 => decide (1 ≤ sm.pos) && decide (sm.pos ≤ w - 1)
  | _ => decide (1 ≤ sm.pos) && decide (sm.pos ≤ h - 1)

/-- The choice of a placement: the placement and its channels, or the lowest code that refuses (R190, R191). A condition that takes K
or SEAMPOS is not judged where that is out of range. DEDUCED: log 27. -/
def State.choosePlace (s : State) (rid : Nat) (c : Cmd) (slot : Option Nat) (w h k asid : Nat) (sm : Seam) (takes : Bool) :
    Except Nat (Place × List Nat) :=
  let seamOk := seamInRange w h sm
  let inRange := kInRange k sm && seamOk
  let chans (p : Place) : Option (List Nat) := if inRange then s.chooseChans rid (sideDies p w h sm) k else some []
  let met (p : Place) : Bool := !seamOk || seamMet p w h sm
  let free (p : Place) : Bool := s.asidFree (sideDies p w h sm) asid
  if !s.contextFits rid w h then .error 3
  else if c.explicit then
    let p := c.at'
    match (if s.fits rid slot p w h takes then chans p else none) with
    | none => .error 3
    | some cs => if !met p then .error 4 else if !inRange then .error 6 else if !free p then .error 7 else .ok (p, cs)
  else
    let full := ((candidates c.rotmask).filter (fun p => s.fits rid slot p w h takes && met p)).filterMap
      (fun p => (chans p).map (fun cs => (p, cs)))
    if full.isEmpty then .error 3
    else if !inRange then .error 6
    else
      match full.find? (fun x => free x.1) with
      | some x => .ok x
      | none => .error 7

/-- PLACE taken by a FREE region. -/
def State.place (s : State) (rid : Nat) (c : Cmd) : State × Nat :=
  let w := c.fld 16 4 + 1
  let h := c.fld 20 3 + 1
  let k := c.fld 36 4
  let asid := c.fld 40 10
  let sm : Seam := { axis := c.fld 26 2, pos := c.fld 28 4, lat := if c.fld 26 2 = 0 then 0 else 24 }
  let shared := c.desc.getLsbD 55
  let slot := if shared then some (c.fld 50 5) else none
  let takes := match slot with
    | none => true
    | some n => (s.slotSites n).isNone
  let service := c.desc.getLsbD 25
  let byService := match c.req with
    | .host | .manager => false
    | .service _ => true
  match s.choosePlace rid c slot w h k asid sm takes with
  | .error n => (s, n)
  | .ok (p, cs) =>
    if service && byService then (s, 9)
    else
      let old := s.region rid
      let r : Region := { st := if takes then .zeroing else .yielded, w := w, h := h, place := p, holds := takes, k := k,
                          cs := cs, asid := asid, service := service, shared := shared, slot := c.fld 50 5,
                          rotmask := c.rotmask, seam := sm, descAddr := c.addr, cmdQ := old.cmdQ, grant := old.grant,
                          nextGrant := old.nextGrant, evSeq := old.evSeq, frames := old.frames, log := old.log }
      let asids := (sideDies p w h sm).foldl (fun t d => tabSet .free t (asidKey d asid) (.bound rid)) s.asids
      let s := { s with asids := asids, mem := { s.mem with store := tabSet 0 s.mem.store rid (contextBytes w h) },
                        slots := if shared && takes then tabSet [] s.slots (c.fld 50 5) (placePos p w h) else s.slots }
      (s.setRegion rid r, 0)

/-! ## START, YIELD, FREEZE, RELEASE (10 R190, R194, R200) -/

/-- The launch records that wait behind a run. -/
def Region.queued (r : Region) : Nat := (r.startQ.filter (fun l => !l.now)).length

/-- The patch block of a START, read at acceptance: through the region's ASID, or by the host's translation (R190). -/
def State.readPatch (s : State) (rid : Nat) (va : Word) (n : Nat) : Option (List Byte) :=
  if n = 0 then some []
  else if vaDevice va then (s.readVa rid va n).map (fun v => natToBytes v n)
  else
    let pages := (List.range (hostPages va n)).map (fun i =>
      Config.hostTranslate (s.region rid).asid (BitVec.ofNat 64 ((va.toNat / hostPage + i) * hostPage)))
    let byte (i : Nat) : Byte := BitVec.ofNat 8 (((hostAt va (pages.filterMap id) i).map (fun a => memRead s.mem.host a 1)).getD 0)
    if pages.all (·.isSome) then some ((List.range n).map byte) else none

/-- START. -/
def State.start (s : State) (rid : Nat) (c : Cmd) : State × Nat :=
  let r := s.region rid
  if r.st != .placed && decide (8 ≤ r.queued) then (s, 8)
  else
    let va := c.desc.extractLsb' 192 64
    let (s, ok) := if vaDevice va then s.eccRange rid va (c.fld 256 13) else (s, true)
    match (if ok then s.readPatch rid va (c.fld 256 13) else none) with
    | none => (s, 10)
    | some patch =>
      let r := s.region rid
      let l : Launch := ⟨c.desc.extractLsb' 128 64, c.fld 270 6, patch, r.st == .placed⟩
      let r := { r with startQ := r.startQ ++ [l], st := if r.st == .placed then .running else r.st }
      (s.setRegion rid r, 0)

/-- The least declared freeze point at or above a tick (R194). -/
def freezeAt (n t : Nat) : Nat := (t + n - 1) / n * n

/-- A region as a freeze leaves its shadow copies: a STAGED step is staged again on resume, and a STEP in progress goes on so
(11 R217). -/
def Region.dropShadow (r : Region) : Region :=
  if r.staged.isSome || r.staging.isSome then
    { r with staged := none, staging := none, crc := [], restage := r.staged.or r.staging,
             restaging := r.staged.isSome || r.restaging }
  else r

/-- FREEZE taken: a freeze point of the running step is chosen; a region without one is FROZEN at once (R194). -/
def State.freeze (s : State) (rid : Nat) : State :=
  let r := s.region rid
  match r.run with
  | some run =>
    let f := freezeAt run.img.freezen (r.maxTick + 96)
    s.setRegion rid { r with st := .halting, run := some { run with f := some f } }
  | none => (s.setRegion rid { r.dropShadow with st := .frozen }).final rid 4

/-- RELEASE taken: the run is abandoned, the queued STARTs with it (R190). -/
def State.release (s : State) (rid : Nat) : State :=
  let s := (s.cutStep rid).dropRun rid
  s.setRegion rid { s.region rid with st := .releasing, startQ := [] }

/-! ## RESUME (10 R187, R190, R198) -/

/-- The seam declaration that a RESUME checks: that of the step in progress, or the request of the PLACE (R187). DEDUCED: a FROZEN region
without a step in progress has the PLACE's checked, and the descriptor's address logged (log 27). -/
def Region.resumeSeam (r : Region) : Seam :=
  match r.st, r.run with
  | .frozen, some run => run.img.seam
  | _, _ => r.seam

/-- Every side of a placement lies on the die of its channels (R187). -/
def Region.sidesHome (r : Region) (p : Place) : Bool :=
  let ds := sideDies p r.w r.h r.seam
  let at' (i : Nat) := (r.cs[i]?).getD 0 / 128
  if ds.length = 1 then ds == [at' 0] else ds == [at' 0, at' (2 ^ (r.k - 1))]

/-- Two regions that cannot both keep what sites they have: their footprints meet, or they share a slot (R183, R202). -/
def Region.rivals (a b : Region) : Bool :=
  (placePos a.place a.w a.h).any (fun q => (placePos b.place b.w b.h).contains q) || (a.shared && b.shared && a.slot == b.slot)

/-- Whether another region of the slot holds sites, but for a FROZEN one, which gives them up (R197, R202). -/
def State.slotTaken (s : State) (rid : Nat) : Bool :=
  let r := s.region rid
  r.shared && (s.others rid).any (fun x => x.2.shared && x.2.slot == r.slot && x.2.holds && x.2.st != .frozen)

/-- RESUME: the placement, or the code that refuses. A FROZEN region tries its own sites first, in the rotation it has and then in
others, among those that ROTMASK allows. DEDUCED: log 27. -/
def State.chooseResume (s : State) (rid : Nat) (c : Cmd) : Except Nat Place :=
  let r := s.region rid
  let slot := if r.shared then some r.slot else none
  let all := candidates c.rotmask
  let mine := placePos r.place r.w r.h
  let same (p : Place) : Bool := let ps := placePos p r.w r.h; ps.all mine.contains && mine.all ps.contains
  let own := if r.st == .frozen then all.filter (· == r.place) ++ all.filter same else []
  let cands := if c.explicit then [c.at'] else own ++ all
  let sm := r.resumeSeam
  if s.slotTaken rid then .error 3
  else
    let fit := cands.filter (fun p => s.fits rid slot p r.w r.h true)
    let met := fit.filter (fun p => seamMet p r.w r.h sm)
    match met.find? r.sidesHome with
    | some p => .ok p
    | none =>
      if !c.explicit || fit.isEmpty then .error 3 else if met.isEmpty then .error 4 else .error 5

/-- RESUME taken by a FROZEN or YIELDED region. -/
def State.resume (s : State) (rid : Nat) (c : Cmd) : State × Nat :=
  match s.chooseResume rid c with
  | .error n => (s, n)
  | .ok p =>
    let r := s.region rid
    (s.setRegion rid { r with st := .resuming, place := p, holds := true }, 0)

/-! ## Taking a command (10 R190 to R192) -/

/-- Whether a command is legal in a region's state (R190). -/
def RegSt.allows (st : RegSt) (cmd : Nat) : Bool :=
  match cmd with
  | 1 => st == .free
  | 2 => st == .placed || st == .running || st == .yielding || st == .halting || st == .frozen || st == .yielded
  | 3 | 4 => st == .running || st == .yielding
  | 5 => st == .frozen || st == .yielded
  | _ => st != .free

/-- The module takes commands only in READY (23 R346). -/
def State.ready (s : State) : Bool := s.boot.st == 3

/-- The address that a refusal logs: the step image at a RESUME of a frozen region (R187, R191), else the descriptor's. -/
def State.refusalAddr (s : State) (c : Cmd) (code : Nat) : Word :=
  let r := s.region c.rid
  match r.st, r.run with
  | .frozen, some run => if c.cmd = 5 ∧ (code = 4 ∨ code = 5) then run.img.va else c.addr
  | _, _ => c.addr

/-- A command is taken: its result and its effect. FREEZE of a region without a running step is final at once. -/
def State.takeCmd (s : State) (c : Cmd) : State × Nat :=
  let rid := c.rid
  let refuse (s : State) (n : Nat) : State × Nat :=
    (if c.req = .manager then s.post ⟨rid, 1, n, c.cmd, 0⟩ else s.answer rid c.cmd n (s.refusalAddr c n), n)
  if !c.inOrder then refuse s 1
  else if !s.ready || !(s.region rid).st.allows c.cmd || c.self then refuse s 2
  else
    let done (x : State × Nat) : State × Nat :=
      if x.2 = 0 then (x.1.answer rid c.cmd 0 c.addr, 0) else refuse x.1 x.2
    match c.cmd with
    | 1 =>
      let x := done (s.place rid c)
      if x.2 = 0 && (x.1.region rid).st == .yielded then (x.1.final rid 1, 0) else x
    | 2 => done (s.start rid c)
    | 3 => done (s.setRegion rid { s.region rid with st := .yielding }, 0)
    | 4 => ((s.answer rid 4 0 c.addr).freeze rid, 0)
    | 5 => done (s.resume rid c)
    | _ => done (s.release rid, 0)

/-- An operation that waits for a COLL of this region which has not issued (13 R254). DEDUCED: log 13. -/
def CollOp.short (o : CollOp) : Bool :=
  o.scope != .fabric && o.st == .waiting &&
    (match o.parts.head? with
     | some p => (List.range p.count.toNat).any (fun rank => !o.parts.any (fun q => q.rank == rank))
     | none => true)

/-- No engine operation of a faulted step can still complete: the next of a scope lacks a COLL that no stream issues any more, and
fails with the run (13 R257). DEDUCED: log 13. -/
def Region.opsStopped (r : Region) (run : Run) : Bool :=
  run.copies.all (fun o => o.st == .done) &&
    [CollScope.die, .package, .fabric].all (fun sc => match r.collHead sc with
      | none => true
      | some o => o.short)

/-- A faulted step has come to its stop tick, or nothing of it is left to go on (R319). A hold in progress is not abandoned, and
neither is an engine operation that can complete (05 R71). DEDUCED: log 13. -/
def Region.stopped (r : Region) : Bool :=
  match r.run with
  | none => false
  | some run =>
    match run.stop with
    | none => false
    | some st =>
      r.active && r.pick.isNone && r.opsStopped run && r.tiles.all (fun t => !t.held || decide (st ≤ t.tick + 1))

/-- A step's fault is being handled: the step goes on to its stop, or is about to end (21 R319). One that waits for a counter value or an
engine operation is none: RELEASE ends that wait (05 R71). DEDUCED: log 27. -/
def Region.handlesFault (r : Region) : Bool :=
  match r.run with
  | some run => run.stop.isSome && (r.pick.isSome || r.stopped)
  | none => false

/-- Whether the region manager can take a command for a region now (R192; 20 R307; 21 R323). -/
def State.canTake (s : State) (rid : Nat) : Bool :=
  let r := s.region rid
  r.st != .zeroing && r.st != .resuming && r.st != .releasing && !s.waiting rid && !r.handlesFault

/-- A command descriptor reaches the region manager: it is taken in the order of arrival, or waits (R192). The host's come through
the Neruo link (20 R303). The cursor says where the region manager takes the oldest one that waits. -/
def State.submit (s : State) (c : Cmd) : State :=
  let r := s.region c.rid
  let taken := decide (s.cur = .queue) && r.cmdQ.head? == some c
  if taken && s.canTake c.rid then ((s.setRegion c.rid { r with cmdQ := r.cmdQ.drop 1 }).takeCmd c).1
  else if taken || (c.req = .host && !s.neruoUp) then s
  else if s.canTake c.rid && r.cmdQ.isEmpty then (s.takeCmd c).1
  else s.setRegion c.rid { r with cmdQ := r.cmdQ ++ [c] }

/-- PLACE (10 R190). -/
def execPlace (c : Cmd) (s : State) : Out := .next (s.submit c)

/-- START (10 R190). -/
def execStart (c : Cmd) (s : State) : Out := .next (s.submit c)

/-- YIELD (10 R190, R200). -/
def execYieldCmd (c : Cmd) (s : State) : Out := .next (s.submit c)

/-- FREEZE (10 R190, R194). -/
def execFreeze (c : Cmd) (s : State) : Out := .next (s.submit c)

/-- RESUME (10 R187, R190, R198). -/
def execResume (c : Cmd) (s : State) : Out := .next (s.submit c)

/-- RELEASE (10 R190). -/
def execRelease (c : Cmd) (s : State) : Out := .next (s.submit c)

/-! ## ZEROING, RESUMING, RELEASING end (10 R192, R193, R197, R198; 16 R273, R274) -/

/-- A FROZEN region whose sites, or those of whose slot, another region has taken (R197, R202). -/
def State.mustSave (s : State) (rid : Nat) : Bool :=
  let r := s.region rid
  r.st == .frozen && r.holds && (s.others rid).any (fun x => x.2.blocks && x.2.rivals r)

/-- Whether a region's sites and its slot are clear of FROZEN regions' state. -/
def State.sitesClear (s : State) (rid : Nat) : Bool :=
  let r := s.region rid
  !(s.others rid).any (fun x => x.2.st == .frozen && x.2.holds && x.2.rivals r)

/-- CONTEXT_SAVE: a FROZEN region's state is copied to its context range; it holds no sites from then on (R184, R197). -/
def execContextSave (rid : Nat) (s : State) : Out :=
  if s.mustSave rid then .next (s.setRegion rid { s.region rid with saved := true, holds := false }) else .fault .notDue

/-- The tiles of a region, zero-filled (R193). -/
def Region.zeroTiles (r : Region) : Region := { r with tiles := List.replicate (r.w * r.h) Tile.zero }

/-- ZERO_FILL_COMPLETE: a placed region's tiles are zero; it is PLACED (R192, R193). -/
def execZeroFillComplete (rid : Nat) (s : State) : Out :=
  let r := s.region rid
  if r.st == .zeroing && s.sitesClear rid && !s.waiting rid then
    .next ((s.setRegion rid { r.zeroTiles with st := .placed }).final rid 1)
  else .fault .notDue

/-- A stream as it goes on after a freeze (05 R69). -/
def Stream.thaw (x : Stream) : Stream := if x.st == .frozen then { x with st := x.was } else x

/-- A tile as it goes on after a freeze: its streams take up the states they had, and its virga area is presented
(R198). -/
def Tile.thaw (t : Tile) : Tile :=
  { t with ld := t.ld.thaw, ex := t.ex.thaw, st := t.st.thaw, ct := t.ct.thaw, virga := [], virgaSoft := [] }

/-- The virga entries of a region back among the effects in flight; due ticks, phases and issue order decide (R198). -/
def Region.replay (r : Region) : Region :=
  let es := r.tiles.flatMap (fun t => t.virga.map (·.2))
  { (r.modRun (fun run => { run.addAll es with f := none })) with tiles := r.tiles.map Tile.thaw }

/-- The errors that a replay finds in the virga areas: one bit is corrected, with a log entry; what cannot be corrected is class 15 cause 1
at the tick at which the tiles go on (21 R324, R327). -/
def State.virgaErrors (s : State) (rid : Nat) (tiles : List Tile) : State :=
  tiles.zipIdx.foldl
    (fun s x =>
      let r := s.region rid
      let s := (x.1.virgaSoft.filter (· == .single)).foldl (fun s _ => s.celLog 1 (r.site x.2) rid) s
      s.tileError rid x.2 (r.maxTick + 1) [] (x.1.virgaSoft.filter (· == .double)).length)
    s

/-- The step that is STAGED, or was when its region froze and is on its way to be so again (11 R217). -/
def Region.stagedStep (r : Region) : Option Img := r.staged.or (if r.restaging then r.restage.or r.staging else none)

/-- A region that a RESUME has brought back: RUNNING, or PLACED where nothing is left to run (R190). -/
def Region.goesOn (r : Region) : Region :=
  let r := { r with st := .running, saved := false }
  if r.graphs.isEmpty && r.run.isNone then r.afterRun else r

/-- A step whose shadow copy a freeze has discarded is staged again from its image (11 R217). Where a granule of what is read is lost, the
region becomes YIELDED at its restart record, once no step is in progress (16 R281; 21 R325). DEDUCED: log 16. -/
def State.stageAgain (s : State) (rid : Nat) : State :=
  let r := s.region rid
  match r.restage, r.graphs with
  | some old, g :: _ =>
    let g := { g with imgBase := old.va, imgLen := old.len, key := old.key }
    let reads := s.imageReads rid g old.va old.param
    if s.eccBad rid reads && r.run.isSome then s
    else
      match s.eccRanges rid reads with
      | (s, false) => s.yieldLost rid
      | (s, true) =>
        let s := s.setRegion rid { s.region rid with restage := none }
        let (s', res) := s.readImage rid g old.va old.param
        match res with
        | .error (code, addr) => s'.condFault rid 13 code r.stepPc r.stepWord addr 0
        | .ok img =>
          let s' := s'.admission rid img.tlb
          s'.setRegion rid { s'.region rid with staging := some img, crc := [] }
  | _, _ => s

/-- RESUME_RESTORED: a frozen region goes on at its freeze point, a yielded one with zero-filled tiles and its conductor as
kept (R193, R198, R200). -/
def execResumeRestored (rid : Nat) (s : State) : Out :=
  let r := s.region rid
  if r.st == .resuming && s.sitesClear rid && !s.waiting rid then
    let r := match r.kept with
      | some k => { r.zeroTiles with graphs := k.graphs, begun := !k.graphs.isEmpty, poolShared := k.shared,
                                     poolRes := k.reserved, kept := none }
      | none => if r.tiles.isEmpty then r.zeroTiles else r.replay
    .next ((((s.setRegion rid r.goesOn).virgaErrors rid (s.region rid).tiles).final rid 5).stageAgain rid)
  else .fault .notDue

/-- REGION_FREED: sites, channels and context range are free, the ASID is QUARANTINED on each die it was bound on (R190;
16 R273). -/
def execRegionFreed (rid : Nat) (s : State) : Out :=
  let r := s.region rid
  if r.st == .releasing && !s.waiting rid then
    let fresh : Region := { cmdQ := r.cmdQ, ctrs := r.ctrs, frames := r.frames, grant := r.grant, nextGrant := r.nextGrant,
                            evSeq := r.evSeq, rmeas := r.rmeas, log := r.log }
    let asids := s.asids.map (fun x => if x.2 = .bound rid then (x.1, .quarantined) else x)
    let m := s.mem
    let m := { m with store := tabSet 0 m.store rid 0, rmSeals := m.rmSeals.filter (fun x => x.rid != rid),
                      pages := m.pages.filter (fun p => p.rid != rid) }
    let last := r.shared && !(s.others rid).any (fun x => x.2.shared && x.2.slot == r.slot && x.2.st != .free)
    let slots := if last then tabSet [] s.slots r.slot [] else s.slots
    .next (({ s with asids := asids, mem := m, slots := slots }.setRegion rid fresh).final rid 6)
  else .fault .notDue

/-- QUARANTINE_SWEEP_DONE: a die has dropped every entry of a quarantined ASID, which becomes FREE there (16 R273,
R274). -/
def execQuarantineSweepDone (die asid : Nat) (s : State) : Out :=
  if tabGet .free s.asids (asidKey die asid) = .quarantined then
    let walk := s.mem.walk.filter (fun x => x.1 / 2 ^ 28 != asid * 2 + die)
    .next { s with asids := tabSet .free s.asids (asidKey die asid) .free, mem := { s.mem with walk := walk } }
  else .fault .notDue

end Sys2Proof.Machine
end

