-- ==== Sys2Proof/Machine/Service.lean ====
section
/-! DEFINITION. The service conductor's instructions, and memory-window accesses, which CELR shares with the host (10 R208,
R209; 16 R271, R272, R281; 17 R288; 20 R308; 21 R331). -/

namespace Sys2Proof.Machine

/-! ## Memory-window accesses (17 R288, 20 R308) -/

/-- The regions to which an ASID is BOUND, by die. -/
def State.asidRegions (s : State) (asid : Nat) : List Nat :=
  [0, 1].filterMap (fun d => match tabGet .free s.asids (asidKey d asid) with
    | .bound rid => some rid
    | _ => none)

/-- The region to which an ASID is BOUND whose space an address names, else any region to which it is BOUND. -/
def State.asidOwner (s : State) (asid : Nat) (va : Word) : Option Nat :=
  let rs := s.asidRegions asid
  match rs.find? (fun rid => s.inHome rid va) with
  | some rid => some rid
  | none => rs.head?

/-- A line lies in the footprint of a STAGED or RUNNING step of a region (R288); one that was STAGED when the region froze is so until it
runs (11 R217). -/
def Region.inUse (r : Region) (va : Word) : Bool :=
  let a : Word := BitVec.ofNat 64 (va.toNat / 64 * 64)
  (match r.stagedStep with
   | some img => meetsFoot img.foot a 64
   | none => false) ||
  (match r.run with
   | some run => meetsFoot run.img.foot a 64
   | none => false)

/-- The reason that an access of `n` bytes of a region's space is refused, 0 where it is not (R308, R309): the lowest. -/
def State.accessRefusal (s : State) (rid : Nat) (va : Word) (n : Nat) (write : Bool) : Nat :=
  if va.toNat % 64 ≠ 0 ∧ 64 ≤ n ∨ !s.mapped rid va n false then 2
  else if write && !s.mapped rid va n true then 3
  else if write && s.isSealed rid va n then 4
  else if write && (List.range ((n + 63) / 64)).any (fun i => (s.region rid).inUse (va + BitVec.ofNat 64 (64 * i))) then 5
  else 0

/-- The reason that a window access of `n` bytes under an ASID is refused, 0 where it is not: 1 where the ASID is not BOUND (R308, R309). -/
def State.windowRefusal (s : State) (asid : Nat) (va : Word) (n : Nat) (write : Bool) : Nat :=
  match s.asidOwner asid va with
  | none => 1
  | some rid => s.accessRefusal rid va n write

/-- The state after a window write: the line is written and its stamp is 0 (R288). -/
def State.windowWrite (s : State) (rid : Nat) (va : Word) (n v : Nat) : State :=
  let s := s.writeVa rid va n v
  (List.range ((n + 63) / 64)).foldl
    (fun s i =>
      match s.translate rid (va + BitVec.ofNat 64 (64 * i)) with
      | some k =>
        { s with mem := { s.mem with stamps := tabSet 0 s.mem.stamps (k / 64) 0,
                                     ecc := tabSet .none s.mem.ecc (k / 64) .none } }
      | none => s)
    s

/-! ## Walk caches (16 R271, R272) -/

/-- The state of an ASID on a die. -/
def State.asidOn (s : State) (die asid : Nat) : AsidSt := tabGet .free s.asids (asidKey die asid)

/-- The walk cache without the entries that satisfy `p`, given ASID, die and table-store offset of each. -/
def Mem.dropWalk (m : Mem) (p : Nat → Nat → Nat → Bool) : Mem :=
  { m with walk := m.walk.filter (fun x => !p (x.1 / 2 ^ 28 / 2) (x.1 / 2 ^ 28 % 2) (x.1 % 2 ^ 28)) }

/-- TLBIA: every walk-cache entry of an ASID is dropped on both dies. The lowest code counts (R272). -/
def execTlbia (d a : BitVec 4) (s : State) : Out :=
  issueCond (.tlbia d a) s (fun c =>
    let v := c.rd a
    let asid := slice v 0 10
    if s.asidOn 0 asid = .free ∧ s.asidOn 1 asid = .free then .next (c.result s d 1)
    else if slice v 10 54 ≠ 0 then .next (c.result s d 5)
    else .next (c.result { s with mem := s.mem.dropWalk (fun x _ _ => x == asid) } d 0))

/-- The entries that walks of the 1 GiB range of an offset use, in the walk cache and in the table store (R272). -/
def State.walkEntries (s : State) (die asid o : Nat) : List Nat :=
  let store (x : Nat) : Word := s.mem.tableWord die x
  let held (x : Nat) : Word := tabGet (store x) s.mem.walk (walkKey die asid (x % 2 ^ 28))
  (walkTables store store asid o).1 ++ (walkTables held store asid o).1 ++ (walkTables held held asid o).1

/-- TLBIV: the walk-cache entries of an ASID for the 1 GiB range of an address; an address that no valid leaf maps is refused and
nothing is dropped (R272). -/
def execTlbiv (d a b : BitVec 4) (s : State) : Out :=
  issueCond (.tlbiv d a b) s (fun c =>
    let v := c.rd a
    let va := c.rd b
    let asid := slice v 0 10
    match s.asidOwner asid va with
    | none => .next (c.result s d 1)
    | some rid =>
      if !(vaClean va && vaDevice va && decide (vaDie va / 2 = s.time.member)) || (s.leafOf rid va).isNone then .next (c.result s d 2)
      else if slice v 10 54 ≠ 0 then .next (c.result s d 5)
      else
        let hit (die x : Nat) : Bool := (s.walkEntries die asid (vaOff va)).any (fun e => e % 2 ^ 28 == x)
        .next (c.result { s with mem := s.mem.dropWalk (fun y die x => y == asid && hit die x) } d 0))

/-- The channel and 64 KiB block behind an address of an ASID, in the plain interleave (R281). -/
def State.blockOf (s : State) (rid : Nat) (va : Word) : Option (Nat × Nat) :=
  (s.translate rid va).map (fun k => (keyChan k, keyBlock k))

/-- PGRET: retires the block behind an address; the word is done when the block is RETIRED (R272, R281). While it waits,
`joined` marks that it began. DEDUCED: log 20. -/
def execPgret (d a : BitVec 4) (s : State) : Out :=
  issueCond (.pgret d a) s (fun c =>
    let va := c.rd a
    let v := c.rd (a + 1)
    let asid := slice v 0 10
    let answer (s : State) (n : Word) : Out :=
      .next (s.setRegion c.rid ((s.region c.rid).setGraph
        { c.g.next with s := regSet c.g.s d n, joined := 0 }))
    match s.asidOwner asid va with
    | none => answer s 1
    | some rid =>
      match s.blockOf rid va with
      | none => answer s 2
      | some (ch, blk) =>
        match s.mem.retireOf ch blk with
        | some x =>
          if x.retired then answer s (if 0 < c.g.joined then 0 else 3)
          else if slice v 10 54 ≠ 0 ∧ c.g.joined = 0 then answer s 5
          else .next (s.setRegion c.rid (c.r.setGraph { c.g with joined := 1 }))
        | none =>
          if spareFrames ≤ tabGet 0 s.mem.spares ch then answer s 4
          else if slice v 10 54 ≠ 0 then answer s 5
          else
            let s := s.retire ch blk
            .next (s.setRegion c.rid ((s.region c.rid).setGraph { c.g with joined := 1 })))

/-- CELR: copies a log entry to an address of the service region's own space (21 R331; 16 R273). -/
def execCelr (d a : BitVec 4) (s : State) : Out :=
  issueCond (.celr d a) s (fun c =>
    let va := c.rd a
    let ok := decide (va.toNat % 16 = 0 ∧ s.accessRefusal c.rid va 16 false = 0)
    let (s, ok) := if ok then s.eccRange c.rid va 16 else (s, false)
    match (if ok then s.readVa c.rid va 16 else none) with
    | none => .next (c.result s d 3)
    | some v =>
      let seq : Word := BitVec.ofNat 64 v
      let dst : Word := BitVec.ofNat 64 (v >>> 64)
      if s.cel.head.toNat ≤ seq.toNat then .next (c.result s d 1)
      else if seq.toNat < s.cel.base.toNat then .next (c.result s d 2)
      else if dst.toNat % 64 ≠ 0 ∨ s.accessRefusal c.rid dst 128 true ≠ 0 then .next (c.result s d 3)
      else
        let e := tabGet 0 s.cel.entries (seq.toNat % 1048576)
        .next (c.result (s.windowWrite c.rid dst 128 e.toNat) d 0))

/-- RMCMD: submits a region command; the word is done when it is accepted or refused (R209). -/
def execRmcmd (d a : BitVec 4) (s : State) : Out :=
  issueCond (.rmcmd d a) s (fun c =>
    let va := c.rd a
    if !vaObject va then .next (c.fault s 2 0 va 0)
    else
      match s.readVa c.rid va 64 with
      | none => .next (c.fault s 2 0 va 0)
      | some v =>
        let cmd : Cmd := ⟨.service c.rid, va, BitVec.ofNat 512 v⟩
        if s.canTake cmd.rid && (s.region cmd.rid).cmdQ.isEmpty then
          let (s, code) := s.takeCmd cmd
          let r := s.region c.rid
          match r.graphs with
          | g :: _ => .next (s.setRegion c.rid (r.setGraph { g.next with s := regSet g.s d (BitVec.ofNat 64 code) }))
          | [] => .next s
        else holdWord s)

end Sys2Proof.Machine
end

