-- ==== Sys2Proof/Machine/StepLife.lean ====
section
/-! DEFINITION. The life of a step: its plane swap, its rendezvous, the stop of a faulted step, re-execution and restart
(05 R69 to R71; 11 R215, R217, R218; 16 R276, R281; 17 R283, R289; 21 R319 to R325). -/

namespace Sys2Proof.Machine

/-! ## PLANE_SWAP (11 R215, R218) -/

/-- The slice of tile `i` among `p` tiles: first flat index and count (R215). -/
def Img.slice (img : Img) (i p : Nat) : Nat × Nat :=
  match img.nest with
  | none => (0, 0)
  | some n =>
    let total := n.ext.foldl (· * ·) 1
    let q := total / p
    let rem := total % p
    (i * q + min i rem, if i < rem then q + 1 else q)

/-- The scalar registers at region tick 0 (05 R75). -/
def Img.preloads (img : Img) (i w h : Nat) : Regs :=
  let (first, count) := img.slice i (w * h)
  let put (t : Regs) (d : BitVec 4) (v : Word) : Regs := regSet t d v
  put (put (put (put (put (put [] 1 (BitVec.ofNat 64 first)) 2 (BitVec.ofNat 64 count)) 3 (BitVec.ofNat 64 i)) 4
    (BitVec.ofNat 64 w)) 5 (BitVec.ofNat 64 h)) 6 img.param

/-- A stream with a step's code, forms and preloads at region tick 0; the plane it had becomes its shadow. -/
def Stream.swapIn (x : Stream) (plane : Option (Tab (BitVec 32))) (forms : Option (Tab (BitVec 128))) (regs : Regs) : Stream :=
  { st := .running, s := regs, forms := forms.getD [], plane := plane.getD [], shadow := x.plane }

/-- A tile at region tick 0 of a step (R218; 04 R63; 06 R105, R109; 07 R139; 08 R162). DEDUCED: log 21. -/
def Tile.swapIn (img : Img) (w h i : Nat) (t : Tile) : Tile :=
  let regs := img.preloads i w h
  let load (x : Stream) (j : Nat) : Stream := x.swapIn img.planes[j]? img.forms[j]? regs
  let z : BitVec 24576 := (t.zflag &&& img.carried) ||| ~~~img.carried
  let t' : Tile := { ld := load t.ld 0, ex := load t.ex 1, st := load t.st 2, ct := load t.ct 3, key := img.key,
                     drawCtr := img.draws, spad := t.spad, side := t.side, zflag := z, banks := img.banks,
                     soft := t.soft.filter (fun x => img.carried.getLsbD (x.1 / 10)) }
  { img.fills.foldl (fun t f => t.setLine f.line f.data f.side) t' with wflag := 0 }

/-- A staged step's class is granted (10 R205, 23 R353). -/
def Region.granted (r : Region) (img : Img) : Bool :=
  match r.grant with
  | some g => decide (img.energy ≤ g)
  | none => false

/-- Whether the STAGED step of a region can start. -/
def Region.canSwap (r : Region) : Bool :=
  match r.staged with
  | some img => r.run.isNone && (r.st == .running || r.st == .yielding) && r.granted img
  | none => false

/-- The state with a step at region tick 0: the step count goes on, its pages count as admitted, its seals are those of now
(R218; 16 R277; 17 R283). -/
def State.beginStep (s : State) (rid : Nat) (img : Img) (reexec : Nat) : State :=
  let r := s.region rid
  let n := r.steps + 1
  let run : Run := { img := img, epoch := epochOf n, sealed0 := s.sealRanges rid, reexec := reexec, collCount0 := r.collCount }
  s.setRegion rid { r with
    steps := n, run := some run, colls := [],
    admitted := img.tlb.foldl (fun t e => tabSet 0 t (pageKey e) n) r.admitted,
    tiles := r.tiles.zipIdx.map (fun x => Tile.swapIn img r.w r.h x.2 x.1) }

/-- PLANE_SWAP: a granted STAGED step starts (R218). -/
def execPlaneSwap (rid : Nat) (s : State) : Out :=
  let r := s.region rid
  match r.staged with
  | some img =>
    if r.canSwap then .next ((s.setRegion rid { r with staged := none }).beginStep rid img 0) else .fault .notDue
  | none => .fault .notDue

/-! ## STEP_RENDEZVOUS (05 R71; 11 R218; 16 R276) -/

/-- Every stream is ENDED and nothing that one of them issued is in flight (R71). -/
def Region.canMeet (r : Region) : Bool :=
  match r.run with
  | none => false
  | some run =>
    r.active && run.faults.isEmpty && r.quiet run && r.tiles.all (fun t => !t.held)

/-- Pending seal effects in the order of issue tick and tile (R276). -/
def sealInsert (e : SealEff) : List SealEff → List SealEff
  | [] => [e]
  | x :: xs =>
    if lexLt [e.org.issue, e.org.tile] [x.org.issue, x.org.tile] then e :: x :: xs else x :: sealInsert e xs

/-- A pending seal effect takes effect; the leaves of pages that become sealed are recorded (R276, R277). -/
def State.applySeal (s : State) (rid : Nat) (e : SealEff) : State :=
  if e.add then
    let s := s.recordLeaves rid e.base e.len.toNat
    let r := s.region rid
    s.setRegion rid { r with seals := r.seals ++ [(e.base, e.len)] }
  else
    let r := s.region rid
    (s.setRegion rid { r with seals := r.seals.erase (e.base, e.len) }).forgetLeaves rid

/-- A region at a boundary where no step is in progress: a FREEZE that stands freezes here, a run that a conductor fault ended
gives way to the next START, a step that could not be staged again before is staged now; what the steps of a run that is over wrote is published (00 R3; 10 R190, R194; 21 R322, R323). -/
def State.atBoundary (s : State) (rid : Nat) : State :=
  let r := s.region rid
  let faulted := r.condFault.isSome
  let r := if r.graphs.isEmpty then { r.freeCounters with collCount := [], condFault := none, unpub := [] } else r
  let s := s.setRegion rid r
  if faulted && r.graphs.isEmpty && s.broken rid then s.afterFault rid
  else if r.st == .halting then (s.setRegion rid { r.dropShadow with st := .frozen }).final rid 4
  else (s.setRegion rid (if r.graphs.isEmpty then r.afterRun else r)).stageAgain rid

/-- STEP_RENDEZVOUS: the step ends, its writes are published, its seal effects take effect (R71, R218, R276). -/
def execStepRendezvous (rid : Nat) (s : State) : Out :=
  let r := s.region rid
  match r.run with
  | none => .fault .notDue
  | some run =>
    if r.canMeet then
      let seals := run.seals.foldl (fun acc e => sealInsert e acc) []
      let s := seals.foldl (fun s e => s.applySeal rid e) (s.setRegion rid r.noRun)
      .next (s.atBoundary rid)
    else .fault .notDue

/-! ## The end of a faulted step (21 R319 to R325) -/

/-- How a faulted step ends. -/
inductive Ending where
  /-- a fault of classes 1 to 14 ends the run (R322) -/
  | fatal
  /-- a lost granule: the region becomes YIELDED (R325) -/
  | lost
  /-- an uncorrectable tile error: the step runs again (R324) -/
  | reexecute
  /-- an uncorrectable tile error: the run goes on from its restart record (R325) -/
  | restart
  deriving DecidableEq, Repr

/-- Whether a step that met an uncorrectable tile error can run again (R324). -/
def Region.mayReexecute (r : Region) (run : Run) : Bool :=
  !run.badCarried && !run.fabric && decide (run.reexec < 2) && r.tiles.all (fun t => t.wflag &&& run.img.carried == 0)

/-- The first tick at which a tile of a step read an error that cannot be corrected (R324). -/
def Run.errorTick (run : Run) : Option Nat := leastOf ((run.faults.filter (fun f => f.machine 1)).map (·.tick))

/-- How the stopped step of a region ends. A stream fault from the tick of an error that cannot be corrected on does not end the run: it is
the error's doing, or comes again when the step runs again (R324). DEDUCED: log 16. -/
def Region.ending (r : Region) (run : Run) : Ending :=
  if run.faults.any (fun f => f.cls != 15 && run.errorTick.all (fun t => decide (f.tick < t))) then .fatal
  else if run.faults.any (fun f => f.machine 2) then (if r.restart.isSome then .lost else .fatal)
  else if r.mayReexecute run then .reexecute
  else if r.restart.isSome then .restart
  else .fatal

/-- The frame window and the events of a stopped step; a conductor frame of the run stands last (R320, R321). -/
def State.record (s : State) (rid : Nat) (run : Run) : State :=
  let r := s.region rid
  let fs := r.frameFaults run
  (s.setRegion rid (r.rewriteFrames (fs ++ r.condFault.toList))).postFaults rid fs

/-- The run of a region ended by a fault of its step (R322). -/
def State.endRun (s : State) (rid : Nat) : State :=
  let s := s.dropRun rid
  if s.broken rid then s.afterFault rid else s.atBoundary rid

/-- STEP_STOP: the step of a stream fault or of a lost granule ends (R319 to R322, R325). -/
def execStepStop (rid : Nat) (s : State) : Out :=
  let r := s.region rid
  match r.run with
  | none => .fault .notDue
  | some run =>
    if !r.stopped then .fault .notDue
    else
      let recorded := (s.celResolve rid 0).record rid run
      let ended := recorded.setRegion rid (recorded.region rid).noRun
      match r.ending run, r.restart with
      | .fatal, _ => .next (ended.endRun rid)
      | .lost, some k =>
        let s := { ended with mem := ended.mem.restore run.undo }
        if r.st == .halting then
          let s := s.reseal rid k.graphs
          .next ((s.setRegion rid ((s.region rid).atRecord k).zeroTiles).atBoundary rid)
        else .next (s.yieldAtRecord rid)
      | _, _ => .fault .notDue

/-- STEP_REEXECUTE: the lines that atomics touched are restored and the step runs again from region tick 0 with a new epoch
(R324; 17 R283, R289). A FREEZE that stands takes a freeze point of the new run. -/
def execStepReexecute (rid : Nat) (s : State) : Out :=
  let r := s.region rid
  match r.run with
  | none => .fault .notDue
  | some run =>
    if r.stopped && r.ending run == .reexecute then
      let s := s.celResolve rid 1
      let s := { s.setRegion rid { (s.region rid).noRun with collCount := run.collCount0 } with mem := s.mem.restore run.undo }
      let s := s.beginStep rid run.img (run.reexec + 1)
      let r := s.region rid
      let f := if r.st == .halting then some (freezeAt run.img.freezen 96) else none
      .next (s.setRegion rid (r.modRun (fun x => { x with f := f })))
    else .fault .notDue

/-- RUN_RESTART: the tiles are zero-filled and the run goes on from its restart record (R325; 10 R193). -/
def execRunRestart (rid : Nat) (s : State) : Out :=
  let r := s.region rid
  match r.run, r.restart with
  | some run, some k =>
    if r.stopped && r.ending run == .restart then
      let s := (s.celResolve rid 2).record rid run
      let s := (s.setRegion rid (s.region rid).noRun).reseal rid k.graphs
      let s := { s with mem := s.mem.restore run.undo }
      let r := ((s.region rid).atRecord k).zeroTiles
      .next ((s.setRegion rid r).atBoundary rid)
    else .fault .notDue
  | _, _ => .fault .notDue

end Sys2Proof.Machine
end

