-- ==== Sys2Proof/Machine/Ahead.lean ====
section
/-! DEFINITION. The word that a conductor issues next, and the STEP that it comes to as things stand: what a tenure choice asks of a
region (10 R206; 11 R219). -/

namespace Sys2Proof.Machine

/-! ## Fetch by a conductor (11 R219) -/

/-- The kind of a region's conductor. -/
def Region.condKind (r : Region) : SeqKind := if r.service then .service else .conductor

/-- The word that a conductor issues next: past its code, cause 9 with word 0 (R219). DEDUCED: log 20. -/
def State.condFetch (s : State) (rid : Nat) (g : Graph) : BitVec 32 × Instr :=
  if 64 + g.clen ≤ g.pc then (0, fetched (.error 9))
  else
    let w := BitVec.ofNat 32 ((s.readVa rid (g.va + BitVec.ofNat 64 g.pc) 4).getD 0)
    (w, fetched (decode (s.region rid).condKind 0 w))

/-! ## Looking ahead (10 R206). DEDUCED: log 25 -/

/-- A conductor word on a copy of the machine; a word that waits goes on there. -/
def aheadWord (i : Instr) (c : CCtx) (s : State) : Out :=
  match i with
  | .nop h => execNop h s
  | .add h d a b => execAdd h d a b s
  | .sub h d a b => execSub h d a b s
  | .and h d a b => execAnd h d a b s
  | .or h d a b => execOr h d a b s
  | .xor h d a b => execXor h d a b s
  | .sll h d a b => execSll h d a b s
  | .srl h d a b => execSrl h d a b s
  | .sra h d a b => execSra h d a b s
  | .mul h d a b => execMul h d a b s
  | .mulh h d a b => execMulh h d a b s
  | .mulhu h d a b => execMulhu h d a b s
  | .div h d a b => execDiv h d a b s
  | .divu h d a b => execDivu h d a b s
  | .rem h d a b => execRem h d a b s
  | .remu h d a b => execRemu h d a b s
  | .min h d a b => execMin h d a b s
  | .max h d a b => execMax h d a b s
  | .minu h d a b => execMinu h d a b s
  | .maxu h d a b => execMaxu h d a b s
  | .slt h d a b => execSlt h d a b s
  | .sltu h d a b => execSltu h d a b s
  | .sel h d a b c => execSel h d a b c s
  | .clz h d a => execClz h d a s
  | .popc h d a => execPopc h d a s
  | .jr h a => execJr h a s
  | .getc h d c => execGetc h d c s
  | .setc h c a => execSetc h c a s
  | .trap h n => execTrap h n s
  | .addi h d a imm => execAddi h d a imm s
  | .andi h d a imm => execAndi h d a imm s
  | .ori h d a imm => execOri h d a imm s
  | .xori h d a imm => execXori h d a imm s
  | .slli h d a sh => execSlli h d a sh s
  | .srli h d a sh => execSrli h d a sh s
  | .srai h d a sh => execSrai h d a sh s
  | .slti h d a imm => execSlti h d a imm s
  | .beq h d a off => execBeq h d a off s
  | .bne h d a off => execBne h d a off s
  | .blt h d a off => execBlt h d a off s
  | .bge h d a off => execBge h d a off s
  | .bltu h d a off => execBltu h d a off s
  | .bgeu h d a off => execBgeu h d a off s
  | .li h d imm => execLi h d imm s
  | .lih h d imm => execLih h d imm s
  | .j h off => execJ h off s
  | .jal h d off => execJal h d off s
  | .signal c a => execSignal c a s
  | .launch d a b => execLaunch d a b s
  | .joinc d => execJoinc d s
  | .yieldp => execYieldp s
  | .hostn a code => execHostn a code s
  | .endConductor => execEndConductor s
  | .cntsConductor c a => execCntsConductor c a s
  | .cntrConductor d c => execCntrConductor d c s
  | .tlbia d a => execTlbia d a s
  | .tlbiv d a b => execTlbiv d a b s
  | .celr d a => execCelr d a s
  | .illegalInstruction n => .next (c.illegal s n.toNat)
  | _ => .next (c.advance s)

/-- The image that a region's conductor gives its next STEP, on a copy of the machine in which nothing of the region runs; none where
it comes to none. -/
def State.aheadStep (rid : Nat) : Nat → State → Option Word
  | 0, _ => none
  | fuel + 1, s =>
    let r := s.region rid
    match r.graphs, r.startQ with
    | [], [] => none
    | [], l :: rest => State.aheadStep rid fuel (s.beginTop rid l rest)
    | g :: up, _ =>
      if !r.begun && !g.kids.isEmpty then State.aheadStep rid fuel (s.beginChild rid g up)
      else
        let s := s.setRegion rid { r with begun := true }
        let (w, i) := s.condFetch rid g
        let s := { s with cur := .conductor rid w }
        match i, s.cctx with
        | .condStep a _, _ => some (regGet g.s a)
        | _, none => none
        | i, some c =>
          match aheadWord i c s with
          | .next s => State.aheadStep rid fuel s
          | _ => none

/-- Words that are looked at. -/
def aheadFuel : Nat := 4096

/-- A region with nothing that runs but its conductor, as a tenure that chose it would have it. -/
def Region.ahead (r : Region) : Region :=
  let r := { r with run := none, st := .running, staging := none, staged := none, restage := none }
  match r.kept with
  | some k => { r with graphs := k.graphs, begun := !k.graphs.isEmpty, poolShared := k.shared, poolRes := k.reserved, kept := none }
  | none => r

/-- The class of a region's next STEP: that of a step that is STAGED or on its way, else of the image that its conductor comes to; 0
where there is none (R206). -/
def State.nextClass (s : State) (rid : Nat) : Nat :=
  let r := s.region rid
  match (r.staged.or r.staging).or r.restage with
  | some img => img.energy
  | none =>
    match State.aheadStep rid aheadFuel (s.setRegion rid r.ahead) with
    | some va => bitsOf ((s.readVa rid va 128).getD 0) 108 4
    | none => 0

end Sys2Proof.Machine
end

