-- ==== Sys2Proof/Machine/Freeze.lean ====
section
/-! DEFINITION. Freeze points: the hold at tick F and the drain into the virga areas (10 R194 to R197; 05 R69, R74). -/

namespace Sys2Proof.Machine

/-- An effect that R196 does not drain: the remaining reads, pops, blocks or row groups of an instruction that goes on by
itself. -/
def Act.running : Act → Bool
  | .vec _ _ _ | .maddwRd _ _ _ _ | .mmaBlk _ _ _ _ _ _ _ _ | .lstrm _ _ _ _ _ | .sstrm _ _ _ _ _ => true
  | _ => false

/-- The source of a drained effect (R196). -/
def Act.source : Act → Src
  | .word _ _ src => src
  | .depart _ _ => .loc
  | .resp _ _ => .mem
  | _ => .pipe

/-- Entries of 64 payload bytes that an effect takes in the virga area (R196). DEDUCED: log 14. -/
def Act.entries (run : Run) : Act → Nat
  | .rows ws sets => 8 * ws.length + 2 * sets.length
  | .mread _ _ _ _ | .maddw _ _ _ => 32
  | .mmaAdd _ _ _ _ _ _ _ _ _ _ => 30
  | .push _ _ _ | .bankWr (.stq _ _) | .bankWr (.stt _ _ _) | .bankWr (.scat _ _) => 18
  | .bankRd (.scatIdx _ _ _) _ => 18
  | .resp id _ =>
    match run.reqs.find? (fun q => q.id == id) with
    | some q => max 1 q.got.length
    | none => 0
  | .trim _ => 0
  | a => if a.running then 0 else 1

/-- The region has come to its freeze point F: everything before F has issued and landed, no tile holds (R195). A fault below
F goes first (21 R323). -/
def Region.canHalt (r : Region) : Bool :=
  match r.run with
  | none => false
  | some run =>
    r.st == .halting && !r.draining && run.f.isSome && run.stop.isNone && !r.canMeet && r.pick.isNone &&
      r.tiles.all (fun t => !t.held)

/-- A tile that takes effects into its virga area, in the order they stand. -/
def Tile.drain (t : Tile) (es : List Eff) : Tile := { t with virga := es.map (fun e => (e.act.source, e)) }

/-- FREEZE_POINT: the tiles hold before tick F, and effects due at F or later go into the virga areas (R195, R196). -/
def execFreezePoint (rid : Nat) (s : State) : Out :=
  let r := s.region rid
  match r.run with
  | none => .fault .notDue
  | some run =>
    if r.canHalt then
      let out := run.effs.filter (fun e => !e.act.running)
      let r := { r with
        draining := true, mark := none, bars := [], run := some { run with effs := run.effs.filter (fun e => e.act.running) },
        tiles := r.tiles.zipIdx.map (fun x =>
          { x.1.drain (out.filter (fun e => e.tile == x.2)) with tick := max x.1.tick (run.f.getD 0 - 1) }) }
      .next (s.setRegion rid r)
    else .fault .notDue

/-- Entries that a tile's drain needs. DEDUCED: log 14. -/
def Tile.virgaNeed (t : Tile) (run : Run) : Nat := (t.virga.map (fun x => x.2.act.entries run)).foldl (· + ·) 0

/-- Entries of a virga area. DEDUCED: log 14. -/
def virgaSize : Nat := 768

/-- A stream at a freeze (05 R69). -/
def Stream.freeze (x : Stream) : Stream := { x with st := .frozen, was := x.st }

/-- A tile at a freeze. A DRIFT is unaccelerated from then on (20 R317). -/
def Tile.freeze (t : Tile) : Tile :=
  { t with drift := t.drift.map (fun d => (d.1, d.2.1, false)), ld := t.ld.freeze, ex := t.ex.freeze, st := t.st.freeze, ct := t.ct.freeze }

/-- VIRGA_DRAIN_DONE: every tile has drained: the region is FROZEN; where an area overflows, the hold ends and the next freeze
point is chosen (R194, R197). -/
def execVirgaDrainDone (rid : Nat) (s : State) : Out :=
  let r := s.region rid
  match r.run with
  | none => .fault .notDue
  | some run =>
    if !r.draining then .fault .notDue
    else if r.tiles.all (fun t => decide (t.virgaNeed run ≤ virgaSize)) then
      .next ((s.setRegion rid { r.dropShadow with st := .frozen, draining := false, tiles := r.tiles.map Tile.freeze }).final rid 4)
    else
      let f := match run.f with
        | some f => freezeAt run.img.freezen (f - 1 + 96)
        | none => 0
      let r' := ({ r with draining := false }.replay).modRun (fun run => { run with f := some f })
      .next ((s.setRegion rid r').virgaErrors rid r.tiles)

end Sys2Proof.Machine
end

