-- ==== Sys2Proof/Machine/Link.lean ====
section
/-! DEFINITION. Links: their status, training, loss and failure, holds, Firmament beats (02 R27; 20 R301 to R304, R310 to R312;
23 R355). -/

namespace Sys2Proof.Machine

/-! ## Link status (20 R304) -/

/-- STATE. -/
def LinkSt.code : LinkSt → Nat
  | .down => 0
  | .training => 1
  | .locked => 2
  | .degraded => 3
  | .failed => 4

/-- The status word of a link (R304), but for WIDTH of a fibre pair. -/
def Link.word (l : Link) : Word := 0#16 ++ l.lat ++ l.width ++ l.peer ++ l.fails ++ 0#5 ++ BitVec.ofNat 3 l.st.code

/-- A link. -/
def State.link (s : State) (k : Nat) : Link := tabGet {} s.links k

/-- Whether a link carries traffic (R302). -/
def Link.carries (l : Link) : Bool := l.st == .locked || l.st == .degraded

/-- The link with one more failed attempt or pair loss (R304: FAILS saturates). -/
def Link.failMore (l : Link) : Link := { l with fails := if l.fails = 255 then 255 else l.fails + 1 }

/-! ## Kinds and bundles (20 R301, R310; 23 R355) -/

/-- The number of links. -/
def linkCount : Nat := 489

/-- The Neruo link. -/
def neruo : Nat := 488

/-- A fibre pair's link. -/
def pairLink (p : Nat) : Nat := 232 + p

/-- A fibre pair. -/
def isPair (k : Nat) : Bool := decide (232 ≤ k) && decide (k < 488)

/-- The grid positions that a mesh or seam link joins, in the numbering of R355. -/
def linkEnds (k : Nat) : Option ((Nat × Nat) × (Nat × Nat)) :=
  if k < 224 then
    let d := k / 112
    let j := k % 112
    if j < 56 then
      let y := j / 7
      let x := j % 7
      some ((8 * d + x, y), (8 * d + x + 1, y))
    else
      let y := (j - 56) / 8
      let x := (j - 56) % 8
      some ((8 * d + x, y), (8 * d + x, y + 1))
  else if k < 232 then some ((7, k - 224), (8, k - 224))
  else none

/-- Whether the module has a link: mesh links join good sites (R301). -/
def State.hasLink (s : State) (k : Nat) : Bool :=
  if k < 224 then
    match linkEnds k with
    | some (a, b) => s.good a && s.good b
    | none => false
  else decide (k < linkCount)

/-- The bundle of a peer, by the number of its first pair divided by four (R310). -/
def State.bundleOf (s : State) (peer : Nat) : Nat := if peer < s.time.member then peer else peer - 1

/-- The peer of a bundle. -/
def State.peerOf (s : State) (b : Nat) : Nat := if b < s.time.member then b else b + 1

/-- The bundle that a pair serves: its own, or the one a spare was taken for. -/
def State.pairBundle (s : State) (p : Nat) : Option Nat :=
  if p < 252 then some (p / 4)
  else
    match tabGet 0 s.spareFor p with
    | 0 => none
    | n => some (n - 1)

/-- The pairs of a bundle, spares last. -/
def State.bundlePairs (s : State) (b : Nat) : List Nat :=
  [4 * b, 4 * b + 1, 4 * b + 2, 4 * b + 3] ++ (List.range 4).filterMap (fun i =>
    if tabGet 0 s.spareFor (252 + i) = b + 1 then some (252 + i) else none)

/-- The pairs of a bundle that carry traffic. -/
def State.livePairs (s : State) (b : Nat) : List Nat := (s.bundlePairs b).filter (fun p => (s.link (pairLink p)).carries)

/-- The status word of a link as the host reads it: WIDTH of a fibre pair is the number of active pairs in its bundle (R304). -/
def State.linkWord (s : State) (k : Nat) : Word :=
  let l := s.link k
  if isPair k then
    let n := match s.pairBundle (k - 232) with
      | some b => (s.livePairs b).length
      | none => 0
    Link.word { l with width := BitVec.ofNat 8 n }
  else l.word

/-- A link's new status; a change of its state is logged, and the event follows. Before READY there is neither (R302, R303;
21 R327, R329; 23 R346). DEDUCED: log 24. -/
def State.setLink (s : State) (k : Nat) (l : Link) : State :=
  let old := s.link k
  let s := { s with links := tabSet {} s.links k l }
  if s.boot.st = 3 ∧ old.st ≠ l.st then s.celLog 7 (0x300 + k) 0xFF 0 (some ⟨32, 6, 0, 0, s.linkWord k⟩) else s

/-- The latency of a bundle (R311). -/
def State.bundleLat (s : State) (b : Nat) : Nat :=
  match s.livePairs b with
  | p :: _ => (s.link (pairLink p)).lat.toNat
  | [] => 0

/-- The bundles that carry traffic. -/
def State.liveBundles (s : State) : List Nat := (List.range 63).filter (fun b => !(s.livePairs b).isEmpty)

/-- The virtual device of a region has a member with an index (20 R314). -/
def Region.vdHas (r : Region) (m : Nat) : Bool :=
  vdValid r.vd && (List.range (vdMembers r.vd).toNat).any (fun i => slice (vdMap r.vd) (8 * i) 8 == m)

/-! ## Failures (02 R27; 20 R303, R315; 13 R257; 21 R322) -/

/-- A region of which something runs. -/
def Region.hasRun (r : Region) : Bool := !r.graphs.isEmpty || r.run.isSome || !r.startQ.isEmpty

/-- A mesh or seam link fails: the run of every region whose footprint includes it ends (R303; 21 R322).
DEDUCED: log 24. -/
def State.failMesh (s : State) (k : Nat) : State :=
  let s := s.setLink k { (s.link k) with st := .failed, width := 0 }
  (List.range 32).foldl
    (fun s rid =>
      let r := s.region rid
      if r.holds && r.hasRun && (footLinks (placePos r.place r.w r.h)).contains k then s.machineFault rid 3 else s)
    s

/-- Fabric operations in progress that may have had words on a failed pair to peer `m`: each fails or not, by a free value
(R303; 13 R257; DESIGN CHOICE: log 2). -/
def State.failWords (s : State) (m : Nat) : State :=
  (List.range 32).foldl
    (fun s rid =>
      let r := s.region rid
      if r.vdHas m then
        let hit := Config.freeBit s.free
        let r := { r with colls := r.colls.map (fun o =>
          if o.scope == .fabric && o.st == .started then { o with failed := o.failed || hit } else o) }
        { s.setRegion rid r with free := s.free + 1 }
      else s)
    s

/-- A bundle without a pair: every virtual device with members on both ends splits (R303, R315). -/
def State.splitVds (s : State) (m : Nat) : State :=
  (List.range 32).foldl
    (fun s rid =>
      let r := s.region rid
      if r.vdHas m then s.setRegion rid { r with split := true } else s)
    { s with time := { s.time with beats := s.time.beats.filter (fun x => x.peer != m) } }

/-- A spare pair that can take the place of a pair of latency `lat`; until then it is in training (R302, R303, R311). DEDUCED: log 24. -/
def State.spare (s : State) (lat : BitVec 16) : Option Nat :=
  ((List.range 4).map (252 + ·)).find? (fun p =>
    tabGet 0 s.spareFor p = 0 && (s.link (pairLink p)).st == .training && Config.spareFits p lat)

/-- A spare pair takes the place of a lost pair of bundle `b`, which stays as it is (R303). -/
def State.takeSpare (s : State) (k q b : Nat) (old : Link) : State :=
  let s := { s with spareFor := tabSet 0 s.spareFor q (b + 1) }
  let s := if s.boot.st = 3 then s.celLog 8 (0x300 + k) 0xFF else s
  let l := s.link (pairLink q)
  s.setLink (pairLink q) { l with st := old.st, lat := old.lat, peer := old.peer }

/-- A bundle goes on with the pairs it has left, or not at all (R303). -/
def State.narrow (s : State) (b : Nat) : State :=
  let live := s.livePairs b
  if live.isEmpty then s.splitVds (s.peerOf b)
  else live.foldl (fun s q =>
    let l := s.link (pairLink q)
    s.setLink (pairLink q) { l with st := .degraded }) s

/-- A bundle that has lost a pair (R303). -/
def State.losePair (s : State) (k b : Nat) (old : Link) : State :=
  let s := s.failWords (s.peerOf b)
  match s.spare old.lat with
  | some q => s.takeSpare k q b old
  | none => s.narrow b

/-- A fibre pair is lost: a spare replaces it, or its bundle goes on with fewer pairs, or fails (R303).
DEDUCED: log 24. -/
def State.failPair (s : State) (p : Nat) : State :=
  let k := pairLink p
  let old := s.link k
  let s := s.setLink k { (if old.carries then old.failMore else old) with st := .failed }
  match s.pairBundle p with
  | none => s
  | some b => if old.carries then s.losePair k b old else s

/-- A bundle fails with all its pairs (R302, R312). -/
def State.failBundle (s : State) (b : Nat) : State :=
  let s := (s.livePairs b).foldl (fun s q =>
    s.setLink (pairLink q) { (s.link (pairLink q)).failMore with st := .failed }) s
  (s.failWords (s.peerOf b)).splitVds (s.peerOf b)

/-- A link fails (R303). -/
def State.failLink (s : State) (k : Nat) : State :=
  if k < 232 then s.failMesh k
  else if isPair k then s.failPair (k - 232)
  else s.setLink k { s.link k with st := .failed, width := 0 }

/-! ## Holds (02 R27) -/

/-- PHYSICAL_ARRIVAL: the word that a tile waits for is there; its tick may begin (R27). -/
def execPhysicalArrival (rid tile : Nat) (s : State) : Out :=
  let r := s.region rid
  match r.tiles[tile]? with
  | some t =>
    match t.hold with
    | .word _ => .next (s.setRegion rid (r.modTile tile (fun t => { t with hold := .none })))
    | _ => .fault .notDue
  | none => .fault .notDue

/-- Whether a tile of the module waits for a word of a link. -/
def State.holdsOn (s : State) (k : Nat) : Bool :=
  s.regions.any (fun x => x.2.tiles.any (fun t => t.hold == .word k))

/-- LINK_HOLD_TIMEOUT: a hold of more than 16 µs is a failure of the link (R27; 20 R302). A fibre pair holds the Firmament
count, not a tile. -/
def execLinkHoldTimeout (link : Nat) (s : State) : Out :=
  if (s.link link).carries && (s.holdsOn link || isPair link) then .next (s.failLink link) else .fault .notDue

/-! ## Training and loss (20 R302, R303) -/

/-- The latency that a link has once it is LOCKED: 2 for mesh, 24 for the seam, 0 for Neruo; a fibre pair keeps the one that bring-up
fixed (R301, R304, R311). -/
def lockLat (k : Nat) (lat : BitVec 16) : BitVec 16 :=
  if k < 224 then 2 else if k < 232 then 24 else if k = neruo then 0 else lat

/-- The width of a link that is LOCKED (R304), that of a fibre pair aside. -/
def lockWidth (k : Nat) : BitVec 8 := if k < 232 then 1 else if k = neruo then 32 else 0

/-- A DEGRADED link has its full width again: Neruo retrained, a pair whose bundle has all four (R302). -/
def State.mayRelock (s : State) (k : Nat) : Bool :=
  (s.link k).st == .degraded &&
    (!isPair k || (match s.pairBundle (k - 232) with
      | some b => (s.livePairs b).length == 4
      | none => false))

/-- LINK_TRAINING_DONE: a link locks, Neruo locks with fewer lanes, or an attempt fails; the third makes the link FAILED. Fibre pairs lock
in BOOT_FABRIC, which fixes their latency. A DEGRADED link may lock at full width (R302). A latency never changes once training has
ended. DEDUCED: log 24. -/
def execLinkTrainingDone (link : Nat) (t : Sys2Proof.Training) (s : State) : Out :=
  let l := s.link link
  let inTraining := l.st == .training
  match t with
  | .locked lat =>
    if inTraining && !isPair link then
      .next (s.setLink link { l with st := .locked, lat := lockLat link lat, width := lockWidth link, attempts := 0 })
    else if s.mayRelock link then .next (s.setLink link { l with st := .locked, width := lockWidth link })
    else .fault .notDue
  | .degraded lat width =>
    if inTraining && link == neruo && (width == 16 || width == 8) then
      .next (s.setLink link { l with st := .degraded, lat := lockLat link lat, width := width, attempts := 0 })
    else .fault .notDue
  | .failedAttempt =>
    if inTraining then
      let l := { l.failMore with attempts := l.attempts + 1 }
      if l.attempts < 3 then .next { s with links := tabSet {} s.links link l }
      else .next ({ s with links := tabSet {} s.links link l }.failLink link)
    else .fault .notDue

/-- LINK_LANE_LOSS: `lanes` lanes or pairs are left. Neruo goes on with 16 or 8 lanes; a fibre pair is lost; a link without width
is FAILED (R302, R303). -/
def execLinkLaneLoss (link : Nat) (lanes : BitVec 8) (s : State) : Out :=
  let l := s.link link
  if !l.carries then .fault .notDue
  else if link = neruo ∧ 8 ≤ lanes.toNat then
    let w : BitVec 8 := if 16 ≤ lanes.toNat then 16 else 8
    if w.toNat < l.width.toNat then .next (s.setLink link { l with st := .degraded, width := w }) else .next s
  else .next (s.failLink link)

/-! ## Firmament beats (20 R312) -/

/-- Counts between beats. -/
def beatPeriod : Nat := 4096

/-- FIRMAMENT_BEAT_SEND: at a multiple of 4,096 every bundle carries a beat each way; the one that comes in is due Λ later. -/
def execFirmamentBeatSend (s : State) : Out :=
  let t := s.time
  if t.count = t.beat ∧ t.beat % beatPeriod = 0 ∧ s.boot.fabric then
    let due := s.liveBundles.map (fun b => (⟨s.peerOf b, t.count + s.bundleLat b, t.count⟩ : Beat))
    .next { s with time := { t with beat := t.beat + beatPeriod, beats := t.beats ++ due } }
  else .fault .notDue

/-- FIRMAMENT_BEAT_ARRIVAL: the next beat that a peer owes arrives, before the count can come to the tick t at which it is due; a value
other than t − Λ makes the bundle FAILED. -/
def execFirmamentBeatArrival (peer : Nat) (value : Word) (s : State) : Out :=
  match s.time.beats.find? (fun x => x.peer == peer) with
  | none => .fault .notDue
  | some x =>
    let s := { s with time := { s.time with beats := s.time.beats.erase x } }
    if value = BitVec.ofNat 64 x.value then .next s else .next (s.failBundle (s.bundleOf peer))

end Sys2Proof.Machine
end

