-- ==== Sys2Proof/Machine/Tenure.lean ====
section
/-! DEFINITION. Tenures, grants, power and heat, and real time (10 R202 to R207; 20 R313, R315; 23 R352 to R354, R356). -/

namespace Sys2Proof.Machine

/-! ## Counts -/

/-- Ticks of a second (R356). -/
def secondTicks : Nat := 1250000000

/-- Ticks of a tenure: 500 µs (R204). -/
def tenureTicks : Nat := 625000

/-- Ticks from a boundary to the sample (R352), and of 250 µs (R206). -/
def halfTenure : Nat := 312500

/-- The count of the next tenure boundary in real time: none once a second's 2,000 tenures have begun (R204).
DEDUCED: log 25. -/
def Time.realDue (t : Time) : Option Nat :=
  if t.nextTenure < 2000 then some (t.secCount + tenureTicks * t.nextTenure) else none

/-- The count at which the next tenure begins: R204's outside a group, the announced one in a group (R313). -/
def Time.boundary (t : Time) : Option Nat := if t.size = 1 then t.realDue else t.bnext

/-- Whether a count has come. -/
def Time.reached (t : Time) (due : Option Nat) : Bool :=
  match due with
  | some d => decide (d ≤ t.count)
  | none => false

/-! ## Grants (10 R205, R207; 20 R315; 23 R352, R353) -/

/-- The lesser of two grants; none is the least. -/
def leastGrant (a b : Option Nat) : Option Nat :=
  match a, b with
  | some x, some y => some (min x y)
  | _, _ => none

/-- The headroom H in watts, from PCAP and Tj in 1/64 °C (R352). -/
def headroom (pcap tj : Nat) : Nat :=
  if tj ≤ 95 * 64 then pcap - 345
  else if 105 * 64 ≤ tj then 0
  else (pcap - 345) * (105 * 64 - tj) / 640

/-- The power of a region at a class, in tenths of a watt (R353). -/
def Region.power (r : Region) (e : Nat) : Nat := 7 * (e + 1) * (r.w * r.h)

/-- The highest class that fits what is left, in tenths of a watt (R205, R353). -/
def Region.highest (r : Region) (left : Nat) : Option Nat :=
  ((List.range 16).reverse).find? (fun e => decide (r.power e ≤ left))

/-- The grants of the next tenure, in ascending RID; a FREE RID has none (R205). DESIGN CHOICE: log 9. -/
def State.computeGrants (s : State) (h : Nat) : State :=
  ((List.range 32).foldl
    (fun (acc : State × Nat) rid =>
      let r := acc.1.region rid
      if r.st == .free then (acc.1.setRegion rid { r with nextGrant := none }, acc.2)
      else
        let g := r.highest acc.2
        let used := match g with
          | some e => r.power e
          | none => 0
        (acc.1.setRegion rid { r with nextGrant := g }, acc.2 - used))
    (s, 10 * h)).1

/-- Heat and flow are within the ratings that clear a trip (R354). -/
def Power.calm (p : Power) : Bool := decide (p.tj.toNat ≤ 95 * 64) && p.flowOk && !p.flowLow

/-- The members of a region's virtual device other than this module. -/
def State.vdPeers (s : State) (r : Region) : List Nat :=
  if vdValid r.vd then
    ((List.range (vdMembers r.vd).toNat).map (fun i => slice (vdMap r.vd) (8 * i) 8)).filter (fun m => m != s.time.member)
  else []

/-- TENURE_SAMPLE: PCAP and Tj are sampled, the headroom and the grants of the next tenure set; the grant words go out, and
those of the peers are due (R352, R354, R205; 20 R315). -/
def execTenureSample (s : State) : Out :=
  if s.ready && !s.time.sampled && decide (s.time.bprev + halfTenure ≤ s.time.count) then
    let p := s.power
    let trip := p.trip && !p.calm
    let h := if trip then 0 else headroom p.pcap.toNat p.tj.toNat
    let s := { s with power := { p with trip := trip, thead := BitVec.ofNat 11 h, tjReg := p.tj },
                      time := { s.time with sampled := true } }
    let s := s.computeGrants h
    .next (s.mapRegions (fun r => { r with awaits := s.vdPeers r }))
  else .fault .notDue

/-- The count at which a peer's grant word for the next tenure is due (R315). -/
def State.wordCount (s : State) (peer : Nat) : Nat := s.time.bprev + halfTenure + s.bundleLat (s.bundleOf peer)

/-- Whether a bundle carries traffic to a peer. -/
def State.peerLive (s : State) (peer : Nat) : Bool := !(s.livePairs (s.bundleOf peer)).isEmpty

/-- The grant words that are still due: count, region and peer (R315). -/
def State.wordsDue (s : State) : List (Nat × Nat × Nat) :=
  s.regions.flatMap (fun x => (x.2.awaits.filter s.peerLive).map (fun m => (s.wordCount m, x.1, m)))

/-- A grant as a peer's word gives it. -/
def wordGrant (n : Nat) : Option Nat := if n = 0 ∨ 16 < n then none else some (n - 1)

/-- The grant of a region at a boundary: the least of those it holds; a virtual device from which a word that was due has not come is
split, and takes grant 0 (R207, R315). DEDUCED: log 25. -/
def State.applyGrant (s : State) (r : Region) : Region :=
  let peers := (s.vdPeers r).filter (fun m => tabGet 0 r.grantWords m != 0)
  let split := r.split || !r.awaits.isEmpty
  let g := if split then some 0
    else peers.foldl (fun g m => leastGrant g (wordGrant (tabGet 0 r.grantWords m))) r.nextGrant
  { r with grant := g, split := split, grantWords := [], awaits := [] }

/-! ## Shared slots (10 R202, R203, R206) -/

/-- A command that the region manager takes on its own account. DEDUCED: log 26. -/
def ownCmd (cmd rid : Nat) (mask : BitVec 4) : Cmd :=
  ⟨.manager, 0, BitVec.ofNat 512 (cmd + 256 * rid + mask.toNat * 2 ^ 32)⟩

/-- The region of a slot that holds its sites. -/
def State.slotHolder (s : State) (slot : Nat) : Option Nat :=
  (s.regions.find? (fun x =>
    x.2.shared && x.2.slot == slot && x.2.holds && x.2.st != .free && x.2.st != .frozen)).map (·.1)

/-- A region that a slot may go to: a graph runs or is queued, and its grant covers its next STEP (R206). -/
def State.qualifies (s : State) (slot rid : Nat) : Bool :=
  let r := s.region rid
  let kept := match r.kept with
    | some k => !k.graphs.isEmpty
    | none => false
  r.shared && r.slot == slot && r.st != .free && (r.hasRun || kept) &&
    (match r.grant with
     | some g => decide (s.nextClass rid ≤ g)
     | none => false)

/-- PRIM and ALT of a slot's entry in a row, as far as they name a region (R203). -/
def slotNames (row : BitVec 512) (slot : Nat) : List Nat :=
  let e := row.extractLsb' (16 * slot) 16
  (if e.getLsbD 5 then [slice e 0 5] else []) ++ (if e.getLsbD 11 then [slice e 6 5] else [])

/-- A slot at a boundary: the chosen region runs on, or its holder receives YIELD and the chosen one's RESUME stands (R206). -/
def State.chooseSlot (s : State) (row : BitVec 512) (slot : Nat) : State :=
  match (slotNames row slot).find? (s.qualifies slot) with
  | none => s
  | some rid =>
    let holder : Option Nat := s.slotHolder slot
    if holder = some rid then s
    else
      let s : State := match holder with
        | some h =>
          let st : RegSt := (s.region h).st
          if st == .running || st == .yielding then (s.takeCmd (ownCmd 3 h 0)).1 else s
        | none => s
      let due := holder.map (fun _ => s.time.count + halfTenure)
      { s with time := { s.time with swaps := s.time.swaps ++ [(⟨slot, holder, rid, due⟩ : Swap)] } }

/-- A new tenure: grants apply, shared slots choose their holder (R206, R207). -/
def State.beginTenure (s : State) : State :=
  let t := s.time
  let row := tabGet 0 s.tenureRows (t.nextTenure % 64)
  let s := s.mapRegions s.applyGrant
  let s := { s with time := { t with bprev := t.count, bnext := none, nextTenure := t.nextTenure + 1, sampled := false,
                                     swaps := [] } }
  (List.range 32).foldl (fun s slot => s.chooseSlot row slot) s

/-- TENURE_BOUNDARY (R204, R206, R207). -/
def execTenureBoundary (s : State) : Out :=
  if s.ready && s.time.reached s.time.boundary then .next s.beginTenure else .fault .notDue

/-- The region manager freezes a holder that has not yielded (R206); a holder of which nothing runs is frozen where it stands.
DEDUCED: log 26. -/
def State.freezeHolder (s : State) (rid : Nat) : State :=
  let st := (s.region rid).st
  if st == .running || st == .yielding then (s.takeCmd (ownCmd 4 rid 0)).1
  else if st == .placed then (s.answer rid 4 0 0).freeze rid
  else s

/-- A slot's limit of 250 µs has run out. -/
def Swap.late (x : Swap) (t : Time) : Bool := t.reached x.due

/-- TENURE_YIELD_TIMEOUT (R206). -/
def execTenureYieldTimeout (s : State) : Out :=
  let late := s.time.swaps.filter (fun x => x.late s.time)
  if late.isEmpty then .fault .notDue
  else
    let s := late.foldl
      (fun s x =>
        match x.holder with
        | some h => if s.slotHolder x.slot = some h then s.freezeHolder h else s
        | none => s)
      s
    .next { s with time := { s.time with swaps := s.time.swaps.map (fun x =>
      if x.late s.time then { x with due := none } else x) } }

/-! ## What is due of the Firmament count -/

/-- The counts at which something of the Firmament count is due, each with its event; the earliest of equal counts first in the
list (20 R312, R313; 10 R204, R206; 23 R352, R356). -/
def State.timeDue (s : State) : List (Nat × Instr) :=
  let t := s.time
  if !s.ready then []
  else
    let some' (o : Option Nat) (i : Instr) : List (Nat × Instr) := match o with
      | some n => [(n, i)]
      | none => []
    (t.beats.map (fun x => (x.due - 1, Instr.firmamentBeatArrival x.peer (BitVec.ofNat 64 x.value)))) ++
      (s.wordsDue.map (fun x => (x.1, Instr.grantWordArrival x.2.1 x.2.2 (Config.peerGrant x.2.1 x.2.2 t.bprev)))) ++
      (if s.liveBundles.isEmpty then [] else [(t.beat, .firmamentBeatSend)]) ++
      (if t.ppsok then [(t.tcount.toNat + secondTicks * 3 / 2, .ppsokClear)]
       else if t.member = 0 then [(t.secCount + secondTicks, .ppsSecondCount)] else []) ++
      (if t.sampled then [] else [(t.bprev + halfTenure, .tenureSample)]) ++
      (t.swaps.flatMap (fun x => some' x.due .tenureYieldTimeout)) ++
      (if t.member = 0 ∧ t.size ≠ 1 ∧ t.bnext = none then some' t.realDue .boundaryBeatSend else []) ++
      some' t.boundary .tenureBoundary ++
      (if t.member ≠ 0 ∧ t.bnext = none then [(t.bprev + 2 * tenureTicks, .boundaryBeatTimeout)] else [])

/-- The first of the earliest entries. -/
def earliest : List (Nat × Instr) → Option (Nat × Instr)
  | [] => none
  | x :: xs =>
    match earliest xs with
    | none => some x
    | some y => if y.1 < x.1 then some y else some x

/-- The count can come to `n` before anything else of it is due. -/
def State.canReach (s : State) (n : Nat) : Bool := decide (s.time.count ≤ n) && s.timeDue.all (fun x => decide (n ≤ x.1))

/-- The state with the Firmament count at `n`. -/
def State.atCount (s : State) (n : Nat) : State := { s with time := { s.time with count := n } }

/-- GRANT_WORD_ARRIVAL: a peer's grant for the next tenure arrives, at the count at which it is due; class codes above 15 say that it has
none. A word that no record expects is dropped (R207, R315). -/
def execGrantWordArrival (rid frm : Nat) (cls : BitVec 5) (s : State) : Out :=
  let r := s.region rid
  if !r.awaits.contains frm || !s.peerLive frm then .next s
  else if !s.canReach (s.wordCount frm) then .fault .notDue
  else .next ((s.atCount (s.wordCount frm)).setRegion rid { r with grantWords := tabSet 0 r.grantWords frm (cls.toNat + 1), awaits := r.awaits.erase frm })

/-- Ticks from the reading of the count to the boundary that a beat names. -/
def beatLead : Nat := 2048

/-! ## Boundary beats and real time (20 R313; 23 R356) -/

/-- BOUNDARY_BEAT_SEND: member 0 of a group reaches the real-time boundary and names B (R313). -/
def execBoundaryBeatSend (s : State) : Out :=
  let t := s.time
  if s.ready && t.member == 0 && t.size != 1 && t.bnext.isNone && t.reached t.realDue then
    .next { s with time := { t with bnext := some (t.count + beatLead) } }
  else .fault .notDue

/-- BOUNDARY_BEAT_ARRIVAL: a member receives B, at the count Λ after B − 2,048 at which member 0 sent it (R311, R313). -/
def execBoundaryBeatArrival (b : Word) (s : State) : Out :=
  let n := b.toNat + s.bundleLat (s.bundleOf 0) - beatLead
  if s.time.member ≠ 0 ∧ s.time.bnext = none ∧ s.peerLive 0 ∧ s.canReach n then
    let s := s.atCount n
    .next { s with time := { s.time with bnext := some b.toNat } }
  else .fault .notDue

/-- The link-state event of a missing beat: of member 0's bundle (R313). -/
def State.missedBeat (s : State) : State := s.post ⟨32, 6, 0, 0, s.linkWord (pairLink (4 * s.bundleOf 0))⟩

/-- BOUNDARY_BEAT_TIMEOUT: no beat by B_prev + 1,250,000: the next tenure begins there (R313). -/
def execBoundaryBeatTimeout (s : State) : Out :=
  let t := s.time
  if s.ready && t.member != 0 && t.bnext.isNone && decide (t.bprev + 2 * tenureTicks ≤ t.count) then
    .next s.missedBeat.beginTenure
  else .fault .notDue

/-- PPS_EDGE: an edge of the 1588 input: the second and the count are stored, and a second begins (R313, R356). -/
def execPpsEdge (sec : Word) (s : State) : Out :=
  .next { s with time := { s.time with ppsok := true, tsec := sec, tcount := s.fcount, secCount := s.time.count,
                                       counted := 0, nextTenure := 0 } }

/-- PPS_SECOND_COUNT: without PPS, outside a group or on member 0, a second is 1,250,000,000 ticks after the last edge or counted second
(R356). Tenures of it that have gone by are left out. -/
def execPpsSecondCount (s : State) : Out :=
  let t := s.time
  let sec := t.secCount + secondTicks
  if !t.ppsok && t.member == 0 && decide (sec ≤ t.count) then
    .next { s with time := { t with secCount := sec, counted := t.counted + 1, nextTenure := (t.count - sec + tenureTicks - 1) / tenureTicks } }
  else .fault .notDue

/-- PPSOK_CLEAR: no edge for 1.5 s (R356). -/
def execPpsokClear (s : State) : Out :=
  let t := s.time
  if t.ppsok && decide (t.tcount.toNat + secondTicks * 3 / 2 ≤ t.count) then .next { s with time := { t with ppsok := false } }
  else .fault .notDue

/-! ## The thermal trip (23 R354) -/

/-- The junction reaches 110 °C, or the flow has been below its rating for 1 s. -/
def Power.hot (p : Power) : Bool := decide (110 * 64 ≤ p.tj.toNat) || p.flowLow

/-- THERMAL_TRIP: H := 0, and FREEZE for every RUNNING or YIELDING region in ascending RID (R354). -/
def execThermalTrip (s : State) : Out :=
  if s.power.tripping && !s.power.trip then
    let s := { s with power := { s.power with trip := true, tripping := false, thead := 0 } }
    .next ((List.range 32).foldl
      (fun s rid =>
        let st := (s.region rid).st
        if st == .running || st == .yielding then (s.takeCmd (ownCmd 4 rid 0)).1 else s)
      s)
  else .fault .notDue

end Sys2Proof.Machine
end

