-- ==== Sys2Proof/Machine/Window.lean ====
section
/-! DEFINITION. What the host writes through the Neruo link: counter window, memory window, table stores, virtual-device records,
the event ring, and the copy of retirement (12 R240; 16 R266, R279, R280; 17 R288; 20 R305 to R309, R314; 21 R326, R330;
23 R355). -/

namespace Sys2Proof.Machine

/-! ## Access to the aperture (20 R305; 23 R346, R355) -/

/-- The ranges that answer before READY: identity, boot, and firmware staging, the last not in FAIL (R346). -/
def State.answersEarly (s : State) (off : Nat) : Bool :=
  decide (off < 0x800) || (decide (0x1000 ≤ off) && decide (off < 0x1030)) ||
    (decide (0x400000 ≤ off) && decide (off < 0x800000) && s.boot.st != 7)

/-- A refused access that no other kind of record names (21 R326). DEDUCED: log 28. -/
def State.refuse (s : State) (off : Nat) : State := s.reqRecord 5 0xFF (BitVec.ofNat 64 off) 0

/-- A host access to an offset of the aperture: lost while the Neruo link carries no traffic, refused before READY outside the
early ranges (R346; 20 R303). -/
def State.hostAccess (s : State) (off : Nat) (f : State → State) : Out :=
  if !s.neruoUp then .next s
  else if s.ready || s.answersEarly off then .next (f s)
  else .next (s.refuse off)

/-! ## Counter window (12 R239, R240) -/

/-- The aperture offset of a counter's VALUE. -/
def ctrOff (rid c : Nat) : Nat := 0x10000 + 0x400 * rid + 8 * c

/-- A host write of a counter (R240): reason 1 below VALUE, 2 BOUND, the lowest. DEDUCED: log 28. -/
def State.writeCounter (s : State) (rid c : Nat) (v : Word) : State :=
  let r := s.region rid
  let x := r.ctr c
  let refuse (n : Nat) : State := s.reqRecord 1 rid (BitVec.ofNat 64 (ctrOff rid c)) n
  if v.toNat < x.value.toNat then refuse 1
  else if x.st = .bound then refuse 2
  else s.setRegion rid (r.setCtr c { x.leave .signalled with value := v, front := v })

/-- COUNTER_WINDOW_WRITE (R240). -/
def execCounterWindowWrite (rid c : Nat) (v : Word) (s : State) : Out :=
  s.hostAccess (ctrOff rid c) (fun s => if rid < 32 ∧ c < 64 then s.writeCounter rid c v else s)

/-! ## Memory window (20 R308, R309; 17 R288) -/

/-- The aperture offset of the memory window. -/
def winOff : Nat := 0x100000

/-- A refused window access or register write, with the region that owns the ASID (21 R326). -/
def State.refuseWin (s : State) (off reason : Nat) : State :=
  s.reqRecord 2 ((s.asidOwner s.win.asid.toNat s.win.va).getD 0xFF) (BitVec.ofNat 64 off) reason

/-- A write of a window register, refused while an access is in progress (R309). -/
def State.writeWin (s : State) (off : Nat) (f : MemWin → MemWin) : State :=
  if s.win.busy then s.refuseWin off 6 else { s with win := f s.win }

/-- MWCTL with GO = 1: an access starts (R309). -/
def startWin (write : Bool) (w : MemWin) : MemWin :=
  { w with write := write, err := false, done := false, reason := 0, busy := true }

/-- MEMORY_WINDOW_READ (R309). -/
def execMemoryWindowRead (s : State) : Out := s.hostAccess (winOff + 16) (fun s => s.writeWin (winOff + 16) (startWin false))

/-- MEMORY_WINDOW_WRITE (R309). -/
def execMemoryWindowWrite (s : State) : Out := s.hostAccess (winOff + 16) (fun s => s.writeWin (winOff + 16) (startWin true))

/-- A line without what a step wrote that may still go back. DEDUCED: log 31. -/
def State.lineKept (s : State) (rid line : Nat) : BitVec 512 :=
  match (s.region rid).mark.bind (fun m => m.lines.find? (fun u => u.line == line)) with
  | some u => u.data
  | none => s.mem.line line

/-- A line as the host sees it: its present value, or, by free values, what it held before a step wrote it of which the
host has seen no publication yet (17 R291; DESIGN CHOICE: log 2). -/
def State.hostSees (s : State) (rid line : Nat) : State × BitVec 512 :=
  ((s.region rid).unseen line).foldl
    (fun acc old => ({ acc.1 with free := acc.1.free + 1 }, if Config.freeBit acc.1.free then old else acc.2))
    (s, s.lineKept rid line)

/-- A window read of a line: an error in the line is met as any access meets it (16 R280). -/
def State.windowRead (s : State) (rid : Nat) (va : Word) : State × Option (BitVec 512) :=
  match s.eccRange rid va 64 with
  | (s, true) =>
    match s.translate rid va with
    | some key =>
      let (s, d) := s.hostSees rid (key / 64)
      (s, some d)
    | none => (s, none)
  | (s, false) => (s, none)

/-- MEMORY_WINDOW_DONE: the access completes or is refused (R308, R309). -/
def execMemoryWindowDone (s : State) : Out :=
  let w := s.win
  if !w.busy || !s.neruoUp then .fault .notDue
  else
    let fin (s : State) (err : Bool) (reason : Nat) : State :=
      { s with win := { s.win with busy := false, done := true, err := err, reason := BitVec.ofNat 4 reason } }
    let n := s.windowRefusal w.asid.toNat w.va 64 w.write
    match s.asidOwner w.asid.toNat w.va with
    | some rid =>
      if n ≠ 0 then .next (fin (s.refuseWin winOff n) true n)
      else if w.write then .next (fin (s.windowWrite rid w.va 64 w.data.toNat) false 0)
      else
        match s.windowRead rid w.va with
        | (s, some d) => .next (fin { s with win := { s.win with data := d } } false 0)
        | (s, none) => .next (fin (s.refuseWin winOff 0) true 0)
    | none => .next (fin (s.refuseWin winOff 1) true 1)

/-! ## Table stores and virtual-device records (16 R266; 20 R314) -/

/-- TABLE_STORE_WRITE: eight bytes at an 8-aligned offset of a die's table store (R266). -/
def execTableStoreWrite (die : Nat) (off : BitVec 28) (v : Word) (s : State) : Out :=
  s.hostAccess (0x20000000 + 0x10000000 * die + off.toNat) (fun s =>
    if die < 2 then
      { s with mem := { s.mem with table := memWrite s.mem.table (tableKey die (off.toNat / 8 * 8)) 8 v.toNat } }
    else s)

/-- The reasons that a virtual-device record is refused for, lowest first (R314; 21 R326 kind 4). DEDUCED: log 29. -/
def State.vdReasons (s : State) (rid : Nat) (v : BitVec 640) : List (Nat × Bool) :=
  let r := s.region rid
  let n := (vdMembers v).toNat
  let rank := (vdRank v).toNat
  let at' (i : Nat) : Nat := slice (vdMap v) (8 * i) 8
  let used := (List.range (min n 64)).map at'
  [(1, r.stagedStep.isSome || r.run.isSome),
   (2, vdValid v && decide (n ≤ rank)),
   (3, used.eraseDups.length != used.length),
   (4, used.any (fun m => decide (s.time.size ≤ m))),
   (5, decide (rank < n) && decide (rank < 64) && at' rank != s.time.member),
   (6, slice v 1 15 != 0 || slice v 48 80 != 0 || decide (64 < n) ||
      (List.range 64).any (fun i => decide (n ≤ i) && at' i != 0))]

/-- VD_RECORD_WRITE: a new record ends a split (R314, R315). -/
def execVdRecordWrite (rid : Nat) (v : BitVec 640) (s : State) : Out :=
  s.hostAccess (0x20000 + 0x80 * rid) (fun s =>
    if 32 ≤ rid then s
    else
      match (s.vdReasons rid v).find? (·.2) with
      | some (n, _) => s.reqRecord 4 rid (BitVec.ofNat 64 (0x20000 + 0x80 * rid)) n
      | none => s.setRegion rid { s.region rid with vd := v, split := false, grantWords := [], awaits := [] })

/-! ## The event ring (20 R306, R307; 23 R355) -/

/-- The host has seen the events before position `n` of the ring (17 R291). -/
def Region.sawEvents (n : Nat) (r : Region) : Region :=
  { r with shown := r.shown.filter (fun x => match x.event with
    | some i => decide (n ≤ i)
    | none => true) }

/-- EVENT_RING_HEAD_WRITE: the host has consumed entries, and seen them (R307; 17 R291). -/
def execEventRingHeadWrite (v : Word) (s : State) : Out :=
  s.hostAccess 0x6050 (fun s =>
    State.mapRegions { s with ring := { s.ring with head := v } } (Region.sawEvents v.toNat))

/-- EVENT_POST_RESUME: the first waiting event is posted once there is room and the link carries traffic (R307). -/
def execEventPostResume (s : State) : Out :=
  match s.ring.waiting with
  | e :: es => if s.ringRoom then .next (({ s with ring := { s.ring with waiting := es } }).writeEvent e) else .fault .notDue
  | [] => .fault .notDue

/-- A size that EVSIZE holds: a power of two from 64 to 65,536 (23 R355). DEDUCED: log 28. -/
def ringSizeOk (v : Word) : Bool := (List.range 11).any (fun i => v == BitVec.ofNat 64 (2 ^ (i + 6)))

/-- EVENT_RING_CONFIG_WRITE: EVBASE or EVSIZE, refused unless EVHEAD = EVTAIL (23 R355). -/
def execEventRingConfigWrite (base : Bool) (v : Word) (s : State) : Out :=
  let off := if base then 0x6040 else 0x6048
  s.hostAccess off (fun s =>
    if s.ring.head ≠ s.ring.tail ∨ (!base && !ringSizeOk v) then s.refuse off
    else if base then { s with ring := { s.ring with base := v } }
    else { s with ring := { s.ring with size := v } })

/-! ## The corrected-error log (21 R330) -/

/-- CELBASE_WRITE: a multiple of 4,096, not below the present value, at most one above the last signed entry (R330). -/
def execCelbaseWrite (v : Word) (s : State) : Out :=
  s.hostAccess 0x8008 (fun s =>
    if v.toNat % 4096 = 0 ∧ s.cel.base.toNat ≤ v.toNat ∧ v.toNat ≤ s.cel.head.toNat / 4096 * 4096 then
      { s with cel := { s.cel with base := v } }
    else s.refuse 0x8008)

/-! ## Retirement (16 R279, R280) -/

/-- The entries of a table of `n` that the table store lists, by index. -/
def Mem.listed (m : Mem) (die base n : Nat) : List Nat :=
  let k := tableKey die base
  (m.table.filter (fun c => decide (k ≤ c.1) && decide (c.1 < k + 8 * n))).foldr
    (fun c acc => let i := (c.1 - k) / 8
      if acc.head? == some i then acc else i :: acc)
    []

/-- The valid leaves of an ASID, each with the offset of its page (16 R266, R267). -/
def Mem.leaves (m : Mem) (die asid : Nat) : List (Nat × Leaf) :=
  let get := m.tableWord die
  match dirTable (get (8 * asid)) with
  | none => []
  | some t2 =>
    (m.listed die t2 1024).flatMap (fun i =>
      match entryTable (get (t2 + 8 * i)) with
      | none => []
      | some t1 =>
        (m.listed die t1 512).flatMap (fun j =>
          let o := i * 2 ^ 39 + j * size1G
          match entryLeaf (get (t1 + 8 * j)) size1G, entryTable (get (t1 + 8 * j)) with
          | some l, _ => [(o, l)]
          | none, none => []
          | none, some t0 =>
            (m.listed die t0 512).filterMap (fun k => (entryLeaf (get (t0 + 8 * k)) size2M).map (fun l => (o + k * size2M, l)))))

/-- The address on a page of a region whose granule stands at local address `l` of the channel of index `i`, at home or, where the page
is REPLICATED, as a replica (16 R265, R278). -/
def State.pageAddr (s : State) (rid : Nat) (page : Word) (size frame rframe i l : Nat) : Option Word :=
  let r := s.region rid
  let n := size / 2 ^ r.k
  let at' (f i : Nat) : Option Word :=
    if f * 8192 ≤ l ∧ l < f * 8192 + n then some (page + BitVec.ofNat 64 (((l - f * 8192) / 1024 * 2 ^ r.k + i) * 1024)) else none
  let repl := s.mem.pages.any (fun p => p.rid == rid && p.page == page && p.replicated)
  (at' frame i).or (if repl then at' rframe ((i + 2 ^ (r.k - 1)) % 2 ^ r.k) else none)

/-- The region, page size and address behind a granule: a page of its running step, or any page that a valid leaf maps. -/
def State.ownerOf (s : State) (key : Nat) : Option (Nat × Nat × Word) :=
  let l := key % 2 ^ 31
  match s.chanOwner (keyChan key) with
  | none => none
  | some rid =>
    let r := s.region rid
    let i := (r.cs.findIdx? (· == keyChan key)).getD 0
    let stepPages := match r.run with
      | some run => run.img.tlb.map (fun e => (e.va, e.size, e.frame, e.rframe))
      | none => []
    let leaves := (s.mem.leaves (r.tableDie rid) r.asid).map (fun x =>
      (BitVec.ofNat 64 (2 ^ 56 + s.homeDie rid * 2 ^ 49 + x.1), x.2.size, x.2.frame, x.2.rframe))
    (stepPages ++ leaves).findSome? (fun p =>
      (s.pageAddr rid p.1 p.2.1 p.2.2.1 p.2.2.2 i l).map (fun va => (rid, p.2.1, va)))

/-- A granule that the copy of a block finds uncorrectable is lost, or repaired from its replica (R280); a lost one is listed with its
region. -/
def State.copyGranule (acc : State × List (Nat × Nat × Nat)) (key : Nat) : State × List (Nat × Nat × Nat) :=
  let s := acc.1
  if (List.range 16).any (fun i => tabGet Soft.none s.mem.ecc (key / 64 + i) == Soft.double) then
    match s.ownerOf key with
    | some (rid, size, va) =>
      match s.loseLine rid size key va with
      | (s, true) => (s, acc.2)
      | (s, false) => (s, acc.2 ++ [(rid, va.toNat / 1024 * 1024, size)])
    | none => (({ s with mem := s.mem.loseGranule key }).celLog 4 (chanLoc (keyChan key)) 0xFF, acc.2)
  else acc

/-- RETIREMENT_COPY_DONE: every granule of a COPYING frame stands in its spare; the frame is RETIRED, and the log says so (R279,
R280; 21 R327). -/
def execRetirementCopyDone (chan blk : Nat) (s : State) : Out :=
  match s.mem.retireOf chan blk with
  | none => .fault .notDue
  | some x =>
    if x.retired then .fault .notDue
    else
      let (s, lost) := (List.range 64).foldl (fun acc i => State.copyGranule acc (hbmKey (chan, blk * 65536 + i * 1024))) (s, [])
      let s := (List.range 32).foldl
        (fun s rid => s.reportLost rid (s.region rid).maxTick ((lost.filter (fun x => x.1 == rid)).map (·.2))) s
      let s := { s with mem := { s.mem with retire := s.mem.retire.map (fun (y : Retire) =>
        if y.chan == chan && y.blk == blk then { y with retired := true } else y) } }
      .next (s.celLog 5 (chanLoc chan) ((s.chanOwner chan).getD 0xFF))

end Sys2Proof.Machine
end

