-- ==== Sys2Proof/Machine/Boot.lean ====
section
/-! DEFINITION. Reset, boot, firmware, attestation, the power cap, and register writes (23 R346 to R350, R352, R355, R356;
00 R7, R8). -/

namespace Sys2Proof.Machine

/-! ## Reset (23 R346) -/

/-- A module reset: everything is discarded but the identity block, the flash slots, the host's memory and the world outside;
RESETS counts it. DEDUCED: log 27. -/
def State.reboot (s : State) (slot : Nat) : State :=
  let b := s.boot
  { State.reset with
    boot := { slot := slot, flash0 := b.flash0, flash1 := b.flash1, good0 := b.good0, good1 := b.good1,
              resets := b.resets + 1, minv := b.minv, vkey := b.vkey, seed := b.seed, fused := b.fused, pub := b.pub, cert := b.cert },
    power := { tj := s.power.tj, flowOk := s.power.flowOk, flowLow := s.power.flowLow,
               tripping := decide (110 * 64 ≤ s.power.tj.toNat) || s.power.flowLow },
    mem := { host := s.mem.host },
    turns := s.turns, free := s.free }

/-- POWER_GOOD: the module resets and boots, with BOOTCTL.SLOT at 0 (R346, R356). -/
def execPowerGood (s : State) : Out := .next (s.reboot 0)

/-- MODULE_RESET: the host writes 1 to BOOTCTL.RESET; the slot it selected is tried first (R346, R347). -/
def execModuleReset (s : State) : Out := s.hostAccess 0x1008 (fun s => s.reboot s.boot.slot)

/-! ## Firmware slots (23 R347) -/

/-- The bytes of a flash slot. -/
def Boot.flash (b : Boot) (slot : Nat) : Memory := if slot = 0 then b.flash0 else b.flash1

/-- BLEN of an image. -/
def bodyLen (m : Memory) : Nat := memRead m 8 4

/-- VERSION of an image. -/
def imageVersion (m : Memory) : Nat := memRead m 4 4

/-- The magic number of a firmware image. -/
def fwMagic : Nat := 0x46574C47

/-- The SHA-256 of header and body. -/
def imageDigest (m : Memory) : BitVec 256 := sha256 (natToBytes (memRead m 0 (64 + bodyLen m)) (64 + bodyLen m))

/-- The header of an image is in order. -/
def headerOk (m : Memory) : Bool :=
  decide (memRead m 0 4 = fwMagic) && decide (bodyLen m % 64 = 0) && decide (64 ≤ bodyLen m) && decide (bodyLen m ≤ 4194176) &&
    decide (memRead m 12 52 = 0)

/-- The cause for which ROM rejects a slot: 1 header, 2 signature, 3 rollback; 0 where it accepts. -/
def Boot.reject (b : Boot) (slot : Nat) : Nat :=
  let m := b.flash slot
  if !headerOk m then 1
  else if !Config.verifies b.vkey (imageDigest m) (BitVec.ofNat 512 (memRead m (64 + bodyLen m) 64)) then 2
  else if imageVersion m < b.minv.toNat then 3
  else 0

/-- The boot registers once a slot is accepted. -/
def Boot.accept (b : Boot) (slot : Nat) : Boot :=
  let m := b.flash slot
  { b with st := 1, slotb := slot, version := BitVec.ofNat 32 (imageVersion m), fwdig := imageDigest m }

/-! ## Boot states (23 R346) -/

/-- Links put into training. -/
def State.train (s : State) (ks : List Nat) : State :=
  { s with links := ks.foldl (fun t k => tabSet {} t k { (tabGet {} t k : Link) with st := .training, attempts := 0 }) s.links }

/-- BOOT_ROM: the key pair is derived, from then on the identity block never changes; the Neruo link trains; the selected slot is tried first, then the other; FW, or FAIL with the cause of the selected
slot (R346 to R348; 02 R21). -/
def execBootRom (s : State) : Out :=
  let b := { s.boot with fused := true, pub := Config.publicKey s.boot.seed }
  if b.st ≠ 0 then .fault .notDue
  else
    let s := s.train [neruo]
    let other := 1 - b.slot
    if b.reject b.slot = 0 then .next { s with boot := b.accept b.slot }
    else if b.reject other = 0 then .next { s with boot := b.accept other }
    else .next { s with boot := { b with st := 7, cause := b.reject b.slot } }

/-- The mesh and seam links of the module. -/
def State.dieLinks (s : State) : List Nat := (List.range 232).filter s.hasLink

/-- BOOT_FW: mesh and seam links train; pageable space and the tiles are zero; then the fibre pairs train in state FABRIC (R346; 10
R193; 20 R302). -/
def execBootFw (s : State) : Out :=
  if s.boot.st ≠ 1 then .fault .notDue
  else
    let s := s.train (s.dieLinks ++ (List.range 256).map pairLink)
    .next { s with boot := { s.boot with st := 2 }, mem := { s.mem with hbm := [], stamps := [], ecc := [] } }

/-- What fabric bring-up can fix: a member of a group of at most 64, and latencies of 140 to 400 ticks to other members (20 R310,
R311). Without a LOCKED bundle the module is a group of one. -/
def fabricOk (f : Sys2Proof.Fabric) : Bool :=
  decide (1 ≤ f.size) && decide (f.size ≤ 64) && decide (f.member < f.size) &&
    f.lat.all (fun x => decide (x.1 < f.size) && x.1 != f.member && decide (140 ≤ x.2.toNat) && decide (x.2.toNat ≤ 400)) &&
    (f.lat.map (·.1)).eraseDups.length == f.lat.length

/-- A pair in training that does not lock: FAILED, after three attempts (20 R302). -/
def Link.noLock (l : Link) : Link :=
  if l.st == .training then { l with st := .failed, fails := l.fails + BitVec.ofNat 8 (3 - l.attempts), attempts := 3 } else l

/-- The pairs of a bundle after bring-up: those still in training LOCKED at its peer's latency, with a spare pair for each that has FAILED,
or DEGRADED where spares are wanting; or all FAILED (20 R302 to R304, R311). DEDUCED: log 24. -/
def State.lockBundle (s : State) (b peer : Nat) (lat : Option (BitVec 16)) : State :=
  let ps := (List.range 4).map (fun i => pairLink (4 * b + i))
  let at' (l : Link) : Link := { l with peer := BitVec.ofNat 8 peer }
  let set (s : State) (k : Nat) (l : Link) : State := { s with links := tabSet {} s.links k (at' l) }
  match lat with
  | none => ps.foldl (fun s k => set s k (s.link k).noLock) s
  | some v =>
    let (up, lost) := ps.partition (fun k => (s.link k).st == .training)
    let s := lost.foldl
      (fun s k =>
        let s := set s k (s.link k)
        match s.spare v with
        | some q => s.takeSpare k q b (at' { st := .locked, lat := v })
        | none => s)
      s
    let pairs := up ++ ((s.bundlePairs b).drop 4).map pairLink
    pairs.foldl (fun s k => set s k { s.link k with st := if pairs.length == 4 then .locked else .degraded, lat := v, attempts := 0 }) s

/-- BOOT_FABRIC: fibre bundles, member index, group size, and Firmament count := 0; bundles that no peer stands behind FAIL, and without
one that carries traffic the module is a group of one (R346; 20 R302, R310 to R312). Links of the dies have ended their training.
DEDUCED: log 24. -/
def execBootFabric (f : Sys2Proof.Fabric) (s : State) : Out :=
  if s.boot.st ≠ 2 ∨ s.boot.fabric ∨ !fabricOk f ∨ s.links.any (fun x => !isPair x.1 && x.2.st == .training) then .fault .notDue
  else
    let s := { s with boot := { s.boot with fabric := true },
                      time := { member := f.member, size := f.size, ppsok := s.time.ppsok, tsec := s.time.tsec } }
    let s := (List.range 63).foldl
      (fun s b =>
        let j := s.peerOf b
        if j < f.size then s.lockBundle b j ((f.lat.find? (fun x => x.1 == j)).map (·.2)) else s.lockBundle b 0 none)
      s
    .next (if s.liveBundles.isEmpty then { s with time := { s.time with member := 0, size := 1 } } else s)

/-- BOOT_READY: the log-start entry, and one link-state event per link (R346; 21 R327). -/
def execBootReady (s : State) : Out :=
  if s.boot.st ≠ 2 ∨ !s.boot.fabric then .fault .notDue
  else
    let s := { s with boot := { s.boot with st := 3 } }
    let s := s.celLog 0 0 0xFF (s.boot.resets.zeroExtend 512)
    .next (((List.range linkCount).filter s.hasLink).foldl (fun s k => s.post ⟨32, 6, 0, 0, s.linkWord k⟩) s)

/-- FIRMWARE_COMMIT: fuses IDMINV := the running VERSION while READY; IDMINV never decreases (R347). -/
def State.commit (s : State) : State :=
  if s.ready ∧ s.boot.minv.toNat < s.boot.version.toNat then { s with boot := { s.boot with minv := s.boot.version } } else s

/-- FIRMWARE_COMMIT. -/
def execFirmwareCommit (s : State) : Out := s.hostAccess 0x1008 State.commit

/-- The staging range (R355). -/
def stagingSize : Nat := 0x400000

/-- Bytes written into the slot that BOOTCTL.SLOT selects; refused where that slot booted (R347). DEDUCED: log 27. -/
def State.stage (s : State) (off : Nat) (data : List Byte) : State :=
  let b := s.boot
  if b.st ≠ 0 ∧ b.slot = b.slotb then s.refuse (0x400000 + off)
  else
    let data := data.take (stagingSize - off)
    let m := memWrite (b.flash b.slot) off data.length (bytesToNat data)
    { s with boot := if b.slot = 0 then { b with flash0 := m } else { b with flash1 := m } }

/-- FIRMWARE_STAGING_WRITE (R347). -/
def execFirmwareStagingWrite (off : BitVec 22) (data : List Byte) (s : State) : Out :=
  s.hostAccess (0x400000 + off.toNat) (fun s => s.stage off.toNat data)

/-! ## The power cap (23 R352, R356) -/

/-- PCAP_WRITE: refused outside 400 to 1,800 W (R356). -/
def execPcapWrite (v : Word) (s : State) : Out :=
  s.hostAccess 0x2000 (fun s =>
    let cap := v.extractLsb' 0 11
    if 400 ≤ cap.toNat ∧ cap.toNat ≤ 1800 then { s with power := { s.power with pcap := cap } } else s.refuse 0x2000)

/-! ## Attestation (23 R350, R356) -/

/-- A digest or other big-endian value as the little-endian number of its bytes. -/
def leOfBe (v : Nat) (n : Nat) : Nat := bytesToNat (beBytes v n)

/-- Bytes 0 to 127 of a report. -/
def State.reportBody (s : State) (rid : Nat) : BitVec 1024 :=
  0#168 ++ BitVec.ofNat 8 rid ++ BitVec.ofNat 16 Config.archRev ++ s.boot.resets ++
    BitVec.ofNat 256 (leOfBe (s.region rid).rmeas.toNat 32) ++ BitVec.ofNat 256 (leOfBe s.boot.fwdig.toNat 32) ++ s.att.nonce

/-- A write of ATTREQ: RID, and with GO a request; one for a FREE RID or during another is refused (R350, R356).
DEDUCED: log 27. -/
def State.attest (s : State) (v : Word) : State :=
  let a := { s.att with rid := v.extractLsb' 0 5 }
  if !v.getLsbD 8 then { s with att := a }
  else
    let rid := a.rid.toNat
    if a.busy || (s.region rid).st == .free then { s with att := { a with done := true, err := true } }.refuse 0x5020
    else { s with att := { a with done := false, err := false, busy := true, body := s.reportBody rid } }

/-- ATTESTATION_REQUEST (R350). -/
def execAttestationRequest (v : Word) (s : State) : Out := s.hostAccess 0x5020 (fun s => s.attest v)

/-- ATTESTATION_DONE: the report stands in ATTREP, signed over the SHA-256 of bytes 0 to 127 (R350). -/
def execAttestationDone (s : State) : Out :=
  let a := s.att
  if a.busy then
    let sig := Config.sign s.boot.seed (sha256 (natToBytes a.body.toNat 128))
    .next { s with att := { a with busy := false, done := true,
                                   rep := BitVec.ofNat 512 (leOfBe sig.toNat 64) ++ a.body } }
  else .fault .notDue

/-! ## Register writes (23 R355; 00 R7, R8) -/

/-- A wide register with eight bytes replaced. -/
def putWord {w : Nat} (x : BitVec w) (i : Nat) (v : Word) : BitVec w :=
  let m : Nat := (2 ^ 64 - 1) <<< (64 * i)
  BitVec.ofNat w ((x.toNat &&& ((2 ^ w - 1) ^^^ m)) ||| (v.toNat <<< (64 * i)))

/-- The bits of a tenure row that are not reserved (10 R203). -/
def slotRowMask : BitVec 512 := BitVec.ofNat 512 ((List.range 32).foldl (fun m i => m ||| (0x0FFF <<< (16 * i))) 0)

/-- A word of the command port; the last one hands the descriptor over (23 R355; 10 R189). -/
def State.writePort (s : State) (i : Nat) (v : Word) : State :=
  let s := { s with port := putWord s.port i v }
  if i = 7 then s.submit ⟨.host, 0x6000, s.port⟩ else s

/-- BOOTCTL (R356). DESIGN CHOICE: a write that sets several of its bits selects the slot, then commits, then resets (log 35). -/
def State.writeBootctl (s : State) (v : Word) : State :=
  let s := { s with boot := { s.boot with slot := slice v 1 1 } }
  let s := if v.getLsbD 2 then s.commit else s
  if v.getLsbD 0 then s.reboot s.boot.slot else s

/-- MWCTL without GO (20 R309). -/
def writeMwctl (v : Word) (w : MemWin) : MemWin := { w with write := v.getLsbD 4 }

/-- A write of eight bytes at an offset of the aperture: each range as R355 lays it out; a read-only or unlisted one ignores it.
DESIGN CHOICE: an offset that is no multiple of 8 means the eight aligned bytes that hold it (log 35). -/
def execRegisterWrite (off : BitVec 30) (v : Word) (s : State) : Out :=
  let o := off.toNat / 8 * 8
  let i (base : Nat) : Nat := (o - base) / 8
  let at' (base size : Nat) : Bool := decide (base ≤ o) && decide (o < base + size)
  if o = 0x1008 then s.hostAccess o (fun s => s.writeBootctl v)
  else if o = 0x2000 then execPcapWrite v s
  else if at' 0x4000 0x1000 then
    s.hostAccess o (fun s =>
      let n := (o - 0x4000) / 64
      { s with tenureRows := tabSet 0 s.tenureRows n (putWord (tabGet 0 s.tenureRows n) (i 0x4000 % 8) v &&& slotRowMask) })
  else if at' 0x5000 32 then s.hostAccess o (fun s => { s with att := { s.att with nonce := putWord s.att.nonce (i 0x5000) v } })
  else if o = 0x5020 then execAttestationRequest v s
  else if at' 0x6000 64 then s.hostAccess o (fun s => s.writePort (i 0x6000) v)
  else if o = 0x6040 then execEventRingConfigWrite true v s
  else if o = 0x6048 then execEventRingConfigWrite false v s
  else if o = 0x6050 then execEventRingHeadWrite v s
  else if o = 0x8008 then execCelbaseWrite v s
  else if at' 0x10000 0x8000 then
    if (o - 0x10000) % 0x400 < 0x200 then execCounterWindowWrite ((o - 0x10000) / 0x400) ((o - 0x10000) % 0x400 / 8) v s
    else s.hostAccess o id
  else if at' 0x20000 0x1000 then
    let rid := (o - 0x20000) / 0x80
    let j := (o - 0x20000) % 0x80 / 8
    if j < 10 then execVdRecordWrite rid (putWord (s.region rid).vd j v) s else s.hostAccess o id
  else if o = winOff then s.hostAccess o (fun s => s.writeWin o (fun w => { w with asid := v.extractLsb' 0 10 }))
  else if o = winOff + 8 then s.hostAccess o (fun s => s.writeWin o (fun w => { w with va := v }))
  else if o = winOff + 16 then
    s.hostAccess o (fun s => s.writeWin o (if v.getLsbD 0 then startWin (v.getLsbD 4) else writeMwctl v))
  else if at' (winOff + 64) 64 then
    s.hostAccess o (fun s => s.writeWin o (fun w => { w with data := putWord w.data (i (winOff + 64)) v }))
  else if at' 0x400000 stagingSize then execFirmwareStagingWrite (BitVec.ofNat 22 (o - 0x400000)) (natToBytes v.toNat 8) s
  else if at' 0x20000000 0x20000000 then
    execTableStoreWrite ((o - 0x20000000) / 0x10000000) (BitVec.ofNat 28 (o - 0x20000000)) v s
  else s.hostAccess o id

end Sys2Proof.Machine
end

