-- ==== Sys2Proof/Machine/Aperture.lean ====
section
/-! DEFINITION. What a host read of the management aperture returns: every register and window of 23 R355 and R356, with R203,
R239, R304, R309, R314, R320, R326, R330. -/

namespace Sys2Proof.Machine

/-- Word `i` of a wide register. -/
def getWord {w : Nat} (x : BitVec w) (i : Nat) : Word := BitVec.ofNat 64 (x.toNat >>> (64 * i))

/-- A counter's status word (12 R239). -/
def Ctr.status (x : Ctr) : Word :=
  let kind : Nat := match x.st with
    | .free => 0
    | .signalled => 1
    | .bound => 2
  0#49 ++ BitVec.ofNat 7 x.tile ++ 0#2 ++ BitVec.ofNat 2 kind ++ BitVec.ofBool x.err ++ BitVec.ofNat 3 x.ctx

/-- BOOTST (23 R356). -/
def Boot.status (b : Boot) : Word := 0#56 ++ BitVec.ofNat 4 b.cause ++ BitVec.ofNat 1 b.slotb ++ BitVec.ofNat 3 b.st

/-- PWRST (23 R356). -/
def Power.status (p : Power) : Word := 0#32 ++ p.tjReg ++ 0#15 ++ BitVec.ofBool p.trip

/-- ATTREQ (23 R356). -/
def Attest.status (a : Attest) : Word := 0#53 ++ BitVec.ofBool a.err ++ BitVec.ofBool a.done ++ 0#1 ++ 0#3 ++ a.rid

/-- MWCTL (20 R309). -/
def MemWin.status (w : MemWin) : Word :=
  0#52 ++ w.reason ++ 0#3 ++ BitVec.ofBool w.write ++ BitVec.ofBool w.err ++ BitVec.ofBool w.done ++ BitVec.ofBool w.busy ++ 0#1

/-- A word of the counter window of a region (12 R239). -/
def Region.ctrWord (r : Region) (o : Nat) : Word :=
  let x := r.ctr (o % 0x200 / 8)
  if o < 0x200 then x.value else x.status

/-- The eight bytes that a read returns; unlisted and write-only ranges read zero (23 R355; 00 R7). DESIGN CHOICE: an offset that is no
multiple of 8 means the eight aligned bytes that hold it (log 35). -/
def State.readAperture (s : State) (off : Nat) : Word :=
  let o := off / 8 * 8
  let at' (base size : Nat) : Bool := decide (base ≤ o) && decide (o < base + size)
  let i (base : Nat) : Nat := (o - base) / 8
  let be (v n : Nat) (j : Nat) : Word := BitVec.ofNat 64 (leOfBe v n >>> (64 * j))
  if o = 0 then s.boot.good0
  else if o = 8 then s.boot.good1
  else if o = 0x10 then s.boot.resets
  else if o = 0x18 then s.boot.minv.zeroExtend 64
  else if at' 0x20 32 then be s.boot.vkey.toNat 32 (i 0x20)
  else if at' 0x40 64 then be s.boot.pub.toNat 64 (i 0x40)
  else if o = 0x80 then BitVec.ofNat 64 Config.archRev
  else if at' 0x400 1024 then getWord s.boot.cert (i 0x400)
  else if o = 0x1000 then s.boot.status
  else if o = 0x1008 then BitVec.ofNat 64 (2 * s.boot.slot)
  else if at' 0x1010 32 then be s.boot.fwdig.toNat 32 (i 0x1010)
  else if o = 0x2000 then s.power.pcap.zeroExtend 64
  else if o = 0x2008 then s.power.thead.zeroExtend 64
  else if o = 0x2010 then s.power.status
  else if o = 0x3000 then (BitVec.ofBool s.time.ppsok).zeroExtend 64
  else if o = 0x3008 then s.time.tsec
  else if o = 0x3010 then s.time.tcount
  else if at' 0x4000 0x1000 then getWord (tabGet 0 s.tenureRows ((o - 0x4000) / 64)) (i 0x4000 % 8)
  else if at' 0x5000 32 then getWord s.att.nonce (i 0x5000)
  else if o = 0x5020 then s.att.status
  else if at' 0x5100 192 then getWord s.att.rep (i 0x5100)
  else if o = 0x6040 then s.ring.base
  else if o = 0x6048 then s.ring.size
  else if o = 0x6050 then s.ring.head
  else if o = 0x6058 then s.ring.tail
  else if at' 0x7000 (8 * linkCount) then s.linkWord (i 0x7000)
  else if o = 0x8000 then s.cel.head
  else if o = 0x8008 then s.cel.base
  else if o = 0x8010 then s.cel.ovf
  else if at' 0x8800 2048 then getWord (tabGet 0 s.reqLog ((o - 0x8800) / 32)) (i 0x8800 % 4)
  else if at' 0x10000 0x8000 then (s.region ((o - 0x10000) / 0x400)).ctrWord ((o - 0x10000) % 0x400)
  else if at' 0x18000 0x8000 then
    getWord (((s.region ((o - 0x18000) / 0x400)).frames[(o - 0x18000) % 0x400 / 64]?).getD 0) (i 0x18000 % 8)
  else if at' 0x20000 0x1000 then
    if (o - 0x20000) % 0x80 < 80 then getWord (s.region ((o - 0x20000) / 0x80)).vd ((o - 0x20000) % 0x80 / 8) else 0
  else if o = winOff then s.win.asid.zeroExtend 64
  else if o = winOff + 8 then s.win.va
  else if o = winOff + 16 then s.win.status
  else if at' (winOff + 64) 64 then getWord s.win.data (i (winOff + 64))
  else 0

/-- The region and counter whose VALUE an offset reads (12 R239). -/
def ctrAt (off : Nat) : Option (Nat × Nat) :=
  if 0x10000 ≤ off ∧ off < 0x18000 ∧ (off - 0x10000) % 0x400 < 0x200 then
    some ((off - 0x10000) / 0x400, (off - 0x10000) % 0x200 / 8)
  else none

/-- A read of the aperture by the host: the answer, none where the Neruo link carries no traffic or the access is refused; a counter's
VALUE shows the host what it publishes (20 R303; 23 R346; 17 R291). -/
def State.hostRead (s : State) (off : Nat) : State :=
  if !s.neruoUp then { s with got := none }
  else if s.ready || s.answersEarly off then
    let s := { s with got := some (s.readAperture off) }
    match ctrAt off with
    | some (rid, c) =>
      let r := s.region rid
      s.setRegion rid { r with shown := r.shown.filter (fun x => !x.ctrs.contains c) }
    | none => s
  else { s.refuse off with got := none }

end Sys2Proof.Machine
end

