-- ==== Sys2Proof/Machine/Illegal.lean ====
section
/-! DEFINITION. A word that no instruction encodes (03 R47; 05 R73; 11 R219). -/

namespace Sys2Proof.Machine

/-- ILLEGAL_INSTRUCTION: class 1 with the cause, precise to the PC of the sequencer the cursor names (R47, R73, R219). -/
def execIllegalInstruction (cause : BitVec 4) (s : State) : Out :=
  match s.ctx, s.cctx with
  | some c, _ => .next (c.finish (.stop s 1 cause.toNat 0 0))
  | none, some c => .next (c.illegal s cause.toNat)
  | none, none => .fault .noSequencer

end Sys2Proof.Machine
end

