-- ==== Sys2Proof/Machine/Late.lean ====
section
/-! DEFINITION. Holds change only real time: where a running step shows that a tile went on past something that a held tile
owed it, the step goes back to its mark and the tile holds in turn (01 R13; 02 R27; 12 R231; 21 R319). DEDUCED: log 31. -/

namespace Sys2Proof.Machine

/-! ## What a word learns -/

/-- The key of looks of a scope's operations. -/
def lookScope (sc : CollScope) : Nat := 64 + sc.ctx

/-- The key of looks of the pending seals. -/
def lookSeals : Nat := 64

/-- The keys of what a word looks at, and whether it claims or changes them (12 R231, R234; 13 R254; 16 R275). -/
def wordLooks : Instr → List Nat × Bool
  | .cntw _ n _ => ([n.toNat], false)
  | .cntr _ _ n => ([n.toNat], false)
  | .cnts _ n _ => ([n.toNat], true)
  | .copy _ _ _ _ _ _ _ _ _ cen ctr _ _ _ _ => (if cen then [ctr.toNat] else [], true)
  | .coll _ _ sc _ _ _ _ _ _ _ _ _ ctr _ _ _ _ => ([ctr.toNat, lookScope sc], true)
  | .sealR _ _ _ | .unsealR _ _ _ => ([lookSeals], true)
  | _ => ([], false)

/-- Tile `i` does not come to tick `u` before tile `j` has, where both have a word there: the lower tile's comes first
(12 R228). -/
def Bar.order (i u j : Nat) : Bar := { tile := i, tick := u, behind := j, upto := if j < i then u else u - 1 }

/-- Whether what tile `i` does at tick `u` comes after what tile `j` does at tick `t` (12 R228). -/
def comesAfter (i u j t : Nat) : Bool := decide (t < u) || (u == t && decide (j < i))

/-- The bars for words of other tiles that looked, at a later tick, at what the word of tile `j` at tick `t` changes; claims of one tick
go by the tile (12 R228, R231). -/
def Mark.lateLooks (m : Mark) (i : Instr) (j t : Nat) : List Bar :=
  if (wordLooks i).2 then
    (m.looks.filter (fun x => (wordLooks i).1.contains x.key && x.tile != j &&
      (if x.claims then comesAfter x.tile x.tick j t else decide (t < x.tick)))).map (fun x => .order x.tile x.tick j)
  else []

/-- The ranges of a COPY or COLL, where its places are as they should be (12 R235; 13 R254). -/
def Ctx.places (c : Ctx) (s : State) (i : Instr) : List OpRange :=
  match i with
  | .copy _ _ dk sk _ _ _ _ _ _ _ _ lreg dreg sreg =>
    match c.copyPlaces s sk dk (c.rd sreg) (c.rd dreg) (c.rd lreg).toNat with
    | .ok (ls, ld, n) => [⟨ls, (c.rd lreg).toNat, false⟩, ⟨ld, n, true⟩]
    | .error _ => []
  | .coll _ _ sc root fanin count ty red pat _ _ _ ctr _ lreg dreg sreg =>
    match c.rank sc with
    | none => []
    | some rank =>
      match c.contrib s sc root fanin count ty red pat none ctr.toNat rank (c.rd sreg) (c.rd dreg) (c.rd lreg).toNat with
      | .ok p => p.ranges
      | .error _ => []
  | _ => []

/-- Whether an instruction registers lines with the channels at its issue tick (17 R287). -/
def registers : Instr → Bool
  | .copy _ _ _ _ _ _ _ _ _ _ _ _ _ _ _ => true
  | .coll _ _ _ _ _ _ _ _ _ _ _ _ _ _ _ _ _ => true
  | _ => false

/-- A word that a stream is about to issue at tick `u` notes in the mark what it looks at, and, of a COPY or COLL, its ranges. -/
def State.noteWord (s : State) (rid u tile : Nat) (k : SeqKind) (i : Instr) : State :=
  let r := s.region rid
  match r.mark, ({ s with cur := .stream rid tile k } : State).ctx with
  | some m, some c =>
    s.setRegion rid { r with mark := some { m with
      looks := (wordLooks i).1.map (fun key => ⟨key, u, tile, (wordLooks i).2⟩) ++ m.looks,
      last := if registers i then
          let judged := c.x.opRanges i
          let ranges := c.places s i
          some ⟨tile, u, if ranges.isEmpty then judged else ranges, judged⟩
        else none } }
  | _, _ => s

/-! ## What shows -/

/-- An effect on another tile than its own that came when that tile had begun its tick. -/
def Region.lateEffs (r : Region) (run : Run) (m : Mark) : List Bar :=
  run.effs.filterMap (fun e =>
    match r.tiles[e.tile]? with
    | some t =>
      if e.tile ≠ e.org.tile ∧ (e.due < t.tick ∨ (e.due = t.tick ∧ !m.due.any e.same)) then
        some { tile := e.tile, tick := e.due, behind := e.org.tile, upto := e.due - 1 }
      else none
    | none => none)

/-- A stream that issued words after the tick of its fault, which an access to another tile's banks raised: it waits for that tile to
come to the fault's tick (21 R319). -/
def Region.lateFaults (r : Region) (run : Run) (m : Mark) : List Bar :=
  run.faults.flatMap (fun f =>
    match streamKinds[f.seq]?, r.tiles[f.tile]? with
    | some k, some t =>
      if ((t.stream k).lastTick.map (fun l => decide (f.tick < l))).getD false then
        (m.due.filter (fun e => e.due == f.tick && e.tile != f.tile && e.org.tile == f.tile && e.org.k == k && e.org.issue == f.issue)).map
          (fun e => { tile := f.tile, tick := f.tick + 1, behind := e.tile, upto := f.tick, only := some k })
      else []
    | _, _ => [])

/-- A COPY or COLL that was tried although other tiles had tried one with a later place that conflicts with it, or for which claims of
later channel ticks had been judged of lines that it registers (12 R237; 17 R287). -/
def Region.lateOp (run : Run) (m : Mark) : List Bar :=
  match m.last with
  | none => []
  | some o =>
    let hit (x : Claim) : Bool :=
      decide (o.tick < x.tick) && o.ranges.any (fun a => a.covers (BitVec.ofNat 64 (64 * x.line)) && (a.w || !x.read))
    let lines := ((run.chans.filter hit).map (fun x => (x.tick, (BitVec.ofNat 64 (64 * x.line) : Word))))
    (m.tried.filter (fun p => p.tile != o.tile &&
      ((comesAfter p.tile p.tick o.tile o.tick && o.ranges.any (fun a => p.ranges.any (fun b => a.conflicts b))) ||
        lines.any (fun x => decide (x.1 ≤ p.tick) && p.judged.any (fun a => a.covers x.2))))).map
      (fun p => .order p.tile p.tick o.tile)

/-- A stream that was kept back for a fault which did not come: its tile waits instead (21 R319). -/
def Region.overdue (r : Region) (u tile : Nat) (k : SeqKind) : List Bar :=
  if (r.tiles[tile]?).any (fun t => decide (u < t.tick)) then
    (r.bars.filter (fun b => b.tile == tile && b.only == some k)).map (fun b => { b with only := none })
  else []

/-- What has come too late in a marked step: the bars that would have kept it in order and do not stand yet. -/
def Region.late (r : Region) : List Bar :=
  match r.mark, r.run with
  | some m, some run =>
    r.newBars (m.late ++ r.lateEffs run m ++ r.lateFaults run m ++ Region.lateOp run m ++
      (match r.pick with
       | some (u, .issue tile k) =>
         r.overdue u tile k ++
           (match (r.tiles[tile]?).bind (fun t => (t.stream k).peek k) with
            | some i => m.lateLooks i tile u
            | none => [])
       | some (u, .waitEnd tile k) | some (u, .bound tile k) => r.overdue u tile k
       | _ => []))
  | _, _ => []

/-! ## Order -/

/-- A region in order: where something has come too late, its running step goes back, and the tiles that went too far hold in
turn (02 R27). -/
def State.settle (s : State) (rid : Nat) : State :=
  let r := s.region rid
  match r.mark with
  | none => s
  | some m =>
    if r.late.isEmpty then s.setRegion rid { r with mark := some { m with tried := m.last.toList ++ m.tried, last := none } }
    else s.goBack rid r.late

/-- Every region in order. -/
def State.settled (s : State) : State := (s.regions.map (·.1)).foldl State.settle s

end Sys2Proof.Machine
end

