-- ==== Sys2Proof/Machine/Schedule.lean ====
section
/-! DEFINITION. What the machine does next: the words that sequencers fetch and the events that are due, in one fixed order, and
the changes that the world outside makes (05 R69 to R73; 10 R192; 11 R217 to R222; 20 R307; 23 R346). -/

namespace Sys2Proof.Machine

/-! ## Conductors (11 R216, R221 to R226) -/

/-- Whether a conductor's word waits no longer. -/
def CCtx.ready (c : CCtx) (s : State) (i : Instr) : Bool :=
  match i with
  | .condStep _ _ => c.r.staged.isNone && c.r.restage.isNone && c.r.st != .halting
  | .fence a b n =>
    match c.fenceList s (c.rd a) (c.rd b) n.toNat with
    | some es => c.reached es
    | none => true
  | .cntwConductor n a => c.reached [(n.toNat, c.rd a)]
  | .signal _ _ | .hostn _ _ | .yieldp | .endConductor | .cntrConductor _ _ => c.r.drained
  | .pgret _ a =>
    match s.asidOwner (slice (c.rd (a + 1)) 0 10) (c.rd a) with
    | none => true
    | some rid =>
      match s.blockOf rid (c.rd a) with
      | none => true
      | some (ch, blk) =>
        match s.mem.retireOf ch blk with
        | some x => x.retired || c.g.joined == 0
        | none => true
  | .rmcmd _ a =>
    match (if vaObject (c.rd a) then s.readVa c.rid (c.rd a) 64 else none) with
    | none => true
    | some v =>
      let cmd : Cmd := ⟨.service c.rid, c.rd a, BitVec.ofNat 512 v⟩
      s.canTake cmd.rid && (s.region cmd.rid).cmdQ.isEmpty
  | _ => true

/-- What a region's conductor or its next graph run is about to read: a graph's header, a word with the image, list or descriptor that it
reads (11 R216, R219, R223; 10 R209). -/
def State.condReads (s : State) (rid : Nat) : List (Word × Nat) :=
  let r := s.region rid
  if s.canBegin rid then
    match r.graphs, r.startQ with
    | g :: _, _ => (g.kids.head?.toList).map (fun k => (k.2.1, 64))
    | [], l :: _ => [(l.graph, 64)]
    | [], [] => []
  else
    match r.graphs with
    | g :: _ =>
      if r.active && r.begun && r.staging.isNone && !r.runFaulted && !s.waiting rid then
        (g.va + BitVec.ofNat 64 g.pc, 4) ::
          (match (s.condFetch rid g).2 with
           | .condStep a b =>
             s.imageReads rid g (regGet g.s a) (regGet g.s b)
           | .fence a _ n => [(regGet g.s a, 8 * n.toNat)]
           | .rmcmd _ a => [(regGet g.s a, 64)]
           | _ => [])
      else []
    | [] => []

/-- A memory error that cannot be repaired stands in what a conductor is about to read. -/
def State.condBlocked (s : State) (rid : Nat) : Bool := !s.mem.ecc.isEmpty && s.eccBad rid (s.condReads rid)

/-- Memory errors met by what a conductor is about to read: corrected, repaired, or, where a granule is lost, the region becomes YIELDED
at its restart record once no step is in progress (16 R280, R281; 21 R325). DEDUCED: log 16. -/
def State.condMeets (s : State) (rid : Nat) : State :=
  if s.mem.ecc.isEmpty || (s.condBlocked rid && !(s.region rid).drained) then s
  else
    match s.eccRanges rid (s.condReads rid) with
    | (s, true) => s
    | (s, false) => s.yieldLost rid

/-- The next word of a region's conductor, where it can issue. -/
def State.condNext (s : State) (rid : Nat) : Option (Cur × Instr) :=
  let r := s.region rid
  match r.graphs with
  | [] => none
  | g :: _ =>
    if r.active && r.begun && r.staging.isNone && !r.runFaulted && !s.waiting rid && !s.condBlocked rid then
      let (w, i) := s.condFetch rid g
      if (CCtx.mk rid r g w).ready s i then some (.conductor rid w, i) else none
    else none

/-! ## A running step -/

/-- The event in which an effect takes place. DEDUCED: log 1; DEDUCED: log 12. -/
def Act.event (rid : Nat) : Act → Instr
  | .reg _ _ | .form _ _ | .rows _ _ | .pmask _ _ | .ctrl _ _ | .driftw | .key _ | .fmt _ _ | .mclr _ | .msatClr _
  | .mread _ _ _ _ | .maddw _ _ _ | .front _ _ | .fault _ _ _ => .resultWriteback rid
  | .mmaAdd _ _ _ _ _ _ _ _ _ _ => .mmaBlockAdd rid
  | .release _ _ => .cntsRelease rid
  | .push _ _ _ | .trim _ => .queueAppend rid
  | .resp _ _ => .memoryResponse rid
  | .vec _ _ _ | .maddwRd _ _ _ _ | .mmaBlk _ _ _ _ _ _ _ _ | .lstrm _ _ _ _ _ | .sstrm _ _ _ _ _ => .runningFormStep rid
  | .chan _ _ _ _ => .channelAccess rid
  | .word _ _ _ => .wordDue rid
  | .bankRd _ _ | .bankWr _ => .bankAccess rid
  | .depart _ _ => .wordDeparture rid

/-- The next item of a running step as an instruction, its region's tiles at its tick where it is a word. -/
def State.stepNext (s : State) (rid : Nat) : Option (State × Cur × Instr) :=
  let r := s.region rid
  match r.pick with
  | none => none
  | some (_, .eff e) => some (s, .none, e.act.event rid)
  | some (_, .waitEnd _ _) => some (s, .none, .waitEnd rid)
  | some (_, .bound _ _) => some (s, .none, .tickBound rid)
  | some (u, .issue tile k) =>
    match r.tiles[tile]? with
    | some t =>
      let i := (t.stream k).fetch k
      some ((s.setRegion rid (r.advance u)).noteWord rid u tile k i, .stream rid tile k, i)
    | none => none

/-- A hold that ends, or a wait for a physical word, of the lowest tile. -/
def State.holdNext (s : State) (rid : Nat) : Option Instr :=
  let r := s.region rid
  r.tiles.zipIdx.findSome? (fun x =>
    match x.1.hold with
    | .none => none
    | .counter c n _ => if n.toNat ≤ (r.ctr c).value.toNat then some (.counterHoldEnd rid x.2) else none
    | .context ctx org => if r.contextFree ctx org then some (.contextHoldEnd rid x.2) else none
    | .word _ => some (.physicalArrival rid x.2))

/-- What the next operation of a copy context does. -/
def State.copyNext (s : State) (rid tile ctx : Nat) : Option Instr :=
  let r := s.region rid
  match r.copyHead tile ctx with
  | none => none
  | some o =>
    if !r.enginesRun then none
    else if o.st == .started then some (.copyOpComplete rid tile ctx)
    else if s.copyCanStart rid tile ctx then some (.copyOpStart rid tile ctx)
    else if r.waitMet o.wait && s.neruoUp then
      o.nextPage.map (fun va => .hostTranslationResponse rid tile ctx (Config.hostTranslate r.asid va))
    else none

/-- What the collective engine of a scope does next without words from other modules. -/
def Region.collNext (r : Region) (rid : Nat) (scope : CollScope) : Option Instr :=
  match r.collHead scope with
  | none => none
  | some o =>
    if r.enginesRun && o.st == .started then some (.collOpComplete rid scope)
    else if r.collCanStart scope [] then some (.collOpStart rid scope [])
    else none

/-- What the engines of a region do next (12 R229, 13 R254). -/
def State.engineNext (s : State) (rid : Nat) : Option Instr :=
  let r := s.region rid
  let open' : List (Nat × Nat) := match r.run with
    | some run => (run.copies.filter (fun o => o.st != .done)).map (fun o => (o.tile, o.ctx))
    | none => []
  match open'.findSome? (fun x => s.copyNext rid x.1 x.2) with
  | some i => some i
  | none => [CollScope.die, .package, .fabric].findSome? (r.collNext rid)

/-- The end of a step, or its freeze point. -/
def Region.endNext (r : Region) (rid : Nat) : Option Instr :=
  if r.draining then some (.virgaDrainDone rid)
  else if r.canMeet then some (.stepRendezvous rid)
  else
    match r.run with
    | none => none
    | some run =>
      if r.stopped then
        match r.ending run with
        | .reexecute => some (.stepReexecute rid)
        | .restart => some (.runRestart rid)
        | _ => some (.stepStop rid)
      else if r.canHalt then some (.freezePoint rid)
      else none

/-! ## A region -/

/-- A queued command as an instruction. -/
def cmdInstr (c : Cmd) : Instr :=
  match c.cmd with
  | 2 => .start c
  | 3 => .yieldCmd c
  | 4 => .freeze c
  | 5 => .resume c
  | 6 => .release c
  | _ => .place c

/-- An event of a region's life that needs no sequencer. -/
def State.lifeNext (s : State) (rid : Nat) : Option Instr :=
  let r := s.region rid
  (if s.mustSave rid then some (.contextSave rid) else none)
  |>.or (if r.st == .zeroing && s.sitesClear rid && !s.waiting rid then some (.zeroFillComplete rid) else none)
  |>.or (if r.st == .resuming && s.sitesClear rid && !s.waiting rid then some (.resumeRestored rid) else none)
  |>.or (if r.st == .releasing && !s.waiting rid then some (.regionFreed rid) else none)
  |>.or (if s.canBegin rid && !s.condBlocked rid then some (.graphRunBegin rid) else none)

/-- An event with no sequencer. -/
def plain (s : State) (i : Option Instr) : Option (State × Cur × Instr) := i.map (fun i => (s, .none, i))

/-- What a region does next without its conductor: holds, engines, tiles, the end of the step. -/
def State.ownNext (s : State) (rid : Nat) : Option (State × Cur × Instr) :=
  plain s (s.holdNext rid)
  |>.or (plain s (s.engineNext rid))
  |>.or (s.stepNext rid)
  |>.or (plain s ((s.region rid).endNext rid))

/-- A region in whose step a tile has gone on past a held one, and which goes on by itself: what it shows may still go back, so that the
host and the conductor look at its counters later (02 R27; 12 R227). DEDUCED: log 31. -/
def State.restless (s : State) (rid : Nat) : Bool := (s.region rid).mark.isSome && (s.ownNext rid).isSome

/-- A conductor's word that looks at counters which a running step may change (11 R223; 12 R232). -/
def Instr.looks : Instr → Bool
  | .fence _ _ _ | .cntwConductor _ _ | .cntsConductor _ _ => true
  | _ => false

/-- What a region does next. DESIGN CHOICE: log 4. -/
def State.regionNext (s : State) (rid : Nat) : Option (State × Cur × Instr) :=
  let r := s.region rid
  (if s.canTake rid then r.cmdQ.head?.map (fun c => (s, .queue, cmdInstr c)) else none)
  |>.or (plain s (s.lifeNext rid))
  |>.or (match s.condNext rid with
    | some (c, i) => if Instr.looks i && s.restless rid then none else some (s, c, i)
    | none => none)
  |>.or (plain s (if r.active && r.staging.isSome then some (.stepStaged rid) else none))
  |>.or (plain s (if r.canSwap then some (.planeSwap rid) else none))
  |>.or (s.ownNext rid)

/-! ## The module -/

/-- What boot does next (23 R346). DESIGN CHOICE: log 4. -/
def State.bootNext (s : State) : Option Instr :=
  match s.links.find? (fun x => !isPair x.1 && x.2.st == .training) with
  | some (k, _) => some (.linkTrainingDone k (.locked 0))
  | none =>
    match s.boot.st with
    | 0 => some .bootRom
    | 1 => some .bootFw
    | 2 => some (if s.boot.fabric then .bootReady else .bootFabric ⟨0, 1, []⟩)
    | _ => none

/-- A slot whose holder has given way: the chosen region receives RESUME (10 R206). -/
def State.swapNext (s : State) : Option (State × Cur × Instr) :=
  match s.time.swaps.find? (fun x => (s.slotHolder x.slot).isNone) with
  | some x =>
    let s := { s with time := { s.time with swaps := s.time.swaps.erase x } }
    some (s, .none, .resume (ownCmd 5 x.chosen (s.region x.chosen).rotmask))
  | none => none

/-- An event of the module that is due now. -/
def State.moduleNext (s : State) : Option Instr :=
  let quarantined := s.asids.find? (fun x => x.2 == .quarantined)
  let copying := s.mem.retire.find? (fun x => !x.retired)
  (if !s.ring.waiting.isEmpty && s.ringRoom then some Instr.eventPostResume else none)
  |>.or s.bootNext
  |>.or (if s.power.tripping && !s.power.trip then some .thermalTrip else none)
  |>.or (if s.win.busy && s.neruoUp then some .memoryWindowDone else none)
  |>.or (if s.att.busy then some .attestationDone else none)
  |>.or (copying.map (fun x => .retirementCopyDone x.chan x.blk))
  |>.or (quarantined.map (fun x => .quarantineSweepDone (x.1 / 1024) (x.1 % 1024)))

/-- The next event of the Firmament count, the count advanced to it. -/
def State.timeNext (s : State) : Option (State × Cur × Instr) :=
  match earliest s.timeDue with
  | none => none
  | some (n, i) => some ({ s with time := { s.time with count := max s.time.count n } }, .none, i)

/-- What the machine does next where nothing outside chooses: regions in ascending RID, the module, the count.
DESIGN CHOICE: log 4. -/
def State.nextEvent (s : State) : Option (State × Cur × Instr) :=
  (List.range 32).findSome? s.regionNext
  |>.or s.swapNext
  |>.or (plain s s.moduleNext)
  |>.or s.timeNext

/-! ## The world outside (DESIGN CHOICE: log 4, 7, 8) -/

/-- Whether a word in flight comes over link `link`, from another clock island or over the seam, into tile `tile` at tick `u`: only
there an elastic buffer stands, for whose word the tile holds (02 R26, R27). -/
def Region.crosses (r : Region) (run : Run) (tile u link : Nat) : Bool :=
  let island (i : Nat) : Nat × Nat :=
    let p := sitePos r.place r.w r.h (i % r.w) (i / r.w)
    (p.1 / 2, p.2 / 2)
  run.effs.any (fun e => (e.hops r run).any (fun x =>
    x.2.1 == tile && x.2.2 == u && r.linkOf x.1 tile == [link] && island x.1 != island tile))

/-- A change that the world makes. -/
def State.world (s : State) (e : Env) : State :=
  match e with
  | .flash slot img => { s with boot := if slot = 0 then { s.boot with flash0 := img } else { s.boot with flash1 := img } }
  | .identity g0 g1 vkey seed cert =>
    if s.boot.fused || ((List.range 64).filter g0.getLsbD).length + ((List.range 64).filter g1.getLsbD).length < 120 then s
    else { s with boot := { s.boot with good0 := g0, good1 := g1, vkey := vkey, seed := seed, cert := cert, fused := true } }
  | .host addr data => { s with mem := { s.mem with host := memWrite s.mem.host addr data.length (bytesToNat data) } }
  | .heat tj ok low =>
    let p := { s.power with tj := tj, flowOk := ok && !low, flowLow := low }
    { s with power := { p with tripping := p.tripping || (p.hot && !p.trip) } }
  | .softTile rid tile word x =>
    let put (t : Tile) : Tile := { t with soft := tabSet .none t.soft word x }
    let r := s.region rid
    s.setRegion rid { r.modTile tile put with mark := r.mark.map (fun m =>
      { m with tiles := m.tiles.zipIdx.map (fun y => if y.2 = tile then put y.1 else y.1) }) }
  | .softVirga rid tile x =>
    s.setRegion rid ((s.region rid).modTile tile (fun t =>
      if t.virga.isEmpty then t else { t with virgaSoft := t.virgaSoft ++ [x] }))
  | .parity rid =>
    match (s.region rid).pick with
    | some (u, .eff e) => s.tileError rid e.tile u [] 1
    | some (u, .issue tile _) => s.tileError rid tile u [] 1
    | _ => s
  | .softLine line x => { s with mem := { s.mem with ecc := tabSet .none s.mem.ecc line x } }
  | .crcMismatch rid tile =>
    let r := s.region rid
    match r.staging with
    | some img =>
      let n := tabGet 0 r.crc tile + 1
      if r.tiles.length ≤ tile then s
      else
        let s := (s.celLog 6 (r.site tile) rid).setRegion rid { r with crc := tabSet 0 r.crc tile n }
        if n < 4 then s else s.condFault rid 13 8 r.stepPc r.stepWord img.va 0
    | none => s
  | .idle rid tick =>
    let r := s.region rid
    let free := match r.pick with
      | some (u, _) => decide (tick < u)
      | none => !r.canMeet
    if r.active && free && decide (tick < tickMax) then s.setRegion rid (r.advance tick) else s
  | .lateWord rid tile link =>
    let r := s.region rid
    match r.run, r.tiles[tile]? with
    | some run, some t =>
      if t.held || !r.crosses run tile (t.tick + 1) link then s
      else s.setRegion rid (r.modTile tile (fun t => { t with hold := .word link }))
    | _, _ => s
  | .saw rid => s.setRegion rid { s.region rid with shown := [] }

/-! ## Selection -/

/-- What a step does: nothing issues and the state becomes `s`; an instruction that is due executes; or an instruction that the
outside offers executes where its event is due. -/
inductive Sel where
  | idle (s : State)
  | run (s : State) (i : Instr)
  | offer (s : State) (i : Instr)
  deriving DecidableEq, Repr

/-- A due event selected, if there is one. -/
def Sel.ofNext (s : State) : Option (State × Cur × Instr) → Sel
  | some (s, c, i) => .run { s with cur := c } i
  | none => .idle s

/-- The state in which the next step is chosen: what came too late has gone back, and conductors have met the memory errors in what they
are about to read. -/
def State.prepared (s : State) : State :=
  let s := s.settled
  if s.mem.ecc.isEmpty then s else (List.range 32).foldl State.condMeets s

/-- What the machine does in its next step: the first turn that the outside has set, else what is due next. A step in which something
came too late has gone back first, and a read by the host waits while a region may still go back. DEDUCED: log 1, 31. -/
def State.select (s : State) : Sel :=
  let s := s.prepared
  match s.turns with
  | [] => Sel.ofNext s s.nextEvent
  | t :: ts =>
    let s0 := s
    let s := { s with turns := ts }
    match t with
    | .ext i => .offer { s with cur := .none } i
    | .region rid => Sel.ofNext s (s.regionNext rid)
    | .time => Sel.ofNext s s.timeNext
    | .read off =>
      match (List.range 32).find? s0.restless with
      | some rid => Sel.ofNext s0 (s0.ownNext rid)
      | none => .idle (s.hostRead off)
    | .env e => .idle (s.world e)

/-- An offered instruction whose event is not due, or that only a sequencer could issue, changes nothing.
DESIGN CHOICE: log 30. -/
def offered (s : State) (o : Out) : Out :=
  match o with
  | .fault .notDue | .fault .noSequencer => .next s
  | o => o

end Sys2Proof.Machine
end

