-- ==== Sys2Proof/Machine/Dispatch.lean ====
section
/-! DEFINITION. The meaning of every instruction: one arm per constructor. -/

namespace Sys2Proof.Machine

/-- The meaning of an instruction. -/
def exec (i : Instr) (s : State) : Host.Outcome State Fault Refusal :=
  match i with
  | .nop h => Sys2Proof.Machine.execNop h s
  | .add h d a b => Sys2Proof.Machine.execAdd h d a b s
  | .sub h d a b => Sys2Proof.Machine.execSub h d a b s
  | .and h d a b => Sys2Proof.Machine.execAnd h d a b s
  | .or h d a b => Sys2Proof.Machine.execOr h d a b s
  | .xor h d a b => Sys2Proof.Machine.execXor h d a b s
  | .sll h d a b => Sys2Proof.Machine.execSll h d a b s
  | .srl h d a b => Sys2Proof.Machine.execSrl h d a b s
  | .sra h d a b => Sys2Proof.Machine.execSra h d a b s
  | .mul h d a b => Sys2Proof.Machine.execMul h d a b s
  | .mulh h d a b => Sys2Proof.Machine.execMulh h d a b s
  | .mulhu h d a b => Sys2Proof.Machine.execMulhu h d a b s
  | .div h d a b => Sys2Proof.Machine.execDiv h d a b s
  | .divu h d a b => Sys2Proof.Machine.execDivu h d a b s
  | .rem h d a b => Sys2Proof.Machine.execRem h d a b s
  | .remu h d a b => Sys2Proof.Machine.execRemu h d a b s
  | .min h d a b => Sys2Proof.Machine.execMin h d a b s
  | .max h d a b => Sys2Proof.Machine.execMax h d a b s
  | .minu h d a b => Sys2Proof.Machine.execMinu h d a b s
  | .maxu h d a b => Sys2Proof.Machine.execMaxu h d a b s
  | .slt h d a b => Sys2Proof.Machine.execSlt h d a b s
  | .sltu h d a b => Sys2Proof.Machine.execSltu h d a b s
  | .sel h d a b c => Sys2Proof.Machine.execSel h d a b c s
  | .clz h d a => Sys2Proof.Machine.execClz h d a s
  | .popc h d a => Sys2Proof.Machine.execPopc h d a s
  | .jr h a => Sys2Proof.Machine.execJr h a s
  | .tick h d => Sys2Proof.Machine.execTick h d s
  | .idx h d level => Sys2Proof.Machine.execIdx h d level s
  | .getc h d c => Sys2Proof.Machine.execGetc h d c s
  | .setc h c a => Sys2Proof.Machine.execSetc h c a s
  | .trap h n => Sys2Proof.Machine.execTrap h n s
  | .endStream h => Sys2Proof.Machine.execEndStream h s
  | .ldq h q a => Sys2Proof.Machine.execLdq h q a s
  | .ldt h q a b => Sys2Proof.Machine.execLdt h q a b s
  | .ldb h q a => Sys2Proof.Machine.execLdb h q a s
  | .ldg h q a b => Sys2Proof.Machine.execLdg h q a b s
  | .ldm h tag q a b => Sys2Proof.Machine.execLdm h tag q a b s
  | .ldx h d a => Sys2Proof.Machine.execLdx h d a s
  | .ldxm h d a => Sys2Proof.Machine.execLdxm h d a s
  | .recv h c a => Sys2Proof.Machine.execRecv h c a s
  | .recvx h d c => Sys2Proof.Machine.execRecvx h d c s
  | .lstop h q => Sys2Proof.Machine.execLstop h q s
  | .stq h q a => Sys2Proof.Machine.execStq h q a s
  | .stt h q a b => Sys2Proof.Machine.execStt h q a b s
  | .stm h q a b => Sys2Proof.Machine.execStm h q a b s
  | .stx h d a => Sys2Proof.Machine.execStx h d a s
  | .stxm h d a => Sys2Proof.Machine.execStxm h d a s
  | .send h c a => Sys2Proof.Machine.execSend h c a s
  | .sendx h c a => Sys2Proof.Machine.execSendx h c a s
  | .scat h q a b => Sys2Proof.Machine.execScat h q a b s
  | .atom h op a b => Sys2Proof.Machine.execAtom h op a b s
  | .atomf h op d a b => Sys2Proof.Machine.execAtomf h op d a b s
  | .sstop h q n => Sys2Proof.Machine.execSstop h q n s
  | .vadd h ty d a b => Sys2Proof.Machine.execVadd h ty d a b s
  | .vsub h ty d a b => Sys2Proof.Machine.execVsub h ty d a b s
  | .vmul h ty d a b => Sys2Proof.Machine.execVmul h ty d a b s
  | .vfma h ty d a b => Sys2Proof.Machine.execVfma h ty d a b s
  | .vfms h ty d a b => Sys2Proof.Machine.execVfms h ty d a b s
  | .vmin h ty d a b => Sys2Proof.Machine.execVmin h ty d a b s
  | .vmax h ty d a b => Sys2Proof.Machine.execVmax h ty d a b s
  | .vabs h ty d a => Sys2Proof.Machine.execVabs h ty d a s
  | .vneg h ty d a => Sys2Proof.Machine.execVneg h ty d a s
  | .vrcp h ty d a => Sys2Proof.Machine.execVrcp h ty d a s
  | .vsqrt h ty d a => Sys2Proof.Machine.execVsqrt h ty d a s
  | .vrsq h ty d a => Sys2Proof.Machine.execVrsq h ty d a s
  | .vexp h ty d a => Sys2Proof.Machine.execVexp h ty d a s
  | .vlog h ty d a => Sys2Proof.Machine.execVlog h ty d a s
  | .vtanh h ty d a => Sys2Proof.Machine.execVtanh h ty d a s
  | .vsig h ty d a => Sys2Proof.Machine.execVsig h ty d a s
  | .vand h ty d a b => Sys2Proof.Machine.execVand h ty d a b s
  | .vor h ty d a b => Sys2Proof.Machine.execVor h ty d a b s
  | .vxor h ty d a b => Sys2Proof.Machine.execVxor h ty d a b s
  | .vshl h ty d a b => Sys2Proof.Machine.execVshl h ty d a b s
  | .vshr h ty d a b => Sys2Proof.Machine.execVshr h ty d a b s
  | .vsra h ty d a b => Sys2Proof.Machine.execVsra h ty d a b s
  | .vcmp h cc ty d b => Sys2Proof.Machine.execVcmp h cc ty d b s
  | .vselm h d a b c => Sys2Proof.Machine.execVselm h d a b c s
  | .vcvt h toF32 rm ty d a => Sys2Proof.Machine.execVcvt h toF32 rm ty d a s
  | .vmov h ty d a => Sys2Proof.Machine.execVmov h ty d a s
  | .vbcast h ty d a => Sys2Proof.Machine.execVbcast h ty d a s
  | .vrot h ty d a b => Sys2Proof.Machine.execVrot h ty d a b s
  | .vshuf h ty d a b => Sys2Proof.Machine.execVshuf h ty d a b s
  | .vtrn h ty d a => Sys2Proof.Machine.execVtrn h ty d a s
  | .vscan h op ty d a => Sys2Proof.Machine.execVscan h op ty d a s
  | .vred h op ty d a => Sys2Proof.Machine.execVred h op ty d a s
  | .vmadw h ty d a b => Sys2Proof.Machine.execVmadw h ty d a b s
  | .vaddw h ty d a p => Sys2Proof.Machine.execVaddw h ty d a p s
  | .vpop h d q k => Sys2Proof.Machine.execVpop h d q k s
  | .vpush h ty q a k => Sys2Proof.Machine.execVpush h ty q a k s
  | .qdrop h q n => Sys2Proof.Machine.execQdrop h q n s
  | .vdraw h ty d => Sys2Proof.Machine.execVdraw h ty d s
  | .vpopc h ty d a => Sys2Proof.Machine.execVpopc h ty d a s
  | .vclass h ty d a => Sys2Proof.Machine.execVclass h ty d a s
  | .pand h d a b => Sys2Proof.Machine.execPand h d a b s
  | .por h d a b => Sys2Proof.Machine.execPor h d a b s
  | .pxor h d a b => Sys2Proof.Machine.execPxor h d a b s
  | .pnot h d a => Sys2Proof.Machine.execPnot h d a s
  | .pset h ty d a r => Sys2Proof.Machine.execPset h ty d a r s
  | .pcnt h d a => Sys2Proof.Machine.execPcnt h d a s
  | .pfirst h d a => Sys2Proof.Machine.execPfirst h d a s
  | .vlane h ty d a => Sys2Proof.Machine.execVlane h ty d a s
  | .mclr h d => Sys2Proof.Machine.execMclr h d s
  | .mma h ty d a b => Sys2Proof.Machine.execMma h ty d a b s
  | .mread h ty d a b => Sys2Proof.Machine.execMread h ty d a b s
  | .maddw h d a j => Sys2Proof.Machine.execMaddw h d a j s
  | .mpush h d a j => Sys2Proof.Machine.execMpush h d a j s
  | .mstat h d a clr => Sys2Proof.Machine.execMstat h d a clr s
  | .cntw h c a => Sys2Proof.Machine.execCntw h c a s
  | .cnts h c a => Sys2Proof.Machine.execCnts h c a s
  | .cntr h d c => Sys2Proof.Machine.execCntr h d c s
  | .drift h a => Sys2Proof.Machine.execDrift h a s
  | .sealR h a b => Sys2Proof.Machine.execSealR h a b s
  | .unsealR h a b => Sys2Proof.Machine.execUnsealR h a b s
  | .bfmt h fmt a => Sys2Proof.Machine.execBfmt h fmt a s
  | .dkey h a => Sys2Proof.Machine.execDkey h a s
  | .addi h d a imm => Sys2Proof.Machine.execAddi h d a imm s
  | .andi h d a imm => Sys2Proof.Machine.execAndi h d a imm s
  | .ori h d a imm => Sys2Proof.Machine.execOri h d a imm s
  | .xori h d a imm => Sys2Proof.Machine.execXori h d a imm s
  | .slli h d a sh => Sys2Proof.Machine.execSlli h d a sh s
  | .srli h d a sh => Sys2Proof.Machine.execSrli h d a sh s
  | .srai h d a sh => Sys2Proof.Machine.execSrai h d a sh s
  | .slti h d a imm => Sys2Proof.Machine.execSlti h d a imm s
  | .beq h d a off => Sys2Proof.Machine.execBeq h d a off s
  | .bne h d a off => Sys2Proof.Machine.execBne h d a off s
  | .blt h d a off => Sys2Proof.Machine.execBlt h d a off s
  | .bge h d a off => Sys2Proof.Machine.execBge h d a off s
  | .bltu h d a off => Sys2Proof.Machine.execBltu h d a off s
  | .bgeu h d a off => Sys2Proof.Machine.execBgeu h d a off s
  | .loop h n rot a len => Sys2Proof.Machine.execLoop h n rot a len s
  | .waitd h a imm => Sys2Proof.Machine.execWaitd h a imm s
  | .formld h f a => Sys2Proof.Machine.execFormld h f a s
  | .ldxo h d a off => Sys2Proof.Machine.execLdxo h d a off s
  | .stxo h d a off => Sys2Proof.Machine.execStxo h d a off s
  | .vbcasti h ty d imm => Sys2Proof.Machine.execVbcasti h ty d imm s
  | .li h d imm => Sys2Proof.Machine.execLi h d imm s
  | .lih h d imm => Sys2Proof.Machine.execLih h d imm s
  | .j h off => Sys2Proof.Machine.execJ h off s
  | .jal h d off => Sys2Proof.Machine.execJal h d off s
  | .waitt h d imm => Sys2Proof.Machine.execWaitt h d imm s
  | .lstrm h g q areg stride cnt => Sys2Proof.Machine.execLstrm h g q areg stride cnt s
  | .gathp h g q wreg preg => Sys2Proof.Machine.execGathp h g q wreg preg s
  | .sstrm h g q areg stride cnt => Sys2Proof.Machine.execSstrm h g q areg stride cnt s
  | .vtopk h g ty k vsrc xsrc vdst xdst => Sys2Proof.Machine.execVtopk h g ty k vsrc xsrc vdst xdst s
  | .mmaForm h g acc cnt bpair arow bty aty tb ta => Sys2Proof.Machine.execMmaForm h g acc cnt bpair arow bty aty tb ta s
  | .mreadForm h g rm acc greg bandB1 bandB0 bandA b ty td => Sys2Proof.Machine.execMreadForm h g rm acc greg bandB1 bandB0 bandA b ty td s
  | .dkeySplit h g ireg creg => Sys2Proof.Machine.execDkeySplit h g ireg creg s
  | .dkeySetCounter h g ireg creg => Sys2Proof.Machine.execDkeySetCounter h g ireg creg s
  | .copy h g dk sk sr ctx wreg wen wctr cen ctr nreg lreg dreg sreg => Sys2Proof.Machine.execCopy h g dk sk sr ctx wreg wen wctr cen ctr nreg lreg dreg sreg s
  | .coll h g scope root fanin count ty red pat wreg wen wctr ctr nreg lreg dreg sreg => Sys2Proof.Machine.execColl h g scope root fanin count ty red pat wreg wen wctr ctr nreg lreg dreg sreg s
  | .condStep a b => Sys2Proof.Machine.execCondStep a b s
  | .fence a b n => Sys2Proof.Machine.execFence a b n s
  | .signal c a => Sys2Proof.Machine.execSignal c a s
  | .launch d a b => Sys2Proof.Machine.execLaunch d a b s
  | .joinc d => Sys2Proof.Machine.execJoinc d s
  | .yieldp => Sys2Proof.Machine.execYieldp s
  | .hostn a code => Sys2Proof.Machine.execHostn a code s
  | .endConductor => Sys2Proof.Machine.execEndConductor s
  | .cntwConductor c a => Sys2Proof.Machine.execCntwConductor c a s
  | .cntsConductor c a => Sys2Proof.Machine.execCntsConductor c a s
  | .cntrConductor d c => Sys2Proof.Machine.execCntrConductor d c s
  | .tlbia d a => Sys2Proof.Machine.execTlbia d a s
  | .tlbiv d a b => Sys2Proof.Machine.execTlbiv d a b s
  | .pgret d a => Sys2Proof.Machine.execPgret d a s
  | .celr d a => Sys2Proof.Machine.execCelr d a s
  | .rmcmd d a => Sys2Proof.Machine.execRmcmd d a s
  | .place c => Sys2Proof.Machine.execPlace c s
  | .start c => Sys2Proof.Machine.execStart c s
  | .yieldCmd c => Sys2Proof.Machine.execYieldCmd c s
  | .freeze c => Sys2Proof.Machine.execFreeze c s
  | .resume c => Sys2Proof.Machine.execResume c s
  | .release c => Sys2Proof.Machine.execRelease c s
  | .zeroFillComplete rid => Sys2Proof.Machine.execZeroFillComplete rid s
  | .graphRunBegin rid => Sys2Proof.Machine.execGraphRunBegin rid s
  | .stepStaged rid => Sys2Proof.Machine.execStepStaged rid s
  | .stepRendezvous rid => Sys2Proof.Machine.execStepRendezvous rid s
  | .planeSwap rid => Sys2Proof.Machine.execPlaneSwap rid s
  | .resultWriteback rid => Sys2Proof.Machine.execResultWriteback rid s
  | .bankAccess rid => Sys2Proof.Machine.execBankAccess rid s
  | .queueAppend rid => Sys2Proof.Machine.execQueueAppend rid s
  | .runningFormStep rid => Sys2Proof.Machine.execRunningFormStep rid s
  | .mmaBlockAdd rid => Sys2Proof.Machine.execMmaBlockAdd rid s
  | .channelAccess rid => Sys2Proof.Machine.execChannelAccess rid s
  | .memoryResponse rid => Sys2Proof.Machine.execMemoryResponse rid s
  | .wordDeparture rid => Sys2Proof.Machine.execWordDeparture rid s
  | .wordDue rid => Sys2Proof.Machine.execWordDue rid s
  | .physicalArrival rid tile => Sys2Proof.Machine.execPhysicalArrival rid tile s
  | .linkHoldTimeout link => Sys2Proof.Machine.execLinkHoldTimeout link s
  | .waitEnd rid => Sys2Proof.Machine.execWaitEnd rid s
  | .tickBound rid => Sys2Proof.Machine.execTickBound rid s
  | .counterHoldEnd rid tile => Sys2Proof.Machine.execCounterHoldEnd rid tile s
  | .contextHoldEnd rid tile => Sys2Proof.Machine.execContextHoldEnd rid tile s
  | .cntsRelease rid => Sys2Proof.Machine.execCntsRelease rid s
  | .copyOpStart rid tile ctx => Sys2Proof.Machine.execCopyOpStart rid tile ctx s
  | .copyOpComplete rid tile ctx => Sys2Proof.Machine.execCopyOpComplete rid tile ctx s
  | .collOpStart rid scope peers => Sys2Proof.Machine.execCollOpStart rid scope peers s
  | .collOpComplete rid scope => Sys2Proof.Machine.execCollOpComplete rid scope s
  | .stepStop rid => Sys2Proof.Machine.execStepStop rid s
  | .stepReexecute rid => Sys2Proof.Machine.execStepReexecute rid s
  | .runRestart rid => Sys2Proof.Machine.execRunRestart rid s
  | .freezePoint rid => Sys2Proof.Machine.execFreezePoint rid s
  | .virgaDrainDone rid => Sys2Proof.Machine.execVirgaDrainDone rid s
  | .contextSave rid => Sys2Proof.Machine.execContextSave rid s
  | .resumeRestored rid => Sys2Proof.Machine.execResumeRestored rid s
  | .regionFreed rid => Sys2Proof.Machine.execRegionFreed rid s
  | .quarantineSweepDone die asid => Sys2Proof.Machine.execQuarantineSweepDone die asid s
  | .tenureBoundary => Sys2Proof.Machine.execTenureBoundary s
  | .tenureSample => Sys2Proof.Machine.execTenureSample s
  | .grantWordArrival rid frm cls => Sys2Proof.Machine.execGrantWordArrival rid frm cls s
  | .tenureYieldTimeout => Sys2Proof.Machine.execTenureYieldTimeout s
  | .boundaryBeatSend => Sys2Proof.Machine.execBoundaryBeatSend s
  | .boundaryBeatArrival b => Sys2Proof.Machine.execBoundaryBeatArrival b s
  | .boundaryBeatTimeout => Sys2Proof.Machine.execBoundaryBeatTimeout s
  | .firmamentBeatSend => Sys2Proof.Machine.execFirmamentBeatSend s
  | .firmamentBeatArrival peer value => Sys2Proof.Machine.execFirmamentBeatArrival peer value s
  | .ppsEdge sec => Sys2Proof.Machine.execPpsEdge sec s
  | .ppsSecondCount => Sys2Proof.Machine.execPpsSecondCount s
  | .linkTrainingDone link t => Sys2Proof.Machine.execLinkTrainingDone link t s
  | .linkLaneLoss link lanes => Sys2Proof.Machine.execLinkLaneLoss link lanes s
  | .hostTranslationResponse rid tile ctx pa => Sys2Proof.Machine.execHostTranslationResponse rid tile ctx pa s
  | .counterWindowWrite rid c v => Sys2Proof.Machine.execCounterWindowWrite rid c v s
  | .memoryWindowRead => Sys2Proof.Machine.execMemoryWindowRead s
  | .memoryWindowWrite => Sys2Proof.Machine.execMemoryWindowWrite s
  | .memoryWindowDone => Sys2Proof.Machine.execMemoryWindowDone s
  | .tableStoreWrite die off v => Sys2Proof.Machine.execTableStoreWrite die off v s
  | .vdRecordWrite rid v => Sys2Proof.Machine.execVdRecordWrite rid v s
  | .eventRingHeadWrite v => Sys2Proof.Machine.execEventRingHeadWrite v s
  | .eventPostResume => Sys2Proof.Machine.execEventPostResume s
  | .eventRingConfigWrite base v => Sys2Proof.Machine.execEventRingConfigWrite base v s
  | .bootFabric f => Sys2Proof.Machine.execBootFabric f s
  | .firmwareStagingWrite off data => Sys2Proof.Machine.execFirmwareStagingWrite off data s
  | .pcapWrite v => Sys2Proof.Machine.execPcapWrite v s
  | .attestationRequest v => Sys2Proof.Machine.execAttestationRequest v s
  | .celbaseWrite v => Sys2Proof.Machine.execCelbaseWrite v s
  | .registerWrite off v => Sys2Proof.Machine.execRegisterWrite off v s
  | .retirementCopyDone chan blk => Sys2Proof.Machine.execRetirementCopyDone chan blk s
  | .illegalInstruction cause => Sys2Proof.Machine.execIllegalInstruction cause s
  | .powerGood => Sys2Proof.Machine.execPowerGood s
  | .moduleReset => Sys2Proof.Machine.execModuleReset s
  | .bootRom => Sys2Proof.Machine.execBootRom s
  | .bootFw => Sys2Proof.Machine.execBootFw s
  | .bootReady => Sys2Proof.Machine.execBootReady s
  | .firmwareCommit => Sys2Proof.Machine.execFirmwareCommit s
  | .attestationDone => Sys2Proof.Machine.execAttestationDone s
  | .thermalTrip => Sys2Proof.Machine.execThermalTrip s
  | .ppsokClear => Sys2Proof.Machine.execPpsokClear s

end Sys2Proof.Machine
end

