-- ==== Sys2Proof/Machine/Seed.lean ====
section
/-! DEFINITION. A word laid where a sequencer fetches its next: in the plane of a running stream, or in the code of a graph in
device memory (05 R73; 11 R219; DEDUCED: log 23). -/

namespace Sys2Proof.Machine

/-- A step image of one tile with nothing in it. -/
def seedImg : Img :=
  { va := 0, param := 0, key := 0, len := 128, arch := 1, energy := 0, tregs := 16, freezen := 0, seam := {}, draws := 0,
    planes := [], forms := [], banks := [], nest := none, foot := [], circs := [], groups := [], carried := 0,
    anyCarried := false, fills := [], tlb := [] }

/-- A stream at PC 0 of a plane that holds one word; where the word has a stage guard, inside a LOOP whose iteration makes it
true. -/
def seedStream (k : SeqKind) (w : BitVec 32) : Stream :=
  let g := stageGuard k 0 w
  { st := .running, plane := tabSet 0 [] 0 w,
    loops := if g = 0 then [] else [⟨0, 4, 7, false, g.toNat, 1⟩] }

/-- A stream that has ended. -/
def seedEnded : Stream := { st := .ended }

/-- The tile whose stream `k` issues a word next. -/
def seedTile (k : SeqKind) (w : BitVec 32) : Tile :=
  ({ ld := seedEnded, ex := seedEnded, st := seedEnded, ct := seedEnded } : Tile).setStream k (seedStream k w)

/-- A running region of one tile that owns channel 0. -/
def seedRegion : Region :=
  { st := .running, holds := true, cs := [0], steps := 1, tiles := [{}] }

/-- The region of a step whose stream `k` issues a word next. -/
def seedStreamRegion (k : SeqKind) (w : BitVec 32) : Region :=
  { seedRegion with run := some { img := seedImg, epoch := 1 }, tiles := [seedTile k w] }

/-- The region of a graph run whose conductor issues the first word of its code. -/
def seedGraphRegion (service : Bool) : Region :=
  let g : Graph :=
    { va := BitVec.ofNat 64 (2 ^ 56), clen := 4, arch := 1, imgBase := BitVec.ofNat 64 (2 ^ 56), imgLen := 0, pbuf := 0, plen := 0,
      key := 0, ctr := 0, depth := 0, ord := 0, arg := 0, shared := false, pc := 64, s := [], nextOrd := 0, kids := [],
      joined := 0 }
  { seedRegion with service := service, graphs := [g], begun := true }

/-- The memory with a word at offset 64 of the space of ASID 0 in die 0: its root entry, a table entry, a leaf of 1 GiB, and the
word in channel 0 (16 R265 to R267). -/
def Mem.seed (m : Mem) (w : BitVec 32) : Mem :=
  let t := memWrite m.table 0 8 0x2001
  let t := memWrite t 0x2000 8 (2 ^ 62 + 4 * 16)
  { m with table := memWrite t 0x4000 8 (2 ^ 63 + 2 ^ 61), hbm := memWrite m.hbm 64 4 w.toNat }

/-- The state with a word where the sequencer of kind `k` of region 0 fetches its next. -/
def State.seed (s : State) (k : SeqKind) (w : BitVec 32) : State :=
  let s := { s with turns := [.region 0] }
  match k with
  | .conductor | .service =>
    let s := s.setRegion 0 (seedGraphRegion (k == .service))
    { s with mem := s.mem.seed w, time := { s.time with member := 0 }, ring := { s.ring with waiting := [] } }
  | k => s.setRegion 0 (seedStreamRegion k w)

end Sys2Proof.Machine
end

