-- ==== Sys2Proof/Machine/Step.lean ====
section
/-! DEFINITION. One step of the machine, and a word placed where the next step fetches it. -/

namespace Sys2Proof.Machine

/-- One step: what is selected executes. -/
def step (s : State) : Host.Outcome State Fault Refusal :=
  match s.select with
  | .idle s => .next s
  | .run s i => exec i s
  | .offer s i => offered s (exec i s)

/-- The state whose next step fetches and runs a word of the opcode table on the sequencer that its decoder names.
DEDUCED: log 23. -/
def State.withFetchWord (s : State) (nbits w : Nat) : State :=
  let v := BitVec.ofNat 32 (w % 2 ^ (min nbits 32))
  match tableDecode nbits w with
  | some (k, _) => s.seed k v
  | none => s.seed .ctl v

end Sys2Proof.Machine
end

