-- ==== Sys2Proof/Safety.lean ====
section
/-! DEFINITION. The words the statements are written in: when a word issues or an effect falls due, and the spec's tables of
results, branches and registers, each written from the rule it names. -/

namespace Sys2Proof

/-- An instruction of conductors alone (11 R222; 12 R230; 10 R208). -/
def Instr.condOnly : Instr → Bool
  | .condStep _ _ | .fence _ _ _ | .signal _ _ | .launch _ _ _ | .joinc _ | .yieldp | .hostn _ _ | .endConductor
  | .cntwConductor _ _ | .cntsConductor _ _ | .cntrConductor _ _ | .tlbia _ _ | .tlbiv _ _ _ | .pgret _ _ | .celr _ _
  | .rmcmd _ _ => true
  | _ => false

/-- An instruction that has a word and that streams issue (03 R46). -/
def Instr.isStreamWord (i : Instr) : Bool := (encode i).isSome && !i.condOnly

/-- The R-format codes that a sequencer kind accepts (03 R46). -/
def rAccepts (k : SeqKind) (n : Nat) : Bool :=
  n ≤ 0x19 || (0x1C ≤ n && n ≤ 0x1F) ||
    (match k with
     | .load => n ≤ 0x29
     | .exec => n ≤ 0x1B || (0x40 ≤ n && n ≤ 0x75)
     | .store => n ≤ 0x1B || (0x30 ≤ n && n ≤ 0x3A)
     | .ctl => n ≤ 0x1B || (0x78 ≤ n && n ≤ 0x7F)
     | .conductor => (0x20 ≤ n && n ≤ 0x26) || (0x78 ≤ n && n ≤ 0x7A)
     | .service => (0x20 ≤ n && n ≤ 0x26) || (0x78 ≤ n && n ≤ 0x7A) || (0x30 ≤ n && n ≤ 0x34))

/-- The I-format codes that a sequencer kind accepts (03 R46). -/
def iAccepts (k : SeqKind) (n : Nat) : Bool :=
  n ≤ 0x0D || (k.isStream && n ≤ 0x10) || (k == .load && n == 0x11) || (k == .store && n == 0x12) || (k == .exec && n == 0x13)

/-- The W-format codes that a sequencer kind accepts (03 R46). -/
def wAccepts (k : SeqKind) (n : Nat) : Bool := n ≤ 3 || (k.isStream && n == 4)

/-- Whether a word's OP is marked legal for a sequencer kind in the table of 03 R46; of a P word, whether the kind is a stream. -/
def opAccepts (k : SeqKind) (w : BitVec 32) : Bool :=
  match fClass w with
  | 0 => rAccepts k (rOp w).toNat
  | 1 => iAccepts k (iOp w).toNat
  | 2 => wAccepts k (wOp w).toNat
  | _ => k.isStream

/-- An instruction that issues a form (03 R36). -/
def Instr.isForm : Instr → Bool
  | .lstrm _ _ _ _ _ _ | .gathp _ _ _ _ _ | .sstrm _ _ _ _ _ _ | .vtopk _ _ _ _ _ _ _ _ | .mmaForm _ _ _ _ _ _ _ _ _ _
  | .mreadForm _ _ _ _ _ _ _ _ _ _ _ | .dkeySplit _ _ _ _ | .dkeySetCounter _ _ _ _
  | .copy _ _ _ _ _ _ _ _ _ _ _ _ _ _ _ | .coll _ _ _ _ _ _ _ _ _ _ _ _ _ _ _ _ _ => true
  | _ => false

/-- An instruction that takes an entry off a queue when it issues (06 R114). -/
def Instr.popsAtIssue : Instr → Bool
  | .vpop _ _ _ _ | .qdrop _ _ _ | .stq _ _ _ | .stt _ _ _ _ | .stm _ _ _ _ | .scat _ _ _ _ | .sstrm _ _ _ _ _ _
  | .sstop _ _ _ => true
  | _ => false

/-- An instruction that binds a counter or joins an operation when it issues (12 R231, R234; 13 R254). -/
def Instr.bindsAtIssue : Instr → Bool
  | .cnts _ _ _ | .copy _ _ _ _ _ _ _ _ _ _ _ _ _ _ _ | .coll _ _ _ _ _ _ _ _ _ _ _ _ _ _ _ _ _ => true
  | _ => false

/-- A draw instruction (04 R64). -/
def Instr.draws : Instr → Bool
  | .vdraw _ _ _ => true
  | .vcvt _ _ rm _ _ _ => rm == .sr
  | .mreadForm _ _ rm _ _ _ _ _ _ _ _ => rm == .sr
  | _ => false

end Sys2Proof

namespace Sys2Proof.Machine

/-! ## When a word issues -/

/-- The word of `i` issues on a stream in state `s`, as `c` sees it: it breaks no rule of decode in the running step, and its
stage predicate is true (03 R47, R48; 01 R15). -/
structure Issues (s : State) (c : Ctx) (i : Instr) : Prop where
  ctx : s.ctx = some c
  legal : c.cause i = none
  guard : c.guardOn = true

/-- The word of `i` issues on a conductor in state `s`, as `c` sees it (11 R219, R221). -/
structure CondIssues (s : State) (c : CCtx) (i : Instr) : Prop where
  ctx : s.cctx = some c
  legal : i.wf c.kind = true

/-- The state after a word that did `r` has issued; a DRIFT window of its tile that it breaks ends (20 R316). -/
def Ctx.after (c : Ctx) (r : Iss) : State := c.driftWatch (c.finish r)

/-- A byte offset that a stream's branch may go to (03 R42). -/
def inPlane (target : Int) : Bool := decide (0 ≤ target) && decide (target ≤ 16380) && decide (target % 4 = 0)

/-- The conductor's word is done: its graph goes on at the next word with the registers `s'` (11 R221). -/
def CCtx.ends (c : CCtx) (s : State) (regs : Regs) : State :=
  s.setRegion c.rid (c.r.setGraph { c.g with pc := c.g.pc + 4, s := regs })

/-- A stream of a tile in a state. -/
def State.streamAt (s : State) (rid tile : Nat) (k : SeqKind) : Option Stream :=
  ((s.region rid).tiles[tile]?).map (fun tl => tl.stream k)

/-- Of a region, nothing comes before the next item of its running step: no command, no event of its life, no conductor word, no
step on its way to the tiles, no hold that ends, no engine (the order of log 4). -/
structure OnlyStep (s : State) (rid : Nat) : Prop where
  cmds : s.canTake rid = false ∨ (s.region rid).cmdQ = []
  life : s.lifeNext rid = none
  cond : s.condNext rid = none
  staging : (s.region rid).staging = none
  staged : (s.region rid).canSwap = false
  holds : s.holdNext rid = none
  engines : s.engineNext rid = none

/-! ## What issuing leaves as it is -/

/-- Two streams with the same registers, forms, planes and state before a freeze. -/
structure SameStream (x y : Stream) : Prop where
  regs : y.s = x.s
  forms : y.forms = x.forms
  plane : y.plane = x.plane
  shadow : y.shadow = x.shadow
  was : y.was = x.was

/-- Two tiles that hold the same data: registers, forms and code of every stream, scratchpad bytes, sidebands and line flags,
bank formats and roles, tile registers, scale sets, masks, accumulators, saturation flags, draw key and draw identity. -/
structure SameTile (t u : Tile) : Prop where
  streams : ∀ k, SameStream (t.stream k) (u.stream k)
  tick : u.tick = t.tick
  spad : ∀ a, memGet u.spad a = memGet t.spad a
  side : ∀ a, memGet u.side a = memGet t.side a
  zflag : u.zflag = t.zflag
  wflag : u.wflag = t.wflag
  banks : ∀ b, u.bank b = t.bank b
  rows : ∀ r i, u.row r i = t.row r i
  sets : ∀ r i, u.set r i = t.set r i
  masks : ∀ p, u.pmask p = t.pmask p
  acc : ∀ m r, u.accRow m r = t.accRow m r
  sat : (u.sat0, u.sat1) = (t.sat0, t.sat1)
  key : u.key = t.key
  drawId : u.drawId = t.drawId
  virga : u.virga = t.virga
  soft : u.soft = t.soft

/-- Two memories that hold the same bytes: device memory, table stores and host memory, with the errors that stand in them and the
state of retirement. -/
structure SameBytes (m n : Mem) : Prop where
  hbm : ∀ a, memGet n.hbm a = memGet m.hbm a
  table : ∀ a, memGet n.table a = memGet m.table a
  host : ∀ a, memGet n.host a = memGet m.host a
  ecc : n.ecc = m.ecc
  retire : n.retire = m.retire
  withdrawn : n.withdrawn = m.withdrawn

/-! ## When an effect falls due -/

/-- Effect `e` of the running step of a region is what happens next, at its tick (01 R14; 05 R73). -/
structure Falls (s : State) (rid : Nat) (e : Eff) (u : Nat) : Prop where
  next : (s.region rid).pick = some (u, .eff e)
  tile : e.tile < (s.region rid).tiles.length

/-- The state at the tick of an effect that has left the list. -/
def fallen (s : State) (rid : Nat) (e : Eff) (u : Nat) : State :=
  s.setRegion rid (((s.region rid).advance u).modRun (fun run => { run with effs := run.effs.erase e }))

/-! ## Scalar results (05 R80, R82 to R86) -/

/-- Latency, register and value of a scalar result, from the registers as they are read at issue. -/
def scalarResult (rd : BitVec 4 → Word) (i : Instr) : Option (Nat × BitVec 4 × Word) :=
  match i with
  | .add _ d a b => some (1, d, rd a + rd b)
  | .sub _ d a b => some (1, d, rd a - rd b)
  | .and _ d a b => some (1, d, rd a &&& rd b)
  | .or _ d a b => some (1, d, rd a ||| rd b)
  | .xor _ d a b => some (1, d, rd a ^^^ rd b)
  | .sll _ d a b => some (1, d, rd a <<< ((rd b).toNat % 64))
  | .srl _ d a b => some (1, d, rd a >>> ((rd b).toNat % 64))
  | .sra _ d a b => some (1, d, (rd a).sshiftRight ((rd b).toNat % 64))
  | .mul _ d a b => some (3, d, rd a * rd b)
  | .mulh _ d a b => some (3, d, (((rd a).signExtend 128) * ((rd b).signExtend 128)).extractLsb' 64 64)
  | .mulhu _ d a b => some (3, d, (((rd a).zeroExtend 128) * ((rd b).zeroExtend 128)).extractLsb' 64 64)
  | .div _ d a b => some (20, d, if rd b = 0 then -1 else (rd a).sdiv (rd b))
  | .divu _ d a b => some (20, d, if rd b = 0 then -1 else rd a / rd b)
  | .rem _ d a b => some (20, d, if rd b = 0 then rd a else (rd a).srem (rd b))
  | .remu _ d a b => some (20, d, if rd b = 0 then rd a else rd a % rd b)
  | .min _ d a b => some (1, d, if (rd a).toInt ≤ (rd b).toInt then rd a else rd b)
  | .max _ d a b => some (1, d, if (rd a).toInt ≤ (rd b).toInt then rd b else rd a)
  | .minu _ d a b => some (1, d, if (rd a).toNat ≤ (rd b).toNat then rd a else rd b)
  | .maxu _ d a b => some (1, d, if (rd a).toNat ≤ (rd b).toNat then rd b else rd a)
  | .slt _ d a b => some (1, d, if (rd a).toInt < (rd b).toInt then 1 else 0)
  | .sltu _ d a b => some (1, d, if (rd a).toNat < (rd b).toNat then 1 else 0)
  | .sel _ d a b x => some (1, d, if rd x = 0 then rd b else rd a)
  | .clz _ d a => some (1, d, (rd a).clz)
  | .popc _ d a => some (1, d, (rd a).cpop)
  | .addi _ d a imm => some (1, d, rd a + imm.signExtend 64)
  | .andi _ d a imm => some (1, d, rd a &&& imm.signExtend 64)
  | .ori _ d a imm => some (1, d, rd a ||| imm.signExtend 64)
  | .xori _ d a imm => some (1, d, rd a ^^^ imm.signExtend 64)
  | .slli _ d a sh => some (1, d, rd a <<< sh.toNat)
  | .srli _ d a sh => some (1, d, rd a >>> sh.toNat)
  | .srai _ d a sh => some (1, d, (rd a).sshiftRight sh.toNat)
  | .slti _ d a imm => some (1, d, if (rd a).toInt < imm.toInt then 1 else 0)
  | .li _ d imm => some (1, d, imm.signExtend 64)
  | .lih _ d imm => some (1, d, rd d * 524288 + imm.zeroExtend 64)
  | _ => none

/-! ## Branches (05 R89, R90) -/

/-- Of a branch or jump at byte offset `pc`: whether it is taken, its target, and the register that takes PC + 4. -/
def branchOf (rd : BitVec 4 → Word) (pc : Nat) (i : Instr) : Option (Bool × Int × Option (BitVec 4)) :=
  match i with
  | .beq _ d a off => some (decide (rd d = rd a), pc + 4 * off.toInt, none)
  | .bne _ d a off => some (decide (rd d ≠ rd a), pc + 4 * off.toInt, none)
  | .blt _ d a off => some (decide ((rd d).toInt < (rd a).toInt), pc + 4 * off.toInt, none)
  | .bge _ d a off => some (decide ((rd a).toInt ≤ (rd d).toInt), pc + 4 * off.toInt, none)
  | .bltu _ d a off => some (decide ((rd d).toNat < (rd a).toNat), pc + 4 * off.toInt, none)
  | .bgeu _ d a off => some (decide ((rd a).toNat ≤ (rd d).toNat), pc + 4 * off.toInt, none)
  | .j _ off => some (true, pc + 4 * off.toInt, none)
  | .jal _ d off => some (true, pc + 4 * off.toInt, some d)
  | .jr _ a => some (true, ((rd a).toNat : Int), none)
  | _ => none

/-! ## Control registers (05 R78; 11 R221) -/

/-- A control register of a stream at the issue of `c`; every other number reads 0, and is refused at decode. -/
def streamCtrl (c : Ctx) (n : BitVec 8) : Word :=
  let innermost := c.x.loops.head?
  match n.toNat with
  | 0x00 => match c.k with
    | .load => 0
    | .exec => 1
    | .store => 2
    | .ctl => 3
    | .conductor | .service => 4
  | 0x01 => BitVec.ofNat 64 c.t
  | 0x02 => BitVec.ofNat 64 c.run.img.arch.toNat
  | 0x03 => match innermost with
    | none => 0
    | some l => BitVec.ofNat 64 ((if l.rot then 64 else 0) + 8 * (l.n % 8) + c.x.loops.length % 8)
  | 0x04 => match innermost with
    | none => 0
    | some l => BitVec.ofNat 64 l.m
  | 0x05 => BitVec.ofNat 64 c.tl.rotb
  | 0x06 => BitVec.ofNat 64 c.run.img.tregs
  | 0x07 => if c.tl.driftw then 1 else 0
  | 0x10 => c.tl.drawCtr
  | 0x11 => c.tl.drawId
  | _ => 0

/-- A control register of a conductor. -/
def graphCtrl (c : CCtx) (n : BitVec 8) : Word :=
  match n.toNat with
  | 0x00 => 4
  | 0x02 => BitVec.ofNat 64 c.g.arch.toNat
  | 0x20 => BitVec.ofNat 64 c.g.depth
  | 0x21 => BitVec.ofNat 64 c.g.ord
  | 0x22 => c.g.arg
  | 0x23 => c.g.pbuf
  | 0x24 => BitVec.ofNat 64 c.g.plen
  | 0x25 => BitVec.ofNat 64
      ((192 - c.r.poolShared) + (if c.g.depth < 8 then 8 - tabGet 0 c.r.poolRes (c.g.depth + 1) else 0))
  | _ => 0

/-! ## Outcomes of a word -/

/-- The outcome of a word that takes `occ` ticks and puts effects in flight. -/
def Ctx.puts (c : Ctx) (s : State) (occ : Nat) (es : List Eff) : Out := .next (c.after (.done (c.emit s es) occ))

/-- The outcome of a word that faults at its own PC. -/
def Ctx.faults (c : Ctx) (s : State) (cls : Nat) (addr : Word := 0) (aux : Word := 0) : Out :=
  .next (c.after (.stop s cls 0 addr aux))

/-! ## Scratchpad addresses (06 R103, R104, R108; 10 R186) -/

/-- A scratchpad access that a word names: the register's value, whether it must be local, its alignment, the bytes that lie in one
bank, and whether the word's other operands are in order. -/
structure Access where
  va : Word
  localOnly : Bool
  align : Nat
  n : Nat
  ok : Bool := true

/-- The access of a stream of tile `i` names offset `off` of tile `j`, `h` hops away, in a bank of the wanted role. -/
structure Names (r : Region) (sm : Seam) (i : Nat) (a : Access) (copy : Bool) (j off h : Nat) : Prop where
  ok : a.ok = true
  clean : a.va.toNat / 2 ^ 29 = 0
  offset : off = a.va.toNat % 2 ^ 21
  bounded : off < 0x180000
  east : -8 < (a.va.extractLsb' 21 4).toInt
  south : -8 < (a.va.extractLsb' 25 4).toInt
  hops : h = (a.va.extractLsb' 21 4).toInt.natAbs + (a.va.extractLsb' 25 4).toInt.natAbs
  near : h ≤ 7
  column : 0 ≤ ((i % r.w : Nat) : Int) + (a.va.extractLsb' 21 4).toInt ∧ ((i % r.w : Nat) : Int) + (a.va.extractLsb' 21 4).toInt < r.w
  row : 0 ≤ ((i / r.w : Nat) : Int) + (a.va.extractLsb' 25 4).toInt ∧ ((i / r.w : Nat) : Int) + (a.va.extractLsb' 25 4).toInt < r.h
  tile : (j : Int) =
    (((i / r.w : Nat) : Int) + (a.va.extractLsb' 25 4).toInt) * r.w + (((i % r.w : Nat) : Int) + (a.va.extractLsb' 21 4).toInt)
  here : a.localOnly = true → h = 0
  aligned : off % a.align = 0
  oneBank : off / 32768 = (off + (a.n - 1)) / 32768
  sameSide : sm.side (i % r.w) (i / r.w) = sm.side (j % r.w) (j / r.w)
  role : ∃ t, r.tiles[j]? = some t ∧ t.isCopy (off / 32768) = copy

/-- The access names bytes of a timed bank, from the tile of the word. -/
def Ctx.names (c : Ctx) (a : Access) (j off h : Nat) : Prop := Names c.r c.run.img.seam c.tile a false j off h

/-- The address of LDXO and STXO; where the upper half of the register is not zero it names nothing (06 R120). -/
def eightAt (v : Word) (off : BitVec 10) : Word :=
  if v.toNat < 2 ^ 32 then BitVec.ofNat 64 ((v.toNat + 8 * (off.signExtend 32).toNat) % 2 ^ 32) else v

/-- The block that LDT and STT touch: the stride a multiple of 64 from 64 to 2,048 (06 R117, R126). -/
def blockAccess (a b : Word) : Access :=
  ⟨a, true, 64, 15 * b.toNat + 64, decide (b.toNat % 64 = 0 ∧ 64 ≤ b.toNat ∧ b.toNat ≤ 2048)⟩

/-- The lines that LSTRM and SSTRM touch (06 R122, R128). -/
def runAccess (base : Word) (stride cnt : BitVec 16) (n : Nat) : List Access :=
  (List.range cnt.toNat).map (fun k => ⟨base + BitVec.ofInt 64 (64 * stride.toInt * k), false, 64, n, true⟩)

/-- The scratchpad accesses that a word checks when it issues, before any other check of its own. -/
def accesses (rd : BitVec 4 → Word) (i : Instr) : List Access :=
  match i with
  | .ldq _ _ a => [⟨rd a, false, 64, 512, true⟩]
  | .ldb _ _ a => [⟨rd a, false, 64, 64, true⟩]
  | .ldt _ _ a b => [blockAccess (rd a) (rd b)]
  | .ldg _ _ _ b => [⟨rd b, true, 64, 64, true⟩]
  | .ldx _ _ a => [⟨rd a, false, 8, 8, true⟩]
  | .ldxo _ _ a off => [⟨eightAt (rd a) off, false, 8, 8, true⟩]
  | .formld _ _ a => [⟨rd a, true, 16, 16, true⟩]
  | .gathp _ _ _ w p => [⟨rd w, true, 64, 1024, true⟩, ⟨rd p, true, 64, 256, true⟩]
  | .lstrm _ _ _ a st n => runAccess (rd a) st n 512
  | .stq _ _ a => [⟨rd a, false, 64, 64, true⟩]
  | .stt _ _ a b => [blockAccess (rd a) (rd b)]
  | .scat _ _ _ b => [⟨rd b, true, 64, 64, true⟩]
  | .stx _ _ a => [⟨rd a, false, 8, 8, true⟩]
  | .stxo _ _ a off => [⟨eightAt (rd a) off, false, 8, 8, true⟩]
  | .sstrm _ _ _ a st n => runAccess (rd a) st n 64
  | .recv _ _ a => [⟨rd a, true, 64, 64, true⟩]
  | _ => []

/-! ## Scratchpad bytes (06 R107, R109, R115, R126, R127) -/

/-- A payload byte of a tile, as a read sees it. -/
def Tile.byteAt (t : Tile) (a : Nat) : Byte := (t.line (a / 64)).1.extractLsb' (8 * (a % 64)) 8

/-- The bytes that a bank write stores: offset and length. -/
def BankWr.spans (w : BankWr) (t : Tile) : List (Nat × Nat) :=
  match w with
  | .stq off ent => [(off, (ent.stored (t.fmt (bankOf off))).n)]
  | .stt off stride _ => (List.range 16).map (fun k => (off + k * stride, 64))
  | .scat offs _ => offs.map (fun o => (o, 64))
  | .stx off _ => [(off, 8)]
  | .recv off _ => [(off, 64)]

/-- A byte lies outside a list of spans. -/
def outside (spans : List (Nat × Nat)) (a : Nat) : Prop := ∀ x ∈ spans, a < x.1 ∨ x.1 + x.2 ≤ a

/-! ## Device memory addresses (06 R131) -/

/-- An address that a stream's access to device memory may have. -/
structure Timed (s : State) (va : Word) (align : Nat) : Prop where
  half : va.getLsbD 56 = true
  clean : va.toNat / 2 ^ 57 = 0
  die : va.toNat / 2 ^ 49 % 128 / 2 = s.time.member
  aligned : va.toNat % align = 0

/-- No line of a list meets a range that was sealed when the step began (16 R277). -/
def Ctx.unsealed (c : Ctx) (lines : List Word) : Prop :=
  ∀ va ∈ lines, ∀ x ∈ c.run.sealed0, x.2.toNat = 0 ∨ va.toNat / 64 * 64 + 64 ≤ x.1.toNat ∨ x.1.toNat + x.2.toNat ≤ va.toNat / 64 * 64

/-! ## Vector words (07 R140, R141, R144 to R159) -/

/-- A vector word: its operation, latency, mask, destination and sources, and a scalar read at issue. A register that the word does
not name is its destination. -/
structure VecWord where
  op : VOp
  lat : Nat
  g : BitVec 3
  d : BitVec 4
  a : BitVec 4
  b : BitVec 4
  x : BitVec 4
  v : Word

/-- The vector words, with the latencies of 07 R140. -/
def vectorOf (rd : BitVec 4 → Word) (i : Instr) : Option VecWord :=
  match i with
  | .vadd h t d a b => some ⟨.add t, 4, h.g, d, a, b, d, 0⟩
  | .vsub h t d a b => some ⟨.sub t, 4, h.g, d, a, b, d, 0⟩
  | .vmul h t d a b => some ⟨.mul t, 4, h.g, d, a, b, d, 0⟩
  | .vfma h t d a b => some ⟨.fma t, 4, h.g, d, a, b, d, 0⟩
  | .vfms h t d a b => some ⟨.fms t, 4, h.g, d, a, b, d, 0⟩
  | .vmin h t d a b => some ⟨.min t, 4, h.g, d, a, b, d, 0⟩
  | .vmax h t d a b => some ⟨.max t, 4, h.g, d, a, b, d, 0⟩
  | .vabs h t d a => some ⟨.abs t, 4, h.g, d, a, d, d, 0⟩
  | .vneg h t d a => some ⟨.neg t, 4, h.g, d, a, d, d, 0⟩
  | .vand h t d a b => some ⟨.and t, 4, h.g, d, a, b, d, 0⟩
  | .vor h t d a b => some ⟨.or t, 4, h.g, d, a, b, d, 0⟩
  | .vxor h t d a b => some ⟨.xor t, 4, h.g, d, a, b, d, 0⟩
  | .vshl h t d a b => some ⟨.shl t, 4, h.g, d, a, b, d, 0⟩
  | .vshr h t d a b => some ⟨.shr t, 4, h.g, d, a, b, d, 0⟩
  | .vsra h t d a b => some ⟨.sra t, 4, h.g, d, a, b, d, 0⟩
  | .vcmp h cc t d b => some ⟨.cmp cc t, 4, h.g, d, d, b, d, 0⟩
  | .vselm h d a b x => some ⟨.selm, 4, h.g, d, a, b, x, 0⟩
  | .vcvt h up rm t d a => some ⟨.cvt up rm t, 4, h.g, d, a, d, d, 0⟩
  | .vmov h t d a => some ⟨.mov t, 4, h.g, d, a, d, d, 0⟩
  | .vbcast h t d a => some ⟨.bcast t, 4, h.g, d, d, d, d, rd a⟩
  | .vbcasti h t d imm => some ⟨.bcasti t, 4, h.g, d, d, d, d, imm.signExtend 64⟩
  | .vlane h t d a => some ⟨.lane t, 4, h.g, d, d, d, d, rd a⟩
  | .vrot h t d a b => some ⟨.rot t, 4, h.g, d, a, d, d, rd b⟩
  | .vaddw h t d a p => some ⟨.addw t p.toNat, 4, h.g, d, a, d, d, 0⟩
  | .vpopc h t d a => some ⟨.popc t, 4, h.g, d, a, d, d, 0⟩
  | .vclass h t d a => some ⟨.cls t, 4, h.g, d, a, d, d, 0⟩
  | .vrcp h t d a => some ⟨.rcp t, 8, h.g, d, a, d, d, 0⟩
  | .vsqrt h t d a => some ⟨.sqrt t, 8, h.g, d, a, d, d, 0⟩
  | .vrsq h t d a => some ⟨.rsq t, 8, h.g, d, a, d, d, 0⟩
  | .vexp h t d a => some ⟨.exp t, 12, h.g, d, a, d, d, 0⟩
  | .vlog h t d a => some ⟨.log t, 12, h.g, d, a, d, d, 0⟩
  | .vtanh h t d a => some ⟨.tanh t, 12, h.g, d, a, d, d, 0⟩
  | .vsig h t d a => some ⟨.sig t, 12, h.g, d, a, d, d, 0⟩
  | .vshuf h t d a b => some ⟨.shuf t, 6, h.g, d, a, b, d, 0⟩
  | .vmadw h t d a b => some ⟨.madw t, 6, h.g, d, a, b, d, 0⟩
  | .vscan h o t d a => some ⟨.scan o t, 8, h.g, d, a, d, d, 0⟩
  | .vred h o t d a => some ⟨.red o t, 10, h.g, d, a, d, d, 0⟩
  | .vtrn h t d a => some ⟨.trn t, 12, h.g, d, a, d, d, 0⟩
  | .vdraw h t d => some ⟨.draw t, 12, h.g, d, d, d, d, 0⟩
  | .vtopk _ g t k v x d y => some ⟨.topk t k.toNat, 20, g, d, v, x, y, 0⟩
  | _ => none

/-- The tile registers that the fields of an R or I word name (03 R40). -/
def wordNames (i : Instr) : List (BitVec 4) :=
  match i with
  | .vtopk _ _ _ _ _ _ _ _ => []
  | .vpush _ _ _ a _ | .pset _ _ _ a _ | .maddw _ _ a _ => [a]
  | .mma _ _ _ a b => [a, b]
  | .vpop _ d _ _ | .mread _ _ d _ _ | .mpush _ d _ _ => [d]
  | i =>
    match vectorOf (fun _ => 0) i with
    | some w => [w.d, w.a, w.b, w.x]
    | none => []

/-- The tile registers that a form names (03 R36; 07 R158; 08 R171, R173). -/
def formNames (i : Instr) : List (BitVec 4) :=
  match i with
  | .vtopk _ _ _ _ v x d y => [v, x, d, y]
  | .mmaForm _ _ _ _ _ _ _ _ tb ta => [tb, ta]
  | .mreadForm _ _ _ _ _ _ _ _ _ _ td => [td]
  | _ => []

/-- The operation transposes, and so reads every row at once (07 R141). -/
def VOp.isTrn : VOp → Bool
  | .trn _ => true
  | _ => false

/-- The operation selects, and so writes two registers (07 R159). -/
def VOp.isTopk : VOp → Bool
  | .topk _ _ => true
  | _ => false

/-- The operation reads indices at issue (07 R141, R156). -/
def VOp.isShuf : VOp → Bool
  | .shuf _ => true
  | _ => false

/-- The NaN that results hold (04 R50). -/
def canonNan (t : ETy) : Nat :=
  match t with
  | .f32 => 0x7FC00000
  | .bf16 => 0x7FC0
  | .f16 => 0x7E00
  | .e5m2 => 0x7E
  | .e4m3 => 0x7F
  | _ => 0

/-- The code of +∞, where the format has one (04 R49). -/
def infCode (t : ETy) : Option Nat :=
  match t with
  | .f32 => some 0x7F800000
  | .bf16 => some 0x7F80
  | .f16 => some 0x7C00
  | .e5m2 => some 0x7C
  | _ => none

/-- The class of a code: NaN, then the negative ones from −∞ up to −0, then the positive ones (07 R145). -/
def classOf (t : ETy) (code : Nat) : Nat :=
  let half := 2 ^ (t.width - 1)
  let neg := decide (half ≤ code)
  let mag := code % half
  let (normal, top) : Nat × Nat := match t with
    | .f32 => (0x00800000, 0x7F7FFFFF)
    | .bf16 => (0x0080, 0x7F7F)
    | .f16 => (0x0400, 0x7BFF)
    | .e5m2 => (0x04, 0x7B)
    | .e4m3 => (0x08, 0x7E)
    | _ => (0x02, 0x07)
  if mag = 0 then (if neg then 4 else 5)
  else if mag < normal then (if neg then 3 else 6)
  else if mag ≤ top then (if neg then 2 else 7)
  else if infCode t = some mag then (if neg then 1 else 8)
  else 0

/-- The lane that an operation gives from the lanes of its sources and its old destination, for the operations that go lane by lane on
codes of one type (07 R144, R145, R148); integers wrap modulo 2^w. -/
def laneOf (op : VOp) (a b d : Nat) : Option Nat :=
  let w := op.dstTy.width
  let sh := b % w
  match op with
  | .add t => some (if t.isFL then t.round .rne 0 ((t.val a).add (t.val b)) else (a + b) % 2 ^ w)
  | .sub t => some (if t.isFL then t.round .rne 0 ((t.val a).add (t.val b).neg) else (wrap w ((a : Int) - b)).toNat)
  | .mul t => some (if t.isFL then t.round .rne 0 ((t.val a).mul (t.val b)) else (a * b) % 2 ^ w)
  | .fma t => some (t.round .rne 0 (((t.val a).mul (t.val b)).add (t.val d)))
  | .fms t => some (t.round .rne 0 ((t.val d).add ((t.val a).mul (t.val b)).neg))
  | .abs t => some
      (if t.isFL then (if (t.val a).isNan then canonNan t else a % 2 ^ (w - 1))
       else if t.isSigned && decide (2 ^ (w - 1) ≤ a) then (2 ^ w - a) % 2 ^ w else a)
  | .neg t => some
      (if t.isFL then (if (t.val a).isNan then canonNan t else (a + 2 ^ (w - 1)) % 2 ^ w) else (2 ^ w - a) % 2 ^ w)
  | .min t => some
      (if t.isFL then
        (if (t.val a).isNan || (t.val b).isNan then canonNan t
         else if (t.val a).lt (t.val b) then a else if (t.val b).lt (t.val a) then b else a ||| b)
       else if t.isSigned then (wrap w (min (signed a w) (signed b w))).toNat else min a b)
  | .max t => some
      (if t.isFL then
        (if (t.val a).isNan || (t.val b).isNan then canonNan t
         else if (t.val a).lt (t.val b) then b else if (t.val b).lt (t.val a) then a else a &&& b)
       else if t.isSigned then (wrap w (max (signed a w) (signed b w))).toNat else max a b)
  | .cls t => if t.isFL || t.isScaled then some (classOf t a) else none
  | .and _ => some (a &&& b)
  | .or _ => some (a ||| b)
  | .xor _ => some (a ^^^ b)
  | .shl _ => some (a * 2 ^ sh % 2 ^ w)
  | .shr _ => some (a / 2 ^ sh)
  | .sra t => some (if t.isSigned then (wrap w (signed a w / (2 ^ sh : Nat))).toNat else a / 2 ^ sh)
  | .cmp cc t =>
    if t.isFL then
      let x := t.val d
      let y := t.val b
      let ord := !x.isNan && !y.isNan
      some (if (match cc with
        | .eq => ord && !x.lt y && !y.lt x
        | .ne => !ord || x.lt y || y.lt x
        | .lt => ord && x.lt y
        | .le => ord && !y.lt x
        | .gt => ord && y.lt x
        | .ge => ord && !x.lt y
        | .un => !ord
        | .ord => ord) then 2 ^ w - 1 else 0)
    else if !t.isIN then none
    else
      let x : Int := if t.isSigned then signed d w else d
      let y : Int := if t.isSigned then signed b w else b
      some (if (match cc with
        | .eq => decide (x = y)
        | .ne => decide (x ≠ y)
        | .lt => decide (x < y)
        | .le => decide (x ≤ y)
        | .gt => decide (y < x)
        | .ge => decide (y ≤ x)
        | .un => false
        | .ord => true) then 2 ^ w - 1 else 0)
  | .mov _ => some a
  | _ => none

/-- Two lanes of a reduction, either of which may be absent (04 R59). -/
def eitherLane (f : Nat → Nat → Nat) (a b : Option Nat) : Option Nat :=
  match a with
  | none => b
  | some x => match b with
    | none => some x
    | some y => some (f x y)

/-- The node of the fixed tree over the 2^k lanes from lane 2^k · i on (04 R59). -/
def treeNode (f : Nat → Nat → Nat) (v : Nat → Option Nat) : Nat → Nat → Option Nat
  | 0, i => v i
  | k + 1, i => eitherLane f (treeNode f v k (2 * i)) (treeNode f v k (2 * i + 1))

/-- The prefix up to lane j, from what the larger blocks gave: the blocks of the binary expansion of j + 1 with fewer than 2^k lanes, from lane 0
upward, the largest first (04 R59). -/
def prefixNode (f : Nat → Nat → Nat) (v : Nat → Option Nat) (j : Nat) : Nat → Option Nat → Option Nat
  | 0, larger => larger
  | k + 1, larger =>
    let m := (j + 1) / 2 ^ k
    prefixNode f v j k (if m % 2 = 1 then eitherLane f larger (treeNode f v k (m - 1)) else larger)

/-- The result over no lane at all (04 R59, R60). -/
def emptyResult (op : ScanOp) (t : ETy) : Nat :=
  let half := 2 ^ (t.width - 1)
  match op with
  | .add => 0
  | .max => match infCode t with
    | some c => half + c
    | none => if t.isSigned then half else 0
  | .min => match infCode t with
    | some c => c
    | none => if t.isSigned then half - 1 else 2 * half - 1

/-- The place of a code in the order of selections, the greatest first: NaN, +∞, finite values with +0 above −0, −∞; integers by value
(04 R61). -/
def rankOf (t : ETy) (c : Nat) : Int :=
  match t with
  | .f32 => if (t.val c).isNan then 2 ^ 32 else if c < 2 ^ 31 then c else 2 ^ 31 - 1 - c
  | .i32 => signed c 32
  | _ => c

/-- The narrow types with the wide types that they add into (07 R152). -/
def widenings : List (ETy × ETy) :=
  [(.u8, .u32), (.i8, .i32), (.i16, .i32), (.i32, .i64), (.bf16, .f32), (.f16, .f32), (.f32, .w96)]

/-- The seven functions: the special inputs with their results (04 R58). -/
def specialOf (op : VOp) (v : Val) : Option Val :=
  let one : Val := .fin false 1 0
  match op, v with
  | .rcp _, .fin s 0 _ => some (.inf s)
  | .rcp _, .inf s => some (.fin s 0 0)
  | .sqrt _, .fin s 0 _ => some (.fin s 0 0)
  | .sqrt _, .inf s => some (if s then .nan else .inf false)
  | .sqrt _, .fin true _ _ => some .nan
  | .rsq _, .fin s 0 _ => some (.inf s)
  | .rsq _, .inf s => some (if s then .nan else .fin false 0 0)
  | .rsq _, .fin true _ _ => some .nan
  | .exp _, .fin _ 0 _ => some one
  | .exp _, .inf s => some (if s then .fin false 0 0 else .inf false)
  | .log _, .fin _ 0 _ => some (.inf true)
  | .log _, .inf s => some (if s then .nan else .inf false)
  | .log _, .fin true _ _ => some .nan
  | .log _, .fin false n e => if Val.at false n e (min e 0) = Val.at false 1 0 (min e 0) then some (.fin false 0 0) else none
  | .tanh _, .fin s 0 _ => some (.fin s 0 0)
  | .tanh _, .inf s => some (.fin s 1 0)
  | .sig _, .fin _ 0 _ => some (.fin false 1 (-1))
  | .sig _, .inf s => some (if s then .fin false 0 0 else one)
  | _, .nan => some .nan
  | _, _ => none

/-! ## What engines write (12 R236; 13 R255, R256) -/

/-- Byte `a` of device memory belongs to a line of a range, where the running step's translation places it for a tile. -/
def State.deviceByte (s : State) (rid tile : Nat) (v : Word) (n a : Nat) : Prop :=
  ∃ run e va, (s.region rid).run = some run ∧ va ∈ devLines (.va v) n ∧ tlbFind run.img.tlb va = some e ∧
    (s.region rid).keyThrough e tile va ≤ a ∧ a < (s.region rid).keyThrough e tile va + 64

/-- Byte `a` of host memory belongs to a line of a host range, by the host's answers for its pages. -/
def hostByte (v : Word) (pages : List Word) (n a : Nat) : Prop :=
  v.getLsbD 56 = false ∧ ∃ i x, 64 * i < n ∧ hostAt v pages (64 * i) = some x ∧ x ≤ a ∧ a < x + 64

/-- From `s` to `t` nothing was written but `n` bytes at a place, with the lines' errors and flags: every other byte of memory, every
other line of every tile and every other region is as it was. -/
structure WritesAt (s t : State) (rid tile : Nat) (l : Loc) (n : Nat) (pages : List Word) : Prop where
  device : ∀ a, (∀ v, l = .va v → ¬ s.deviceByte rid tile v n a) → memGet t.mem.hbm a = memGet s.mem.hbm a
  host : ∀ a, (∀ v, l = .va v → ¬ hostByte v pages n a) → memGet t.mem.host a = memGet s.mem.host a
  mem : t.mem = { s.mem with hbm := t.mem.hbm, host := t.mem.host, ecc := t.mem.ecc }
  tiles : ∀ i u, (s.region rid).tiles[i]? = some u → ∃ u', (t.region rid).tiles[i]? = some u' ∧
    (∀ x, (∀ off, l = .spad i off → x < off / 64 ∨ off / 64 + (n + 63) / 64 ≤ x) → u'.line x = u.line x) ∧
    u' = { u with spad := u'.spad, side := u'.side, zflag := u'.zflag, wflag := u'.wflag, soft := u'.soft }
  others : ∀ x, x ≠ rid → t.region x = s.region x

/-- The destination of a copy has the length that its formats give: between banks of two element formats as many elements as the source,
otherwise as many bytes (12 R236). -/
def CopyOp.sized (o : CopyOp) (r : Region) : Prop :=
  o.len % 64 = 0 ∧
  match o.src, o.dst with
  | .spad i p, .spad j q => ∀ u t, r.tiles[i]? = some u → r.tiles[j]? = some t →
      o.dlen = (match fmtTy (u.fmt (p / 32768)), fmtTy (t.fmt (q / 32768)) with
        | some a, some b => 8 * o.len / a.width * b.width / 8
        | _, _ => o.len)
  | _, _ => o.dlen = o.len

/-- The tree of 13 R256 over the ranks' values of one element: nodes of `fanin` inputs, left to right, at most `fuel` levels. -/
def rankTree {α : Type} [Inhabited α] (comb : α → α → α) (fanin : Nat) : Nat → List α → α
  | 0, v => v.headD default
  | fuel + 1, v =>
    if v.length ≤ 1 then v.headD default
    else
      let n := if fanin = 0 ∨ v.length < fanin then v.length else fanin
      rankTree comb fanin fuel ((List.range ((v.length + n - 1) / n)).map (fun j =>
        match (v.drop (j * n)).take n with
        | [] => default
        | x :: xs => xs.foldl comb x))

/-! ## Canonical form (DESIGN CHOICE: log 5) -/

/-- Every memory and table of a tile is in canonical form. -/
structure CanonicalTile (t : Tile) : Prop where
  spad : Memory.wf t.spad = true
  side : Memory.wf t.side = true
  regs : ∀ k, tabWf 0 (t.stream k).s = true
  queues : tabWf [] t.queues = true
  rows : tabWf 0 t.rows = true
  sets : tabWf 0 t.sets = true
  acc : tabWf 0 t.acc = true
  banks : tabWf 0x0F t.banks = true

/-- The runs of conductors that a region holds: its own, and those that a yield or a restart keeps. -/
def Region.runsHeld (r : Region) : List Graph :=
  r.graphs ++ (r.kept.toList ++ r.restart.toList).flatMap (·.graphs)

/-- The images of steps that a region holds. -/
def Region.imagesHeld (r : Region) : List Img :=
  r.staging.toList ++ r.staged.toList ++ (r.run.map (·.img)).toList ++ (r.mark.map (·.run.img)).toList

/-- The tiles of a region, and those that its running step may go back to. -/
def Region.tilesHeld (r : Region) : List Tile := r.tiles ++ (r.mark.map (·.tiles)).getD []

/-- The tables of a region are in canonical form, and a freeze point of each of its steps is declared. -/
structure CanonicalRegion (r : Region) : Prop where
  ctrs : tabWf {} r.ctrs = true
  tiles : ∀ t ∈ r.tilesHeld, CanonicalTile t
  runs : ∀ g ∈ r.runsHeld, tabWf 0 g.s = true
  images : ∀ img ∈ r.imagesHeld, tabWf 0x0F img.banks = true ∧ 0 < img.freezen

/-- Every memory of the machine, and every table that a statement reads, is in canonical form; the images of flash that the world outside
holds ready are too. -/
structure CanonicalState (s : State) : Prop where
  hbm : Memory.wf s.mem.hbm = true
  table : Memory.wf s.mem.table = true
  host : Memory.wf s.mem.host = true
  flash0 : Memory.wf s.boot.flash0 = true
  flash1 : Memory.wf s.boot.flash1 = true
  store : tabWf 0 s.mem.store = true
  stamps : tabWf 0 s.mem.stamps = true
  asids : tabWf .free s.asids = true
  table' : tabWf {} s.regions = true
  regions : ∀ x ∈ s.regions, CanonicalRegion x.2
  outside : ∀ slot img, Turn.env (.flash slot img) ∈ s.turns → Memory.wf img = true

end Sys2Proof.Machine
end

