-- ==== Sys2Proof/Certificates/Slice0/Obligations.lean ====
section
/-! DEFINITION. The statements about the model, by the rules of the spec. -/

open Sys2Proof Sys2Proof.Machine


/-! ## Encoding -/

/-- Every well-formed instruction that has a word is what its word and its patched form decode to (03 R30 to R46). -/
def Obligations.DecodeEncode : Prop :=
  ∀ (k : SeqKind) (i : Instr) (w : BitVec 32),
    i.wf k = true → patchOk i = true → encode i = some w → decode k (encodeForm i) w = .ok i

/-- What decodes is well formed, its word is the encoding of the instruction, and of a form the patched form is too: no bit of a
word or of a patched form is left unread (03 R30 to R47; 00 R8). -/
def Obligations.DecodeSound : Prop :=
  ∀ (k : SeqKind) (form : BitVec 128) (w : BitVec 32) (i : Instr),
    decode k form w = .ok i →
      i.wf k = true ∧ encode i = some w ∧ (i.isForm = true → encodeForm i = patchForm form (pFld w) (pVal w))

/-- A sequencer accepts only what the table of 03 R46 marks legal for it, and a P word only with a form whose opcode is legal on its stream (03 R38). An OP
that the table does not mark legal is illegal there: cause 2 where another kind accepts it, cause 1 where none does; a P word on a conductor is
illegal with cause 2 (03 R46, R47). -/
def Obligations.ReservedCodes : Prop :=
  ∀ (k : SeqKind) (form : BitVec 128) (w : BitVec 32),
    (∀ i, decode k form w = .ok i → opAccepts k w = true ∧ (fClass w = 3 →
      match (form.extractLsb' 120 8).toNat with
      | 1 | 9 => k = .load
      | 2 => k = .store
      | 3 | 4 | 7 => k = .exec
      | 5 | 6 | 8 => k = .ctl
      | _ => False)) ∧
    (opAccepts k w = false →
      ((∃ k', opAccepts k' w = true) → decode k form w = .error 2) ∧
      ((∀ k', opAccepts k' w = false) → decode k form w = .error 1))

/-- Words of every format, laid out by hand from the layouts of 03 R31 and each instruction's code, decode to the instruction that
they stand for, on the sequencers that have it (the two P words and the MUL word stand in 03). -/
def Obligations.DecodeWords : Prop :=
  decode .load 0 0x0000_0000 = .ok (.nop ⟨0, false, 0⟩) ∧
  decode .ctl 0 0x1048_9770 = .ok (.mul ⟨0, true, 0⟩ 9 7 7) ∧
  decode .exec 0 0x2568_2405 = .ok (.bge ⟨1, false, 2⟩ 0 9 5) ∧
  decode .store 0 0x0840_0003 = .ok (.li ⟨0, false⟩ 8 3) ∧
  decode .load 0 0x0100_1300 = .ok (.ldq ⟨0, false, 0⟩ 1 3) ∧
  decode .conductor 0 0x0100_0120 = .ok (.condStep 1 2) ∧
  decode .exec 0 0x0100_1300 = .error 2 ∧
  decode .load 0x0100_0000_0000_0000_0000_0004_0010_0007 0x0C7F_0000 = .ok (.lstrm ⟨0, false, 7, 15, 0⟩ 0 0 7 16 4) ∧
  decode .load 0x0100_0000_0000_0000_0000_0004_0010_0007 0x0C71_0040 = .ok (.lstrm ⟨0, false, 7, 1, 0x40⟩ 0 0 7 0x40 4)


/-! ## A step -/

/-- A step runs the decoded instruction. When a stream's next word is what a region does next and its bytes decode to `i`, a step executes `i` there, the region's tiles
at the word's tick; bytes that are no instruction, and a PC past the plane, execute ILLEGAL_INSTRUCTION. When a conductor's word can issue and its bytes, read
through the region's address space, decode to `i`, a step executes `i` there. When an effect of a running step is what a region does next, a step executes the event that
the effect belongs to; an instruction that the outside offers is executed, and where its event is not due nothing changes (03 R30, R47; 05 R73;
10 R208; 11 R219, R221; log 4).
Which event is next where no rule says so, that an undue offer changes nothing, and that what came too late beside a held tile has gone back before the step
are the model's choice (log 4, 30, 31). -/
def Obligations.StepRuns : Prop :=
  (∀ (s : State) (rid : Nat) (ts : List Turn) (u tile : Nat) (k : SeqKind) (tl : Tile),
     let p := s.prepared
     p.turns = .region rid :: ts → OnlyStep { p with turns := ts } rid →
     (p.region rid).pick = some (u, .issue tile k) → (p.region rid).tiles[tile]? = some tl →
     let x := tl.stream k
     let t (i : Instr) : State :=
       { ({ p with turns := ts }.setRegion rid ((p.region rid).advance u)).noteWord rid u tile k i with cur := .stream rid tile k }
     let form := tabGet 0 x.forms (pForm (x.wordAt x.pc)).toNat
     let q := (stageGuard k form (x.wordAt x.pc)).toNat
     let outer := q ≠ 0 ∧ ∀ l, x.loops.head? = some l → l.n < q
     (∀ i, x.pc ≤ 16380 → decode k form (x.wordAt x.pc) = .ok i → step s = exec i (t i)) ∧
     (∀ n, x.pc ≤ 16380 → decode k form (x.wordAt x.pc) = .error n → (n ≤ 6 ∨ ¬ outer) →
       step s = exec (.illegalInstruction (BitVec.ofNat 4 n)) (t (.illegalInstruction (BitVec.ofNat 4 n)))) ∧
     (∀ n, x.pc ≤ 16380 → decode k form (x.wordAt x.pc) = .error n → 6 < n → outer →
       step s = exec (.illegalInstruction 6) (t (.illegalInstruction 6))) ∧
     (16380 < x.pc → step s = exec (.illegalInstruction 9) (t (.illegalInstruction 9)))) ∧
  (∀ (s : State) (rid : Nat) (ts : List Turn) (g : Graph) (gs : List Graph) (v : Nat) (i : Instr),
     let p := s.prepared
     p.turns = .region rid :: ts →
     let t : State := { p with turns := ts }
     let r := t.region rid
     let k : SeqKind := if r.service then .service else .conductor
     let w : BitVec 32 := BitVec.ofNat 32 v
     (t.canTake rid = false ∨ r.cmdQ = []) →
     t.lifeNext rid = none → r.graphs = g :: gs → r.active = true → r.begun = true → r.staging = none → r.runFaulted = false →
     t.condBlocked rid = false → (Instr.looks i = true → t.restless rid = false) →
     t.waiting rid = false → g.pc < 64 + g.clen → t.readVa rid (g.va + BitVec.ofNat 64 g.pc) 4 = some v →
     decode k 0 w = .ok i → (CCtx.mk rid r g w).ready t i = true →
     step s = exec i { t with cur := .conductor rid w }) ∧
  ((∀ (s : State) (rid : Nat) (ts : List Turn) (u : Nat) (e : Eff),
     let p := s.prepared
     p.turns = .region rid :: ts → OnlyStep { p with turns := ts } rid → (p.region rid).pick = some (u, .eff e) →
     step s = exec (e.act.event rid) { p with turns := ts, cur := .none }) ∧
   (∀ (s : State) (ts : List Turn) (i : Instr) (t : State),
     let p := s.prepared
     p.turns = .ext i :: ts → exec i { p with turns := ts, cur := .none } = .next t → step s = .next t) ∧
   (∀ (s : State) (ts : List Turn) (i : Instr),
     let p := s.prepared
     p.turns = .ext i :: ts → exec i { p with turns := ts, cur := .none } = .fault .notDue →
     step s = .next { p with turns := ts, cur := .none }) ∧
   (∀ (s : State), (∀ x ∈ s.regions, x.2.mark = none) → s.mem.ecc = [] → s.prepared = s))


/-! ## Issuing a word of a stream -/

/-- A word whose stage guard is false takes its issue tick and its occupancy and nothing else: 4 ticks for MREAD, its form, MADDW and
MPUSH, 2 for LOOP, whose body is skipped, 1 for every other word. A decoded word that breaks a rule of the running step, guard true or not, is an
illegal instruction with the lowest cause among the rules it breaks, and does nothing else: 5 where a field of the word names a tile register that the step did
not declare, or a LOOP rotates with fewer than sixteen; 6 where its stage guard stands outside every LOOP or above the innermost one's stage count; 8 where its
form names an undeclared tile register; 9 where a LOOP's body ends past the plane (01 R15; 03 R33, R40, R47, R48; 05 R92, R93). -/
def Obligations.IssueGuards : Prop :=
  (∀ (s : State) (c : Ctx) (i : Instr), i.isStreamWord = true → s.ctx = some c → c.cause i = none → c.guardOn = false →
     exec i s = .next (c.after (match i with
       | .loop _ _ _ _ len => .loop s none len.toNat
       | .mread _ _ _ _ _ | .mreadForm _ _ _ _ _ _ _ _ _ _ _ | .maddw _ _ _ _ | .mpush _ _ _ _ => .done s 4
       | _ => .done s 1))) ∧
  (∀ (s : State) (c : Ctx) (i : Instr) (n : Nat), i.isStreamWord = true → s.ctx = some c → c.cause i = some n →
     exec i s = .next (c.finish (.stop s 1 n 0 0))) ∧
  (∀ (c : Ctx) (i : Instr), i.wf c.k = true →
     let lacks (r : BitVec 4) : Prop := c.run.img.tregs ≤ r.toNat
     let q := (stageGuard c.k (tabGet 0 c.x.forms (pForm c.word).toNat) c.word).toNat
     let five := (∃ r ∈ wordNames i, lacks r) ∨ (c.run.img.tregs < 16 ∧ ∃ h n a len, i = .loop h n true a len)
     let six := q ≠ 0 ∧ ∀ l, c.x.loops.head? = some l → l.n < q
     let eight := ∃ r ∈ formNames i, lacks r
     let nine := ∃ h n rot a len, i = .loop h n rot a len ∧ 16380 < c.pc + 4 * len.toNat
     (five → c.cause i = some 5) ∧ (¬ five → six → c.cause i = some 6) ∧ (¬ five → ¬ six → eight → c.cause i = some 8) ∧
     (¬ five → ¬ six → ¬ eight → nine → c.cause i = some 9) ∧ (¬ five → ¬ six → ¬ eight → ¬ nine → c.cause i = none))

/-- What issuing a word leaves as it is, for every word of a stream whose exec gives a next state: every byte of every memory, every
other region but for its name in a counter, every tile's data, the step's image and the conductor. Queues lose entries only by the
words that pop; draw counters change only by draw instructions; counters, stamps and engine records only by CNTS, COPY and COLL
(01 R14, R15; 06 R114; 04 R64; 12 R231). -/
def Obligations.IssueFrame : Prop :=
  ∀ (s t : State) (c : Ctx) (i : Instr), i.isStreamWord = true → s.ctx = some c → exec i s = .next t →
    (∀ rid, rid ≠ c.rid → t.region rid = s.region rid) ∧
    SameBytes s.mem t.mem ∧
    (t.region c.rid).tiles.length = (s.region c.rid).tiles.length ∧
    (∀ (j : Nat) (a b : Tile), (s.region c.rid).tiles[j]? = some a → (t.region c.rid).tiles[j]? = some b →
      SameTile a b ∧
      (i.draws = false → b.drawCtr = a.drawCtr) ∧
      (i.popsAtIssue = false → ∀ q, b.queue q = a.queue q) ∧
      (j ≠ c.tile → ∀ q, b.queue q = a.queue q)) ∧
    (i.bindsAtIssue = false → t.mem = s.mem ∧ (t.region c.rid).ctrs = (s.region c.rid).ctrs ∧
      (t.region c.rid).colls = (s.region c.rid).colls) ∧
    (t.region c.rid).graphs = (s.region c.rid).graphs ∧ (t.region c.rid).seals = (s.region c.rid).seals ∧
    (t.region c.rid).st = (s.region c.rid).st ∧
    ((t.region c.rid).run.map (·.img)) = (s.region c.rid).run.map (·.img) ∧
    t.time = s.time ∧ t.links = s.links ∧ t.ring = s.ring ∧ t.cel = s.cel ∧ t.boot = s.boot ∧ t.power = s.power

/-- After a word of occupancy `occ` that issued at tick T, a running stream goes on at the next word in program order, which issues at
T + occ + its IDLE, or overruns at tick 524,288: PC + 4, or at the last word of the innermost LOOP's body its first word in the next
of T + n − 1 kernel iterations, and then the word after the body; a rotating LOOP advances the rotation base each time. Nothing else
of the state changes (01 R13, R16; 05 R72, R93, R95). -/
def Obligations.NextWord : Prop :=
  ∀ (c : Ctx) (t : State) (occ : Nat) (tl : Tile), c.k.isStream = true → 1 ≤ occ →
    (t.region c.rid).tiles[c.tile]? = some tl → (tl.stream c.k).st = .running →
    let x := tl.stream c.k
    ∃ (y : Stream) (rotb : Nat),
      c.finish (.done t occ) =
        t.setRegion c.rid ((t.region c.rid).setTile c.tile { tl.setStream c.k y with rotb := rotb }) ∧
      y = { x with pc := y.pc, base := c.t + occ, loops := y.loops, lastPc := x.pc, lastTick := some c.t } ∧
      (match x.loops with
       | [] => y.pc = c.pc + 4 ∧ y.loops = [] ∧ rotb = tl.rotb
       | l :: ls =>
         if c.pc = l.last then
           (if l.m < l.trips + l.n - 1 then y.pc = l.first ∧ y.loops = { l with m := l.m + 1 } :: ls
            else y.pc = c.pc + 4 ∧ y.loops = ls) ∧
           rotb = (if l.rot then (tl.rotb + 1) % 8 else tl.rotb)
         else y.pc = c.pc + 4 ∧ y.loops = x.loops ∧ rotb = tl.rotb) ∧
      (y.pc ≤ 16380 →
        y.nextItem c.tile c.k =
          if c.t + occ + (fIdle (y.wordAt y.pc)).toNat < 524288 then
            some (c.t + occ + (fIdle (y.wordAt y.pc)).toNat, 5, .issue c.tile c.k)
          else some (524288, 5, .bound c.tile c.k))

/-- In kernel iteration m of a LOOP with stage count n and trip T, stage predicate qi is true exactly when i ≤ m ≤ i + T − 1, of the innermost LOOP that is
active; a word without a stage guard is always true. A LOOP with T ≥ 1 begins at kernel iteration 1; where its last word issues the next one begins
while m is below T + n − 1, and else the LOOP leaves and the outer one is the innermost (05 R94; 03 R32). -/
def Obligations.StagePredicate : Prop :=
  (∀ (c : Ctx) (l : Loop) (ls : List Loop), c.x.loops = l :: ls →
    let i := (stageGuard c.k (tabGet 0 c.x.forms (pForm c.word).toNat) c.word).toNat
    c.guardOn = decide (i = 0 ∨ (i ≤ l.m ∧ l.m + 1 ≤ i + l.trips))) ∧
  (∀ (c : Ctx) (t : State) (w : Iss) (tl : Tile) (l : Loop) (ls : List Loop), c.k.isStream = true →
    ((∃ occ, w = .done t occ) ∨ (∃ base, w = .wait t base)) → (t.region c.rid).tiles[c.tile]? = some tl →
    (tl.stream c.k).st = .running → (tl.stream c.k).loops = l :: ls →
    ∃ u, ((c.finish w).region c.rid).tiles[c.tile]? = some u ∧ (u.stream c.k).loops =
      (if c.pc ≠ l.last then l :: ls else if l.m < l.trips + l.n - 1 then { l with m := l.m + 1 } :: ls else ls)) ∧
  (∀ (s : State) (c : Ctx) (h : Head) (n : BitVec 3) (rot : Bool) (a : BitVec 4) (len : BitVec 10) (tl : Tile),
    Issues s c (.loop h n rot a len) → c.x.loops.length < 4 → (∀ l ls, c.x.loops = l :: ls → c.pc + 4 * len.toNat < l.last) →
    c.k.isStream = true → (s.region c.rid).tiles[c.tile]? = some tl → c.x.st = .running → c.rd a ≠ 0 →
    ∃ t u, exec (.loop h n rot a len) s = .next t ∧ (t.region c.rid).tiles[c.tile]? = some u ∧
      ∃ l, (u.stream c.k).loops = l :: c.x.loops ∧ l.m = 1 ∧ l.n = n.toNat ∧ l.trips = (c.rd a).toNat)

/-- A fault of a stream: it is recorded with its tick, class, cause, PC and word; the stream is FAULTED with its PC where it was, one that has ENDED too; the
step stops 256 ticks later or where an earlier fault said; of its own effects those of the faulting word and later ones that are due
after the fault are cancelled, every other effect stands. What a cancelled word still has: a word on its way on a circuit, and an effect due at the tick or
before it, of which a bank read takes place and lands nothing, an LSTRM's part is gone and an SSTRM's part pops and goes no further (log 18). At the stop tick or later nothing more is raised, and a word that stops changes
nothing but by its fault (21 R319; 03 R47; 06 R102). -/
def Obligations.StreamFault : Prop :=
  (∀ (r : Region) (run : Run) (f : FaultRec) (k : SeqKind) (tl : Tile),
     r.run = some run → streamKinds[f.seq]? = some k → r.tiles[f.tile]? = some tl →
     (∀ st, run.stop = some st → f.tick < st) →
     r.raise f = { r with
       run := some { run with
         effs := run.effs.filterMap (fun e =>
           if e.org.tile = f.tile ∧ e.org.k = k ∧ f.issue ≤ e.org.issue then e.cancelAfter f.tick else some e),
         faults := run.faults ++ [f],
         stop := some (match run.stop with
           | some st => min st (f.tick + 256)
           | none => f.tick + 256) },
       tiles := r.tiles.set f.tile (tl.setStream k { tl.stream k with st := .faulted }) }) ∧
  (∀ (e : Eff) (t : Nat),
     (t < e.due → (∀ n line own, e.act ≠ .word n line own) → (∀ q, e.act ≠ .trim q) → e.cancelAfter t = none) ∧
     (t < e.due → ((∃ n line own, e.act = .word n line own) ∨ ∃ q, e.act = .trim q) → e.cancelAfter t = some e) ∧
     (e.due ≤ t → match e.act with
       | .bankRd b _ => e.cancelAfter t = some { e with act := .bankRd b true }
       | .lstrm _ _ _ _ _ => e.cancelAfter t = none
       | .sstrm q a st k _ => e.cancelAfter t = some { e with act := .sstrm q a st k 0 }
       | _ => e.cancelAfter t = some e)) ∧
  ((∀ (r : Region) (run : Run) (f : FaultRec) (st : Nat),
     r.run = some run → run.stop = some st → st ≤ f.tick → r.raise f = r) ∧
   (∀ (c : Ctx) (s : State) (cls cause : Nat) (addr aux : Word) (setidx : Nat),
     c.finish (.stop s cls cause addr aux setidx) = s.setRegion c.rid ((s.region c.rid).raise
       ⟨c.t, c.tile, c.k.num, c.t, cls, cause, c.pc, c.word, addr, aux, setidx⟩)))


/-! ## Scalars -/

/-- The scalar instructions of a stream that issue at T, their operands read at T: the result of the tables is written to s[d] at T plus
its latency, and NOP does nothing; the next word follows after one tick. On a conductor the result is in s[d] before the next word, at PC + 4, and no
other register, region, memory or counter changes (05 R75, R76, R80, R82 to R86; 11 R221).
A register read gives what was last written to it; s0 reads as zero and keeps no write; no write touches another register
(05 R75). -/
def Obligations.ScalarResults : Prop :=
  (((∀ (s : State) (c : Ctx) (i : Instr) (lat : Nat) (d : BitVec 4) (v : Word),
     Issues s c i → scalarResult c.rd i = some (lat, d, v) →
     exec i s = .next (c.after (.done (c.emit s [c.eff lat (.reg d v)]) 1))) ∧
   (∀ (s : State) (c : Ctx) (h : Head), Issues s c (.nop h) → exec (.nop h) s = .next (c.after (.done s 1)))) ∧
  ((∀ (s : State) (c : CCtx) (i : Instr) (lat : Nat) (d : BitVec 4) (v : Word),
     CondIssues s c i → scalarResult c.rd i = some (lat, d, v) →
     exec i s = .next (c.ends s (if d = 0 then c.g.s else tabSet 0 c.g.s d.toNat v))) ∧
   (∀ (s : State) (c : CCtx) (h : Head), CondIssues s c (.nop h) → exec (.nop h) s = .next (c.ends s c.g.s)))) ∧
  (∀ (regs : Regs) (d a : BitVec 4) (v : Word), tabWf 0 regs = true →
    regGet (regSet regs d v) a = (if a = 0 then 0 else if a = d then v else regGet regs a) ∧
    tabWf 0 (regSet regs d v) = true)

/-- BEQ to BGEU, J, JAL and JR on a stream at T: not taken, the next word follows at PC + 4; taken, at the target, JAL's link due at
T + 1; a target outside the plane, or one that is no multiple of 4, is an illegal instruction of cause 9 at the branch. On a conductor the target lies in the
graph's code, and JAL's link is written before the next word (03 R42; 05 R89, R90; 11 R219, R221). -/
def Obligations.Branches : Prop :=
  (∀ (s : State) (c : Ctx) (i : Instr) (taken : Bool) (target : Int) (link : Option (BitVec 4)),
     Issues s c i → branchOf c.rd c.pc i = some (taken, target, link) →
     (taken = false → exec i s = .next (c.after (.done s 1))) ∧
     (taken = true → inPlane target = true → exec i s = .next (c.after (.jump (match link with
       | some d => c.emit s [c.eff 1 (.reg d (BitVec.ofNat 64 (c.pc + 4)))]
       | none => s) target))) ∧
     (taken = true → inPlane target = false → exec i s = .next (c.after (.stop s 1 9 0 0)))) ∧
  (∀ (s : State) (c : CCtx) (i : Instr) (taken : Bool) (target : Int) (link : Option (BitVec 4)),
     CondIssues s c i → branchOf c.rd c.g.pc i = some (taken, target, link) →
     (taken = false → exec i s = .next (c.ends s c.g.s)) ∧
     (taken = true → 64 ≤ target → target < 64 + (c.g.clen : Int) → target % 4 = 0 →
       exec i s = .next (s.setRegion c.rid (c.r.setGraph { c.g with
         pc := target.toNat,
         s := match link with
           | some d => regSet c.g.s d (BitVec.ofNat 64 (c.g.pc + 4))
           | none => c.g.s }))) ∧
     (taken = true → ¬ (64 ≤ target ∧ target < 64 + (c.g.clen : Int) ∧ target % 4 = 0) →
       exec i s = .next (s.condFault c.rid 1 9 c.g.pc c.word 0 0)))

/-- A taken branch at T: the next word is at the target and issues at T + 3 plus its IDLE; every LOOP whose body does not hold the target
ends, the rotation base stays. Of the squashable words of the stream that issued before T, the effects due after T are cancelled, words on their way on a circuit
excepted, a bank read due before takes place and lands nothing, of an LSTRM or SSTRM that goes on no further part comes but the pop that is due (log 18), a read of memory keeps its place and its answer is dropped, and the pending seals are gone.
Every other effect, those due at T or before it among them, every other request and every other pending seal stands as it is (05 R89 to R91; 03 R34; 13 R250;
log 18, 19). -/
def Obligations.TakenBranch : Prop :=
  ∀ (c : Ctx) (t : State) (target : Int) (run : Run) (tl : Tile), c.k.isStream = true → inPlane target = true →
    (t.region c.rid).run = some run → (t.region c.rid).tiles[c.tile]? = some tl →
    let x := tl.stream c.k
    let squashed (o : Org) : Bool := decide (o.tile = c.tile ∧ o.k = c.k ∧ o.sq = true ∧ o.issue < c.t)
    c.finish (.jump t target) = t.setRegion c.rid { t.region c.rid with
      run := some { run with
        effs := run.effs.filterMap (fun e =>
          if squashed e.org then
            match e.act with
            | .chan _ _ _ .read | .resp _ _ | .word _ _ _ | .trim _ => some e
            | .bankRd b _ => if c.t < e.due then none else some { e with act := .bankRd b true }
            | .lstrm _ _ _ _ _ => none
            | .sstrm q a st k _ => if c.t < e.due then none else some { e with act := .sstrm q a st k 0 }
            | _ => if c.t < e.due then none else some e
          else some e),
        reqs := run.reqs.map (fun q => if squashed q.org then { q with dropped := true } else q),
        seals := run.seals.filter (fun e => !squashed e.org) },
      tiles := (t.region c.rid).tiles.set c.tile (tl.setStream c.k { x with
        pc := target.toNat, base := c.t + 3, lastPc := x.pc, lastTick := some c.t,
        loops := x.loops.filter (fun l => decide ((l.first : Int) ≤ target ∧ target ≤ l.last)) }) }

/-- TRAP with a true guard, and a word that is no instruction: the stream takes class 8 with n in AUX, or class 1 with the cause, at its own
PC; a conductor's run ends with the same fault (05 R99; 03 R47; 11 R219; 21 R318). -/
def Obligations.TrapsAndIllegal : Prop :=
  (∀ (s : State) (c : Ctx) (h : Head) (n : BitVec 8), Issues s c (.trap h n) →
    exec (.trap h n) s = .next (c.after (.stop s 8 0 0 (n.zeroExtend 64)))) ∧
  (∀ (s : State) (c : CCtx) (h : Head) (n : BitVec 8), CondIssues s c (.trap h n) →
    exec (.trap h n) s = .next (s.condFault c.rid 8 0 c.g.pc c.word 0 (n.zeroExtend 64))) ∧
  (∀ (s : State) (c : Ctx) (n : BitVec 4), s.ctx = some c →
    exec (.illegalInstruction n) s = .next (c.finish (.stop s 1 n.toNat 0 0))) ∧
  (∀ (s : State) (c : CCtx) (n : BitVec 4), s.cctx = some c →
    exec (.illegalInstruction n) s = .next (s.condFault c.rid 1 n.toNat c.g.pc c.word 0 0))


/-! ## Control registers, position, loops and waits -/

/-- GETC at T writes the control register, as it is at T, to s[d] at T + 1, and SETC writes s[a], read at T, at T + 1; TICK writes T, IDX
the index of the flat index in s1, two ticks later. On a conductor GETC's value is in s[d] before the next word and SETC changes nothing
(05 R78, R79, R87, R88; 11 R221). -/
def Obligations.ControlRegisters : Prop :=
  (∀ (s : State) (c : Ctx) (h : Head) (d : BitVec 4) (n : BitVec 8), Issues s c (.getc h d n) →
    exec (.getc h d n) s = .next (c.after (.done (c.emit s [c.eff 1 (.reg d (streamCtrl c n))]) 1))) ∧
  (∀ (s : State) (c : Ctx) (h : Head) (n : BitVec 8) (a : BitVec 4), Issues s c (.setc h n a) →
    exec (.setc h n a) s = .next (c.after (.done (c.emit s [c.eff 1 (.ctrl n (c.rd a))]) 1))) ∧
  (∀ (s : State) (c : Ctx) (h : Head) (d : BitVec 4), Issues s c (.tick h d) →
    exec (.tick h d) s = .next (c.after (.done (c.emit s [c.eff 1 (.reg d (BitVec.ofNat 64 c.t))]) 1))) ∧
  (∀ (s : State) (c : Ctx) (h : Head) (d l : BitVec 4), Issues s c (.idx h d l) →
    exec (.idx h d l) s =
      .next (c.after (.done (c.emit s [c.eff 2 (.reg d (idxValue c.run.img.nest (c.rd 1) l.toNat))]) 1))) ∧
  (∀ (s : State) (c : CCtx) (h : Head) (d : BitVec 4) (n : BitVec 8), CondIssues s c (.getc h d n) →
    exec (.getc h d n) s = .next (c.ends s (regSet c.g.s d (graphCtrl c n)))) ∧
  (∀ (s : State) (c : CCtx) (h : Head) (n : BitVec 8) (a : BitVec 4), CondIssues s c (.setc h n a) →
    exec (.setc h n a) s = .next (c.ends s c.g.s))

/-- IDX's indices are those of R214: each lies below its level's extent, and put together again from the outermost level of the flattened
order inwards they give the flat index modulo the size of the space; a level past the nest's depth, and a step without a nest, give 0. IDX
writes the index of the flat index in s1 to s[d] at T + 2 (11 R213, R214; 05 R88). -/
def Obligations.NestIndices : Prop :=
  (∀ (n : Nest) (flat : Word) (perm : List Nat),
    perm = n.perm.take n.depth → perm.Nodup → perm.length = n.depth → (∀ j ∈ perm, j < n.depth) →
    (∀ j ∈ perm, 0 < n.ext.getD j 1 ∧ n.ext.getD j 1 < 2 ^ 32) →
    (∀ j ∈ perm, (idxValue (some n) flat j).toNat < n.ext.getD j 1) ∧
    perm.foldl (fun acc j => acc * n.ext.getD j 1 + (idxValue (some n) flat j).toNat) 0 =
      flat.toNat % (perm.map (fun j => n.ext.getD j 1)).prod) ∧
  (∀ (n : Nest) (flat : Word) (j : Nat), n.depth ≤ j → idxValue (some n) flat j = 0) ∧
  (∀ (flat : Word) (j : Nat), idxValue none flat j = 0) ∧
  (∀ (s : State) (c : Ctx) (h : Head) (d l : BitVec 4), Issues s c (.idx h d l) →
    exec (.idx h d l) s = c.puts s 1 [c.eff 2 (.reg d (idxValue c.run.img.nest (c.rd 1) l.toNat))])

/-- LOOP at L with trip count T := s[a]: T = 0 skips the body; otherwise a loop of n stages over the `len` words that follow is pushed at
kernel iteration 1 and its first word comes next, either way at L + 2 plus the next word's IDLE. A fifth LOOP, or one whose body does not end
before the innermost one's last word, is a schedule violation (05 R92, R93; 01 R16). -/
def Obligations.LoopEntry : Prop :=
  (∀ (s : State) (c : Ctx) (h : Head) (n : BitVec 3) (rot : Bool) (a : BitVec 4) (len : BitVec 10) (tl : Tile),
    Issues s c (.loop h n rot a len) → c.x.loops.length < 4 →
    (∀ l ls, c.x.loops = l :: ls → c.pc + 4 * len.toNat < l.last) → c.k.isStream = true →
    (s.region c.rid).tiles[c.tile]? = some tl → c.x.st = .running →
    ∃ y : Stream,
      exec (.loop h n rot a len) s = .next (c.driftWatch (s.setRegion c.rid ((s.region c.rid).setTile c.tile
        { tl.setStream c.k y with rotb := tl.rotb }))) ∧
      y = { c.x with pc := y.pc, base := c.t + 2, loops := y.loops, lastPc := c.pc, lastTick := some c.t } ∧
      (c.rd a = 0 → y.pc = c.pc + 4 + 4 * len.toNat ∧ y.loops = c.x.loops) ∧
      (c.rd a ≠ 0 → y.pc = c.pc + 4 ∧
        y.loops = ⟨c.pc + 4, c.pc + 4 * len.toNat, n.toNat, rot, 1, (c.rd a).toNat⟩ :: c.x.loops)) ∧
  (∀ (s : State) (c : Ctx) (h : Head) (n : BitVec 3) (rot : Bool) (a : BitVec 4) (len : BitVec 10),
    Issues s c (.loop h n rot a len) →
    (c.x.loops.length = 4 ∨ ∃ l ls, c.x.loops = l :: ls ∧ l.last ≤ c.pc + 4 * len.toNat) →
    exec (.loop h n rot a len) s = .next (c.after (.stop s 3 0 0 0)))

/-- WAITT at T with target s[d] + imm: the next word's IDLE counts from max(T + 1, target), a target that has passed is a schedule overrun.
WAITD waits s[a] + imm ticks after T + 1, and overruns where that passes tick 524,288; so does DRIFT of s[a] ticks, which on a tile that is not
idle sets STICKY.DRIFTW at T + 1. A stream whose next word counts from a later tick than T + 1 is WAITING and issues nothing until then; WAIT_END makes it
RUNNING at that tick, and ends the window of an accelerated DRIFT; a stream that is live at tick 524,288 is a schedule overrun at the PC of the word
it would issue next (01 R19; 05 R69, R72, R96, R97; 20 R316). That WAITT reads s[d] unsigned and that its sum is exact is the model's reading, as R97 says
of WAITD (log 18). -/
def Obligations.Waits : Prop :=
  ((∀ (s : State) (c : Ctx) (h : HeadW) (d : BitVec 4) (imm : BitVec 19), Issues s c (.waitt h d imm) →
     exec (.waitt h d imm) s = .next (c.after
       (if c.t ≤ (c.rd d).toNat + imm.toNat then .wait s (max (c.t + 1) ((c.rd d).toNat + imm.toNat)) else .stop s 4 0 0 0))) ∧
   (∀ (s : State) (c : Ctx) (h : Head) (a : BitVec 4) (imm : BitVec 10), Issues s c (.waitd h a imm) →
     exec (.waitd h a imm) s = .next (c.after
       (if c.t + 1 + ((c.rd a).toNat + imm.toNat) ≤ 524288 then .wait s (c.t + 1 + ((c.rd a).toNat + imm.toNat))
        else .stop s 4 0 0 0))) ∧
   (∀ (s : State) (c : Ctx) (h : Head) (a : BitVec 4), Issues s c (.drift h a) →
     exec (.drift h a) s = .next (c.after
       (if 524288 < c.t + 1 + (c.rd a).toNat then .stop s 4 0 0 0
        else if c.rd a = 0 then .done s 1
        else if c.idle (c.rd a).toNat then
          .wait (c.onTile s (fun tl => { tl with drift := some (c.t + 1, c.t + (c.rd a).toNat, true) })) (c.t + 1 + (c.rd a).toNat)
        else .wait (c.emit s [c.eff 1 .driftw]) (c.t + 1 + (c.rd a).toNat))))) ∧
  ((∀ (c : Ctx) (t : State) (base : Nat) (tl : Tile), c.k.isStream = true → c.t + 1 ≤ base →
     (t.region c.rid).tiles[c.tile]? = some tl → (tl.stream c.k).st = .running →
     ∃ y : Stream, (c.finish (.wait t base)).streamAt c.rid c.tile c.k = some y ∧ y.base = base ∧
       y.st = (if base = c.t + 1 then .running else .waiting) ∧
       (c.t + 1 < base → base < 524288 → y.nextItem c.tile c.k = some (base, 4, .waitEnd c.tile c.k))) ∧
   (∀ (s : State) (rid u tile : Nat) (k : SeqKind) (tl : Tile), k.isStream = true →
     (s.region rid).pick = some (u, .waitEnd tile k) → ((s.region rid).advance u).tiles[tile]? = some tl →
     exec (.waitEnd rid) s = .next (s.setRegion rid (((s.region rid).advance u).setTile tile
       { tl.setStream k { tl.stream k with st := .running } with drift := if k = .ctl then none else tl.drift }))) ∧
   (∀ (s : State) (rid u tile : Nat) (k : SeqKind) (tl : Tile),
     (s.region rid).pick = some (u, .bound tile k) → (s.region rid).tiles[tile]? = some tl →
     exec (.tickBound rid) s = .next (s.setRegion rid (((s.region rid).advance u).raise
       ⟨u, tile, k.num, u, 4, 0, (tl.stream k).pc, (tl.stream k).wordAt (tl.stream k).pc, 0, 0, 0⟩))))

/-- END makes a stream ENDED at its issue tick and discards its loops; the last of a tile's four ENDs arms the residue check, which raises
class 12 for each entry in its queues, in ascending queue order, at the PC of the END of the stream that pops the queue, and those streams are FAULTED; an
entry beyond the sixteenth is R114's overflow. Nothing else of the region changes but effects of words that such a stream issued at its END or later
(05 R100; 01 R17; 21 R319, log 18). -/
def Obligations.EndStream : Prop :=
  (∀ (s : State) (c : Ctx) (h : Head), Issues s c (.endStream h) → exec (.endStream h) s = .next (c.after (.fin s))) ∧
  (∀ (c : Ctx) (s : State) (tl : Tile), c.k.isStream = true → (s.region c.rid).tiles[c.tile]? = some tl →
    let x := tl.stream c.k
    let tl' := tl.setStream c.k { x with st := .ended, loops := [], endPc := c.pc, lastPc := c.pc, lastTick := some c.t }
    (¬ (∀ k, k.isStream = true → (tl'.stream k).st = .ended) →
      c.finish (.fin s) = s.setRegion c.rid ((s.region c.rid).setTile c.tile tl')) ∧
    ((∀ k, k.isStream = true → (tl'.stream k).st = .ended) → (∀ q, q < 8 → tl'.queue q = []) →
      c.finish (.fin s) = s.setRegion c.rid ((s.region c.rid).setTile c.tile { tl' with armed := true })) ∧
    ((∀ k, k.isStream = true → (tl'.stream k).st = .ended) → ∀ run : Run, (s.region c.rid).run = some run →
      (∀ st, run.stop = some st → c.t < st) →
      let pops (q : Nat) : SeqKind := if q < 4 then .exec else .store
      let tick (k : SeqKind) : Nat := ((tl'.stream k).lastTick).getD 0
      let fs : List FaultRec := (List.range 8).flatMap (fun q => List.replicate (min 16 (tl'.queue q).length)
        ⟨c.t, c.tile, (pops q).num, tick (pops q), 12, 0, (tl'.stream (pops q)).endPc, 0, 0, 0, 0⟩)
      let faulted (k : SeqKind) : Bool := (List.range 8).any (fun q => decide (pops q = k) && decide (tl'.queue q ≠ []))
      ∃ run' : Run,
        c.finish (.fin s) = s.setRegion c.rid { s.region c.rid with
          run := some run',
          tiles := (s.region c.rid).tiles.set c.tile { tl' with
            armed := true,
            ex := if faulted .exec then { tl'.ex with st := .faulted } else tl'.ex,
            st := if faulted .store then { tl'.st with st := .faulted } else tl'.st } } ∧
        run' = { run with
          effs := run'.effs, faults := run.faults ++ fs,
          stop := if fs = [] then run.stop else some (match run.stop with
            | some st => min st (c.t + 256)
            | none => c.t + 256) } ∧
        (∀ e ∈ run.effs, (e.org.tile ≠ c.tile ∨ e.org.issue < tick e.org.k ∨ faulted e.org.k = false) → e ∈ run'.effs)))


/-! ## Scratchpad accesses -/

/-- What a scratchpad address names, read off its fields: the tile at logical column x + DX and row y + DY of the region, on the same side of a
seam, OFFSET in a bank of the wanted role, |DX| + |DY| hops away; every other address names nothing, and a place has one name from a tile (06 R103, R104,
R108; 10 R186). -/
def Obligations.ScratchpadAddresses : Prop :=
  ∀ (r : Region) (sm : Seam) (i : Nat) (a : Access) (copy : Bool) (j off h : Nat), 1 ≤ a.n →
    ((a.ok = true ∧ r.spad sm i a.va a.localOnly a.align a.n copy = some (j, off, h)) ↔ Names r sm i a copy j off h) ∧
    (Names r sm i a copy j off h → spadName r.w i j off = a.va)

/-- A word whose scratchpad address names nothing, or breaks the word's own rules, is an address fault at its PC with the address; of several,
the first is logged, and nothing else happens. The store stream looks at addresses before its queue (06 R104, R117, R120 to R123,
R126 to R128).
The order of STM's and STQ's checks where 06 R126 leaves room is the model's reading (log 18). -/
def Obligations.ScratchpadFaults : Prop :=
  ∀ (s : State) (c : Ctx) (i : Instr) (pre post : List Access) (x : Access), Issues s c i →
    accesses c.rd i = pre ++ x :: post → (∀ y ∈ pre, ∃ j off h, c.names y j off h) → (∀ j off h, ¬ c.names x j off h) →
    exec i s = c.faults s 2 x.va

/-- The load stream's scratchpad reads, and FORMLD, issued at T with h hops: LDQ and LDB read at T + 1 + h and land at T + 6 + 2h; LDT reads
at T + 1 and lands at T + 10; LDG reads its index line at T + 1; GATHP reads at T + 1 and lands at T + 8; LDX and LDXO read at T + 1 + h and
land at T + 5 + 2h; FORMLD reads at T + 1 and lands at T + 6; LSTRM reads once and goes on at T + 1 (06 R117 to R122; 05 R98).
That LDQ and LSTRM judge their first eight lines at the issue, the sixteen at the bank tick, is the model's reading (log 18). -/
def Obligations.ScratchpadLoads : Prop :=
  ∀ (s : State) (c : Ctx) (h : Head) (p : HeadP) (g : BitVec 3) (q d a b : BitVec 4) (j off n j' off' n' : Nat),
    (Issues s c (.ldq h q a) → c.names ⟨c.rd a, false, 64, 512, true⟩ j off n →
      exec (.ldq h q a) s = c.puts s 1 [mkEff c.org (c.t + 1 + n) j (.bankRd (.ldq q.toNat off (c.t + 6 + 2 * n)) false)]) ∧
    (Issues s c (.ldb h q a) → c.names ⟨c.rd a, false, 64, 64, true⟩ j off n →
      exec (.ldb h q a) s = c.puts s 1 [mkEff c.org (c.t + 1 + n) j (.bankRd (.ldb q.toNat off (c.t + 6 + 2 * n)) false)]) ∧
    (Issues s c (.ldt h q a b) → c.names (blockAccess (c.rd a) (c.rd b)) j off n →
      exec (.ldt h q a b) s =
        c.puts s 1 [c.eff 1 (.bankRd (.ldt q.toNat off (c.rd b).toNat (c.t + 10)) false)]) ∧
    (Issues s c (.ldg h q a b) → c.names ⟨c.rd b, true, 64, 64, true⟩ j off n →
      exec (.ldg h q a b) s = c.puts s 1 [c.eff 1 (.bankRd (.ldgIdx q.toNat (c.rd a) off) false)]) ∧
    (Issues s c (.ldx h d a) → c.names ⟨c.rd a, false, 8, 8, true⟩ j off n →
      exec (.ldx h d a) s = c.puts s 1 [mkEff c.org (c.t + 1 + n) j (.bankRd (.ldx d off (c.t + 5 + 2 * n)) false)]) ∧
    (∀ o : BitVec 10, Issues s c (.ldxo h d a o) → c.names ⟨eightAt (c.rd a) o, false, 8, 8, true⟩ j off n →
      exec (.ldxo h d a o) s = c.puts s 1 [mkEff c.org (c.t + 1 + n) j (.bankRd (.ldx d off (c.t + 5 + 2 * n)) false)]) ∧
    (∀ f : BitVec 10, Issues s c (.formld h f a) → c.names ⟨c.rd a, true, 16, 16, true⟩ j off n →
      exec (.formld h f a) s = c.puts s 1 [c.eff 1 (.bankRd (.formld f.toNat off (c.t + 6)) false)]) ∧
    (∀ x : BitVec 2, Issues s c (.gathp p g x a b) → c.names ⟨c.rd a, true, 64, 1024, true⟩ j off n →
      c.names ⟨c.rd b, true, 64, 256, true⟩ j' off' n' →
      exec (.gathp p g x a b) s = c.puts s 1 [c.eff 1 (.bankRd (.gathp x.toNat off off' (c.t + 8)) false)]) ∧
    (∀ (x : BitVec 2) (st cnt : BitVec 16), Issues s c (.lstrm p g x a st cnt) →
      (∀ y ∈ runAccess (c.rd a) st cnt 512, ∃ j off n, c.names y j off n) → c.names ⟨c.rd a, false, 64, 512, true⟩ j off n →
      exec (.lstrm p g x a st cnt) s = c.puts s 1
        (mkEff c.org (c.t + 1 + n) j (.bankRd (.ldq x.toNat off (c.t + 6 + 2 * n)) false) ::
          (if cnt.toNat ≤ 1 then [] else [c.eff 1 (.lstrm x.toNat (c.rd a) st.toInt 1 (cnt.toNat - 1)) 1])))

/-- The store stream's scratchpad writes, issued at T with h hops: STQ pops its queue and writes at T + 4 + h, STT at T + 8; SCAT pops and
reads its index line at T + 1; STX and STXO write s[d] at T + 4 + h; SSTRM pops and writes once and goes on at T + 1. An empty queue is a
schedule violation that logs the address, an STT of a scaled entry an address fault, and neither takes an entry (06 R114, R126 to R128; 00 R11). -/
def Obligations.ScratchpadStores : Prop :=
  ∀ (s : State) (c : Ctx) (h : Head) (p : HeadP) (g : BitVec 3) (q d a b : BitVec 4) (j off n : Nat)
    (x : QSlot) (xs : List QSlot),
    (Issues s c (.stq h q a) → c.names ⟨c.rd a, false, 64, 64, true⟩ j off n →
      (c.tl.queue (4 + q.toNat) = [] → exec (.stq h q a) s = c.faults s 3 (c.rd a)) ∧
      (c.tl.queue (4 + q.toNat) = x :: xs → exec (.stq h q a) s =
        c.puts (c.onTile s (fun tl => tl.setQueue (4 + q.toNat) xs)) 1 [mkEff c.org (c.t + 4 + n) j (.bankWr (.stq off x.ent))])) ∧
    (Issues s c (.stt h q a b) → c.names (blockAccess (c.rd a) (c.rd b)) j off n →
      (c.tl.queue (4 + q.toNat) = [] → exec (.stt h q a b) s = c.faults s 3 (c.rd a)) ∧
      (c.tl.queue (4 + q.toNat) = x :: xs → exec (.stt h q a b) s =
        (if tagScaled x.ent.tag then c.faults s 2 (c.rd a)
         else c.puts (c.onTile s (fun tl => tl.setQueue (4 + q.toNat) xs)) 1
          [c.eff 8 (.bankWr (.stt off (c.rd b).toNat x.ent))]))) ∧
    (Issues s c (.scat h q a b) → c.names ⟨c.rd b, true, 64, 64, true⟩ j off n →
      (c.tl.queue (4 + q.toNat) = [] → exec (.scat h q a b) s = c.faults s 3 (c.rd a)) ∧
      (c.tl.queue (4 + q.toNat) = x :: xs → exec (.scat h q a b) s =
        c.puts (c.onTile s (fun tl => tl.setQueue (4 + q.toNat) xs)) 1
          [c.eff 1 (.bankRd (.scatIdx (c.rd a) off x.ent) false)])) ∧
    (Issues s c (.stx h d a) → c.names ⟨c.rd a, false, 8, 8, true⟩ j off n →
      exec (.stx h d a) s = c.puts s 1 [mkEff c.org (c.t + 4 + n) j (.bankWr (.stx off (c.rd d)))]) ∧
    (∀ o : BitVec 10, Issues s c (.stxo h d a o) → c.names ⟨eightAt (c.rd a) o, false, 8, 8, true⟩ j off n →
      exec (.stxo h d a o) s = c.puts s 1 [mkEff c.org (c.t + 4 + n) j (.bankWr (.stx off (c.rd d)))]) ∧
    (∀ (y : BitVec 2) (st cnt : BitVec 16), Issues s c (.sstrm p g y a st cnt) →
      (∀ z ∈ runAccess (c.rd a) st cnt 64, ∃ j off n, c.names z j off n) → c.names ⟨c.rd a, false, 64, 64, true⟩ j off n →
      (c.tl.queue (4 + y.toNat) = [] → exec (.sstrm p g y a st cnt) s = c.faults s 3 (c.rd a)) ∧
      (c.tl.queue (4 + y.toNat) = x :: xs → exec (.sstrm p g y a st cnt) s =
        c.puts (c.onTile s (fun tl => tl.setQueue (4 + y.toNat) xs)) 1
          (mkEff c.org (c.t + 4 + n) j (.bankWr (.stq off x.ent)) ::
            (if cnt.toNat ≤ 1 then [] else [c.eff 1 (.sstrm y.toNat (c.rd a) st.toInt 1 (cnt.toNat - 1)) 1]))))

/-- The entry that a scratchpad read brings, from a tile and the format of its bank at the bank tick: the tag is the format; LDQ and LDB give
every line and, of a scaled format, its scale bytes; LDT turns the block, element j of line i at 16j + i; LDX and FORMLD give the bytes at
their offset; GATHP gives the window's words that the pattern's bytes name; a format that a load does not accept gives nothing (06 R113, R117,
R118 to R121, R357; 05 R98).
That the bank of LDQ's eight or sixteen lines is judged at the bank tick, and that LDG's sums are exact with all 64 bits of the base, is the model's reading
(log 18). -/
def Obligations.LoadedEntries : Prop :=
  ∀ (t : Tile) (fmt : BitVec 4) (q off land : Nat) (addr : Word),
    (∀ acts, (BankRd.ldq q off land).take t fmt addr = some acts ↔
      off / 32768 = (off + 64 * (if fmt = 5 then 8 else 16) - 1) / 32768 ∧ ∃ e, acts = [(land, .push q e addr)] ∧
        e = entryOf fmt (t.lines (off / 64) (if fmt = 5 then 8 else 16))) ∧
    (∃ e, (BankRd.ldb q off land).take t fmt addr = some [(land, .push q e addr)] ∧
      e = entryOf fmt (List.replicate (if fmt = 5 then 8 else 16) (t.line (off / 64)))) ∧
    (∀ lines : List (BitVec 512 × BitVec 128), lines.length = (if fmt = 5 then 8 else 16) →
      (entryOf fmt lines).tag = fmt ∧
      ∀ (k : Nat) (x : BitVec 512 × BitVec 128), lines[k]? = some x →
        (entryOf fmt lines).line k = x.1 ∧
        (tagScaled fmt = true → ∀ b, b < 512 / fmtWidth fmt / 8 →
          slice (entryOf fmt lines).side (8 * (512 / fmtWidth fmt / 8 * k + b)) 8 = slice x.2 (8 * b) 8) ∧
        (tagScaled fmt = false → (entryOf fmt lines).side = 0)) ∧
    (∀ stride : Nat, (tagScaled fmt = true → (BankRd.ldt q off stride land).take t fmt addr = none) ∧
      (tagScaled fmt = false → ∃ e, (BankRd.ldt q off stride land).take t fmt addr = some [(land, .push q e addr)] ∧ e.tag = fmt ∧ e.side = 0 ∧
        ∀ i j, i < 16 → j < 512 / fmtWidth fmt →
          elemAt e.pay.toNat (fmtWidth fmt) (16 * j + i) =
            elemAt (t.line ((off + i * stride) / 64)).1.toNat (fmtWidth fmt) j)) ∧
    (∀ base : Word, ∃ offs, (BankRd.ldgIdx q base off).take t fmt addr = some [(t.tick + 2, .bankRd (.ldg q offs (t.tick + 7)) false)] ∧
      offs.length = 16 ∧ ∀ i, i < 16 → offs[i]? = some (base.toNat + elemAt (t.line (off / 64)).1.toNat 32 i)) ∧
    (∀ offs : List Nat, (BankRd.ldg q offs land).take t fmt addr =
        some [(land, .push q (entryOf fmt ((offs.take (if fmt = 5 then 8 else 16)).map (fun o => t.line (o / 64)))) addr)] ∧
      ((BankRd.ldg q offs land).addrOk t fmt = true ↔ ∀ o ∈ offs.take (if fmt = 5 then 8 else 16),
        o < 0x180000 ∧ o % 64 = 0 ∧ t.isCopy (o / 32768) = false ∧ t.fmt (o / 32768) = fmt)) ∧
    (∀ d : BitVec 4, off % 8 = 0 → ∃ v : Word, (BankRd.ldx d off land).take t fmt addr = some [(land, .reg d v)] ∧
      ∀ k, k < 8 → v.extractLsb' (8 * k) 8 = t.byteAt (off + k)) ∧
    (∀ f : Nat, off % 16 = 0 →
      ∃ v : BitVec 128, (BankRd.formld f off land).take t fmt addr = some [(land, .form f v)] ∧
        ∀ k, k < 16 → v.extractLsb' (8 * k) 8 = t.byteAt (off + k)) ∧
    (∀ pat : Nat, off % 64 = 0 → pat % 64 = 0 →
      (¬ (fmt = 0 ∨ fmt = 9 ∨ fmt = 15) → (BankRd.gathp q off pat land).take t fmt addr = none) ∧
      ((fmt = 0 ∨ fmt = 9 ∨ fmt = 15) → ∃ e, (BankRd.gathp q off pat land).take t fmt addr = some [(land, .push q e addr)] ∧ e.tag = fmt ∧
        ∀ i b, i < 256 → b < 4 →
          e.pay.extractLsb' (8 * (4 * i + b)) 8 = t.byteAt (off + 4 * (t.byteAt (pat + i)).toNat + b)))

/-- What a scratchpad write stores, into an aligned place: every byte outside the stored bytes reads as before, flagged lines included, and
every flag but those of touched lines stays. STX stores its eight bytes and keeps the sideband; RECV stores its line and a zero sideband; an
entry into a bank of its own format or RAW, and a RAW entry, is copied bit for bit, a scaled one with its scale bytes into its own format; into a bank of another format each
element is converted by RNE, a scaled one into an unscaled format times its scale, a scale byte kept between scaled formats and 0x60 from an unscaled one,
sidebands zero where the bank's format has none. SCAT writes line k at its k-th target, the higher of equal ones, with its scale bytes into its own format. A
store of which a bank's format or the bank boundary is against the rules stores nothing (06 R107, R109, R115, R123, R126, R127, R357). -/
def Obligations.StoredBytes : Prop :=
  (∀ (t : Tile) (w : BankWr), w.put t = none ↔
    (match w with
     | .stq off e => off / 32768 ≠ (off + ((e.stored (t.fmt (off / 32768))).n - 1)) / 32768
     | .stt off _ e => t.fmt (off / 32768) ≠ e.tag ∧ t.fmt (off / 32768) ≠ 15
     | .scat offs e => ∃ o ∈ offs, t.fmt (o / 32768) ≠ e.tag ∧ t.fmt (o / 32768) ≠ 15
     | .stx _ _ | .recv _ _ => False)) ∧
  ∀ (t u : Tile) (w : BankWr), Memory.wf t.spad = true → Memory.wf t.side = true → w.put t = some u →
    (∀ x ∈ w.spans t, x.1 + x.2 ≤ 0x180000 ∧ x.1 % 8 = 0 ∧ (x.1 % 64 = 0 ∨ x.2 = 8)) →
    (∀ a, outside (w.spans t) a → u.byteAt a = t.byteAt a) ∧
    (∀ l, (∀ x ∈ w.spans t, l < x.1 / 64 ∨ (x.1 + x.2 - 1) / 64 < l) → u.line l = t.line l ∧ u.zflag.getLsbD l = t.zflag.getLsbD l) ∧
    (∀ b, u.bank b = t.bank b) ∧
    (∀ off v, w = .stx off v → (u.line (off / 64)).2 = (t.line (off / 64)).2 ∧ ∀ k, k < 8 → u.byteAt (off + k) = v.extractLsb' (8 * k) 8) ∧
    (∀ off v, w = .recv off v → u.line (off / 64) = (v, 0)) ∧
    (∀ off e, w = .stq off e → (e.tag = t.fmt (bankOf off) ∨ t.fmt (bankOf off) = 15 ∨ e.tag = 15) →
      (∀ k, k < (if e.tag = 5 then 512 else 1024) → u.byteAt (off + k) = e.pay.extractLsb' (8 * k) 8) ∧
      ((e.tag ≠ t.fmt (bankOf off) ∨ tagScaled e.tag = false) → ∀ k, k < (if e.tag = 5 then 8 else 16) →
        (u.line (off / 64 + k)).2 = 0)) ∧
    (∀ off stride e, w = .stt off stride e → 64 ≤ stride → stride % 64 = 0 → ∀ i j, i < 16 → j < 512 / fmtWidth e.tag →
      elemAt (u.line ((off + i * stride) / 64)).1.toNat (fmtWidth e.tag) j = elemAt e.pay.toNat (fmtWidth e.tag) (16 * j + i)) ∧
    (∀ offs e, w = .scat offs e → ∀ k o, offs[k]? = some o → (∀ m, k < m → offs[m]? ≠ some o) → (u.line (o / 64)).1 = e.line k ∧
      (e.tag = t.fmt (bankOf o) → tagScaled e.tag = true → ∀ b, b < 512 / fmtWidth e.tag / 8 →
        slice (u.line (o / 64)).2 (8 * b) 8 = slice e.side (8 * (512 / fmtWidth e.tag / 8 * k + b)) 8) ∧
      ((e.tag ≠ t.fmt (bankOf o) ∨ tagScaled e.tag = false) → (u.line (o / 64)).2 = 0)) ∧
    (∀ off e, w = .stq off e → e.tag = t.fmt (bankOf off) → tagScaled e.tag = true → ∀ k b, k < (if e.tag = 5 then 8 else 16) →
      b < 512 / fmtWidth e.tag / 8 → slice (u.line (off / 64 + k)).2 (8 * b) 8 = slice e.side (8 * (512 / fmtWidth e.tag / 8 * k + b)) 8) ∧
    (∀ off e src dst, w = .stq off e → fmtTy e.tag = some src → fmtTy (t.fmt (bankOf off)) = some dst → src ≠ dst →
      let count := if e.tag = 5 then 1024 else 8192 / src.width
      let elem (k : Nat) : Val := src.val (elemAt e.pay.toNat src.width k)
      let scale (b : Nat) : Nat := slice e.side (8 * b) 8
      let perLine := 512 / dst.width / 8
      (∀ k, k < count → elemAt (u.bytes off (count * dst.width / 8)) dst.width k =
        dst.round .rne 0 (if src.isScaled = true ∧ dst.isScaled = false then (elem k).mul (scaleVal (scale (k / 8))) else elem k)) ∧
      (dst.isScaled = true → ∀ b, b < count / 8 → slice (u.line (off / 64 + b / perLine)).2 (8 * (b % perLine)) 8 =
        (if src.isScaled then scale b else 0x60)) ∧
      (dst.isScaled = false → ∀ l, 64 * l < count * dst.width / 8 → (u.line (off / 64 + l)).2 = 0))

/-- BANK_ACCESS at its bank tick. A read changes no tile: what it read is put in flight, at its landing tick. A write replaces the tile by what
it stores. Each claims its banks' ports for the tick; one that finds a port claimed, or whose format or bank boundary is against the rules,
takes no effect and faults, with a schedule violation or an address fault, at the tick and with the address as its word named it; SCAT faults at T + 1 where its
index line names a target that is no line of a timed bank (06 R111, R112, R117, R119, R126, R357; 21 R321).
What a cancelled read and a contest leave is the model's reading (log 18). -/
def Obligations.BankAccess : Prop :=
  ∀ (s : State) (rid : Nat) (e : Eff) (u : Nat) (t : Tile) (run : Run), Falls s rid e u →
    let f := fallen s rid e u
    let r := f.region rid
    r.tiles[e.tile]? = some t → r.run = some run →
    let free (write : Bool) (banks : List Nat) : Prop := ∀ b ∈ banks, (e.tile, b, e.due, write) ∉ run.ports
    let lands (e : Eff) (a : Nat × Act) : Eff := mkEff e.org a.1 (match a.2 with
      | .bankRd _ _ | .bankWr _ => e.tile
      | _ => e.org.tile) a.2 e.sub
    let claimed (run' : Run) (write : Bool) (banks : List Nat) : Prop := run' = { run with ports := run'.ports } ∧
      ∀ x, x ∈ run'.ports ↔ (x ∈ run.ports ∧ e.due ≤ x.2.2.1 + 512) ∨ ∃ b ∈ banks, x = (e.tile, b, e.due, write)
    let named (b : BankRd) : Word := match b with
      | .ldg _ offs _ => BitVec.ofNat 64 ((offs[0]?).getD 0)
      | .scatIdx base _ _ => base
      | .ldq _ off _ | .ldb _ off _ | .ldt _ off _ _ | .ldgIdx _ _ off | .gathp _ off _ _ | .ldx _ off _ | .formld _ off _
      | .send _ off => spadName r.w e.org.tile e.tile off
    let faults (run' : Run) (cls : Nat) (a : Word) : Out :=
      .next ((f.setRegion rid { r with run := some run' }).raise rid (e.org.fault e.due cls 0 a) e.sub)
    (∀ (b : BankRd) (drop : Bool), e.act = .bankRd b drop → b.addrOk t (t.fmt b.fmtBank) = true →
      (∀ l ∈ b.words (t.fmt b.fmtBank), tabGet .none t.soft l = .none) → (b.banks (t.fmt b.fmtBank)).Nodup →
      free false (b.banks (t.fmt b.fmtBank)) →
      ∃ run', claimed run' false (b.banks (t.fmt b.fmtBank)) ∧
        (∀ acts, b.take t (t.fmt b.fmtBank) (named b) = some acts → drop = false → (∀ n o, b ≠ .send n o) →
          exec (.bankAccess rid) s = .next (f.setRegion rid { r with run := some (run'.addAll (acts.map (lands e))) })) ∧
        (∀ n off x, b = .send n off → run.img.circ n = some x → (drop = false ∨ run'.departTick x e.due = e.due) →
          exec (.bankAccess rid) s = .next (f.setRegion rid { r with run := some (run'.offer x e.org r.w r.h e.due (t.line (off / 64)).1) })) ∧
        (∀ acts, b.take t (t.fmt b.fmtBank) (named b) = some acts → drop = true → (∀ n o, b ≠ .send n o) →
          exec (.bankAccess rid) s = .next (f.setRegion rid { r with run := some run' })) ∧
        (b.take t (t.fmt b.fmtBank) (named b) = none → exec (.bankAccess rid) s = faults run' 2 (named b))) ∧
    (∀ (b : BankRd) (drop : Bool), e.act = .bankRd b drop → b.addrOk t (t.fmt b.fmtBank) = false →
      exec (.bankAccess rid) s = .next (f.raise rid (e.org.fault e.due 2 0 (named b)) e.sub)) ∧
    (∀ (b : BankRd) (drop : Bool) (n : Nat), e.act = .bankRd b drop → b.addrOk t (t.fmt b.fmtBank) = true → b.banks (t.fmt b.fmtBank) = [n] →
      (e.tile, n, e.due, false) ∈ run.ports →
      ∃ run', claimed run' false [] ∧ exec (.bankAccess rid) s = faults run' 3 (named b)) ∧
    (∀ (base addr : Word) (off : Nat) (ent : QEntry), (BankRd.scatIdx base off ent).take t (t.fmt (off / 32768)) addr =
      (let offs := (List.range (if ent.tag = 5 then 8 else 16)).map (fun i => base.toNat + elemAt (t.line (off / 64)).1.toNat 32 i)
       if ∀ o ∈ offs, o < 0x180000 ∧ o % 64 = 0 ∧ t.isCopy (o / 32768) = false then some [(t.tick + 5, .bankWr (.scat offs ent))]
       else none)) ∧
    (∀ (w : BankWr), e.act = .bankWr w → w.banks.Nodup → free true w.banks →
      ∃ run', claimed run' true w.banks ∧
        (∀ u', w.put t = some u' → exec (.bankAccess rid) s = .next (f.setRegion rid { r with run := some run', tiles := r.tiles.set e.tile u' })) ∧
        (w.put t = none → exec (.bankAccess rid) s = faults run' 2 (spadName r.w e.org.tile e.tile w.off))) ∧
    (∀ (w : BankWr) (b : Nat), e.act = .bankWr w → w.banks = [b] → (e.tile, b, e.due, true) ∈ run.ports →
      ∃ run', claimed run' true [] ∧ exec (.bankAccess rid) s = faults run' 3 (spadName r.w e.org.tile e.tile w.off))

/-! ## Device memory from a stream -/

/-- LDM, LDXM, STM, STXM, ATOM and ATOMF at T: an address that is not a line of this module's device half at the alignment of the table is an
address fault; a store that meets a range sealed when the step began is a seal trap; else the word sends its request. STM looks at its payload
address and the seal of its first eight lines, then at its queue, then at what the tag asks; only a request that is sent takes the entry
(06 R126, R131, R133, R134; 16 R277).
STM's order of checks is the model's reading (log 18). -/
def Obligations.DeviceAccess : Prop :=
  ∀ (s : State) (c : Ctx) (h : Head) (tag q d a b : BitVec 4),
    let va := c.rd a
    let scaled (t : BitVec 4) : Bool := tagScaled t && b != 0
    let size (t : BitVec 4) : Nat := if t = 5 then 512 else 1024
    let lines (t : BitVec 4) : List Word := (List.range (size t / 64)).map (fun k => va + BitVec.ofNat 64 (64 * k)) ++
      (if scaled t then [c.rd b, c.rd b + 64] else [])
    let inOrder (t : BitVec 4) : Prop := Timed s va (size t) ∧ (scaled t = true → Timed s (c.rd b) 128)
    (Issues s c (.ldm h tag q a b) →
      (inOrder tag → exec (.ldm h tag q a b) s =
        .next (c.after (c.request s va (lines tag) (size tag / 64) (.queue q.toNat tag) (fun _ => .read)))) ∧
      (¬ inOrder tag → ∃ x, exec (.ldm h tag q a b) s = c.faults s 2 x)) ∧
    (Issues s c (.ldxm h d a) →
      (Timed s va 8 → exec (.ldxm h d a) s = .next (c.after (c.request s va [va] 1 (.reg d (va.toNat % 64)) (fun _ => .read)))) ∧
      (¬ Timed s va 8 → exec (.ldxm h d a) s = c.faults s 2 va)) ∧
    (Issues s c (.stm h q a b) →
      let eight := (List.range 8).map (fun k => va + BitVec.ofNat 64 (64 * k))
      (¬ Timed s va 512 → exec (.stm h q a b) s = c.faults s 2 va) ∧
      (Timed s va 512 → ¬ c.unsealed eight → exec (.stm h q a b) s = c.faults s 6 va) ∧
      (Timed s va 512 → c.unsealed eight → c.tl.queue (4 + q.toNat) = [] → exec (.stm h q a b) s = c.faults s 3 va) ∧
      ∀ x xs, Timed s va 512 → c.unsealed eight → c.tl.queue (4 + q.toNat) = x :: xs →
        (¬ inOrder x.ent.tag → ∃ y, exec (.stm h q a b) s = c.faults s 2 y) ∧
        (inOrder x.ent.tag → ¬ c.unsealed (lines x.ent.tag) → exec (.stm h q a b) s = c.faults s 6 va) ∧
        (inOrder x.ent.tag → c.unsealed (lines x.ent.tag) →
          let n := size x.ent.tag / 64
          let sent := c.request s va (lines x.ent.tag) n .none
            (fun k => .write 0 64 (if k < n then x.ent.line k else x.ent.sideLine (k - n)))
          (∀ t, sent = .done t 1 →
            exec (.stm h q a b) s = .next (c.after (.done (c.onTile t (fun tl => tl.setQueue (4 + q.toNat) xs)) 1))) ∧
          (4096 < c.tl.outstanding c.t + (lines x.ent.tag).length → exec (.stm h q a b) s = c.faults s 3 va))) ∧
    (∀ (i : Instr) (n : Nat) (dest : Dest) (op : ChanOp),
      ((i = .stxm h d a ∧ n = 8 ∧ dest = .none ∧
          op = .write (va.toNat % 64) 8 (BitVec.ofNat 512 ((c.rd d).toNat * 2 ^ (8 * (va.toNat % 64))))) ∨
        (∃ o, i = .atom h o a b ∧ n = (if o = .add128 then 16 else 8) ∧ dest = .none ∧
          op = .atom o (va.toNat % 64) (c.rd b) (c.rd (b + 1))) ∨
        (∃ o, i = .atomf h o d a b ∧ n = 8 ∧ dest = .reg d (va.toNat % 64) ∧
          op = .atomf o (va.toNat % 64) (c.rd b) (c.rd (b + 1)))) →
      Issues s c i →
      (¬ Timed s va n → exec i s = c.faults s 2 va) ∧
      (Timed s va n → ¬ c.unsealed [va] → exec i s = c.faults s 6 va) ∧
      (Timed s va n → c.unsealed [va] → exec i s = .next (c.after (c.request s va [va] 1 dest (fun _ => op)))))

/-- A request of n lines at T: where the tile's count would pass 4,096 it is a schedule violation with the address and sends nothing; else line k claims its channel
at T + 8 + k, or T + 40 + k where its channel is on another die, the answer comes at T + 480, or T + 544 where one channel is on another die,
and each line counts from T until the answer (06 R131, R132). -/
def Obligations.Requests : Prop :=
  ∀ (s : State) (c : Ctx) (addr : Word) (lines : List Word) (npay : Nat) (dest : Dest) (op : Nat → ChanOp), s.ctx = some c →
    let near (va : Word) : Bool := c.r.sameDie c.run.img.foot c.tile va
    let lat := if ∀ va ∈ lines, near va = true then 480 else 544
    (4096 < c.tl.outstanding c.t + lines.length → c.request s addr lines npay dest op = .stop s 3 0 addr 0) ∧
    (c.tl.outstanding c.t + lines.length ≤ 4096 → ∃ (t : State) (run : Run) (tl : Tile) (queue : Bool),
      c.request s addr lines npay dest op = .done t 1 ∧
      t = s.setRegion c.rid { c.r with run := some run, tiles := c.r.tiles.set c.tile tl } ∧
      run = { c.run with
        effs := run.effs, nextReq := c.run.nextReq + 1,
        reqs := c.run.reqs ++ [{ id := c.run.nextReq, org := c.org, addr := addr, dest := dest, npay := npay, nline := lines.length }] } ∧
      (∀ e, e ∈ run.effs ↔ e ∈ c.run.effs ∨
        (∃ k va, lines[k]? = some va ∧ e = c.eff ((if near va then 8 else 40) + k) (.chan c.run.nextReq k va (op k)) k) ∨
        e = c.eff lat (.resp c.run.nextReq queue)) ∧
      tl = { c.tl with outst := tl.outst } ∧
      ∀ u, c.t ≤ u → tl.outstanding u = c.tl.outstanding u + (if u < c.t + lat then lines.length else 0))

/-- The snapshot rule's table: which accesses of task t in epoch E pass a line's stamp, and the stamp after a pass; a touched line is one whose stamp
has epoch E (17 R284, R285).
What an atomic leaves of an old value and its operands, all arithmetic modulo 2^64, or 2^128 for ADD128; a store, an ATOM or an ATOMF
writes its own bytes and no others of the line (06 R133, R134). -/
def Obligations.SnapshotRule : Prop :=
  (∀ (stamp : BitVec 32) (epoch kind aop task : Nat), epoch < 2 ^ 19 → kind < 4 → aop < 16 → task < 128 → (kind ≠ 2 → aop = 0) →
    let touched : Bool := (stamp.extractLsb' 13 19).toNat == epoch
    let k := (stamp.extractLsb' 11 2).toNat
    let f := (stamp.extractLsb' 7 4).toNat
    let tk := (stamp.extractLsb' 0 7).toNat
    let pass : Bool := !touched ||
      (match kind with
       | 0 => k == 0 || (k == 1 && tk == task)
       | 1 => k == 1 && tk == task
       | 2 => k == 2 && f == aop
       | _ => k == 3)
    let stamp' : BitVec 32 := BitVec.ofNat 32 (epoch * 2 ^ 13 + kind * 2 ^ 11 + aop * 2 ^ 7 + task)
    judge stamp epoch kind aop task =
      (if pass = false then none else if touched = false ∨ kind = 1 then some stamp' else some stamp)) ∧
  ((∀ old x y : Word,
    AtomOp.newValue .add64 old x = BitVec.ofNat 64 (old.toNat + x.toNat) ∧
    (AtomOp.newValue .min64 old x).toInt = min old.toInt x.toInt ∧ (AtomOp.newValue .max64 old x).toInt = max old.toInt x.toInt ∧
    (AtomOp.newValue .minu64 old x).toNat = min old.toNat x.toNat ∧ (AtomOp.newValue .maxu64 old x).toNat = max old.toNat x.toNat ∧
    AtomOp.newValue .and64 old x = old &&& x ∧ AtomOp.newValue .or64 old x = old ||| x ∧ AtomOp.newValue .xor64 old x = old ^^^ x ∧
    AtomfOp.newValue .add64 old x y = BitVec.ofNat 64 (old.toNat + x.toNat) ∧ AtomfOp.newValue .swap64 old x y = x ∧
    AtomfOp.newValue .cas64 old x y = (if old = x then y else old)) ∧
  (∀ (old : BitVec 512) (lo : Nat) (x y : Word),
    ChanOp.store .read old = none ∧
    (∀ (n : Nat) (v : BitVec 512), (ChanOp.write lo n v).store old = some (lo, n, v.toNat / 2 ^ (8 * lo))) ∧
    (∀ o : AtomOp, o ≠ .add128 → (ChanOp.atom o lo x y).store old = some (lo, 8, (o.newValue (old.extractLsb' (8 * lo) 64) x).toNat)) ∧
    (ChanOp.atom .add128 lo x y).store old =
      some (lo, 16, ((old.extractLsb' (8 * lo) 128).toNat + (y.toNat * 2 ^ 64 + x.toNat)) % 2 ^ 128) ∧
    (∀ o : AtomfOp, (ChanOp.atomf o lo x y).store old = some (lo, 8, (o.newValue (old.extractLsb' (8 * lo) 64) x y).toNat))))

/-- CHANNEL_ACCESS: the line's channel tick is taken, and a line whose tick is taken fails with cause 5. Outside the loaded entries or the home die it fails
with cause 1, a write without W with 2, a line of an operation that the task has not acquired with 6, a stamp with 3, each with the line's channel-set
index; else the stamp is the rule's, and a line that stands without an error is read, written or combined: its own bytes and no other byte of device memory. A
line that fails changes nothing but its request (06 R132, R134; 12 R238; 16 R270; 17 R285).
The order of the causes is the model's reading (log 17), and so is a claim that comes too late beside a held tile: it is noted and changes nothing else, and the
step goes back (log 31). -/
def Obligations.ChannelAccess : Prop :=
  ∀ (s : State) (rid : Nat) (e : Eff) (u id pos : Nat) (va : Word) (op : ChanOp) (run : Run), Falls s rid e u →
    e.act = .chan id pos va op →
    let f := fallen s rid e u
    let r := f.region rid
    let ch := r.chanOf run.img.foot e.org.tile va
    let idx := r.lineIdx run.img.foot e.org.tile va
    let taken : Prop := ∃ x ∈ run.chans, x.ch = ch ∧ x.tick = e.due
    r.run = some run →
    (r.mark = none → r.lateClaim run ch e va op = []) ∧
    (r.lateClaim run ch e va op ≠ [] → ∃ m, exec (.channelAccess rid) s = .next (f.setRegion rid { r with mark := m })) ∧
    (r.lateClaim run ch e va op = [] → taken → exec (.channelAccess rid) s = .next (f.failReq rid id 5 idx)) ∧
    (r.lateClaim run ch e va op = [] → ¬ taken →
      let g := f.setRegion rid { r with run := some { run with
        chans := ⟨ch, e.due, e.org.tile, va.toNat / 64, !op.writes⟩ :: run.chans.filter (fun x => decide (r.leastTick ≤ x.tick)) } }
      let kind := op.kind
      ((f.inHome rid va = false ∨ tlbFind run.img.tlb va = none) → exec (.channelAccess rid) s = .next (g.failReq rid id 1 idx)) ∧
      ∀ x, f.inHome rid va = true → tlbFind run.img.tlb va = some x →
        let key := r.keyThrough x e.org.tile va / 64 * 64
        (op.writes = true → x.w = false → exec (.channelAccess rid) s = .next (g.failReq rid id 2 idx)) ∧
        ((op.writes = true → x.w = true) → r.unacquired run e.org.tile e.org.issue e.due va = true →
          exec (.channelAccess rid) s = .next (g.failReq rid id 6 idx)) ∧
        ((op.writes = true → x.w = true) → r.unacquired run e.org.tile e.org.issue e.due va = false →
          (judgeAt run.sealed0 va (tabGet 0 f.mem.stamps (key / 64)) run.epoch kind.1 kind.2 e.org.tile = none →
            exec (.channelAccess rid) s = .next (g.failReq rid id 3 idx)) ∧
          (∀ stamp, judgeAt run.sealed0 va (tabGet 0 f.mem.stamps (key / 64)) run.epoch kind.1 kind.2 e.org.tile = some stamp →
            tabGet .none f.mem.ecc (key / 64) = .none → tabWf 0 s.mem.stamps = true →
            ∃ t, exec (.channelAccess rid) s = .next t ∧ (t.region rid).tiles = r.tiles ∧ t.time = s.time ∧ t.ring = s.ring ∧
              (∀ o, o ≠ rid → t.region o = s.region o) ∧ tabGet 0 t.mem.stamps (key / 64) = stamp ∧
              (op.store (f.mem.line (key / 64)) = none → t.mem.hbm = s.mem.hbm) ∧
              (∀ lo n v, op.store (f.mem.line (key / 64)) = some (lo, n, v) →
                t.mem.hbm = memWrite s.mem.hbm (key + lo) n v ∧
                (∀ b, b < key + lo ∨ key + lo + n ≤ b → memGet t.mem.hbm b = memGet s.mem.hbm b) ∧
                ∀ k, k < n → memGet t.mem.hbm (key + lo + k) = BitVec.ofNat 8 (v / 2 ^ (8 * k))) ∧
              (∀ run', (t.region rid).run = some run' → run'.effs = run.effs ∧ ∀ q ∈ run'.reqs, q.id = id → q.fail = none →
                (∃ q0 ∈ run.reqs, q0.id = id ∧ q.got = q0.got ++ (match op with
                  | .write _ _ _ => []
                  | _ => [(pos, f.mem.line (key / 64))])))))) ∧
    (∀ (g : State) (cause : Nat), g.failReq rid id cause idx = g.setRegion rid ((g.region rid).modRun (fun run =>
      { run with reqs := run.reqs.map (fun q => if q.id = id then { q with fail := some (q.fail.getD (cause, idx)) } else q) })))

/-- MEMORY_RESPONSE at T + L: the request ends. A dropped one answers nothing; a failure of one of its lines is a memory fault with the first one's cause, the
address the instruction named and the failing line's channel-set index; a register load or ATOMF writes s[d], an LDM's entry is appended unless an LSTOP came; a store that went well
answers nothing. An LDM's entry has its payload lines, and its scale lines or, without them, 0x60 in every scale (06 R124, R132 to R134). -/
def Obligations.MemoryResponse : Prop :=
  (∀ (s : State) (rid : Nat) (e : Eff) (u id : Nat) (isQ : Bool) (run : Run) (q : Req), Falls s rid e u → e.act = .resp id isQ →
    let f := fallen s rid e u
    let r := f.region rid
    let g := f.setRegion rid { r with run := some { run with reqs := run.reqs.filter (fun x => x.id != id) } }
    r.run = some run → run.reqs.find? (fun x => x.id == id) = some q →
    (q.dropped = true → exec (.memoryResponse rid) s = .next g) ∧
    (q.dropped = false → ∀ cause idx, q.fail = some (cause, idx) →
      exec (.memoryResponse rid) s = .next (g.raise rid (e.org.fault e.due 5 cause q.addr 0 idx))) ∧
    (q.dropped = false → q.fail = none →
      (q.dest = .none → exec (.memoryResponse rid) s = .next g) ∧
      (∀ d lo x xs tl, q.dest = .reg d lo → q.got = x :: xs → r.tiles[e.tile]? = some tl → exec (.memoryResponse rid) s =
        .next (g.setRegion rid ((g.region rid).setTile e.tile (tl.land e.org.k (.reg d (x.2.extractLsb' (8 * lo) 64)))))) ∧
      (∀ k tag, q.dest = .queue k tag → exec (.memoryResponse rid) s =
        .next (if q.stopped then g else g.append rid e k (q.entry tag) q.addr)))) ∧
  (∀ (q : Req) (tag : BitVec 4), (q.entry tag).tag = tag ∧
    (∀ k v, k < q.npay → k < 16 → q.got.find? (fun x => x.1 == k) = some (k, v) → (q.entry tag).line k = v) ∧
    (∀ k, q.npay ≤ k → k < 16 → (q.entry tag).line k = 0) ∧
    (q.npay < q.nline → ∀ k v, k < 2 → q.got.find? (fun x => x.1 == q.npay + k) = some (q.npay + k, v) → (q.entry tag).sideLine k = v) ∧
    (q.nline ≤ q.npay → ∀ k, k < 128 → slice (q.entry tag).side (8 * k) 8 = if tagScaled tag then 0x60 else 0))


/-! ## Queues -/

/-- VPOP takes the head of a load queue and lands it at T + 2; VPUSH reads rows 2k and 2k + 1 and set k at T and lands an entry at T + 2; QDROP and SSTOP
take n entries off the head, all of them where n = 0, and SSTOP ends a running SSTRM; an empty or too short queue is a schedule violation. LSTOP
takes back what its tile's load stream has not landed in a queue; a bank read that is due takes place and lands nothing (06 R124, R130; 07 R161).
QUEUE_APPEND: an entry that lands is appended, or, where the tile's residue check is armed, discarded with a residue fault at the END of the stream that pops
the queue. A seventeenth entry is judged when the tick's pops are done: where it is still there, the last one goes and its pusher faults, with the address
that brought the entry (01 R17; 06 R114; 00 R11). -/
def Obligations.QueueWords : Prop :=
  (∀ (s : State) (c : Ctx) (h : Head) (t : ETy) (d q a k : BitVec 4) (n : BitVec 8),
    (Issues s c (.vpop h d q k) →
      (c.tl.queue q.toNat = [] → exec (.vpop h d q k) s = c.faults s 3) ∧
      (∀ x xs, c.tl.queue q.toNat = x :: xs → exec (.vpop h d q k) s =
        c.puts (c.onTile s (fun tl => tl.setQueue q.toNat xs)) 1
          [c.eff 2 (.rows
            [⟨16 * physReg c.tl.rotb d + 2 * k.toNat, BitVec.allOnes 4096, x.ent.pay.extractLsb' 0 4096⟩,
             ⟨16 * physReg c.tl.rotb d + 2 * k.toNat + 1, BitVec.allOnes 4096, x.ent.pay.extractLsb' 4096 4096⟩]
            [(8 * physReg c.tl.rotb d + k.toNat, x.ent.side)])])) ∧
    (Issues s c (.vpush h t q a k) → ∃ ent,
      exec (.vpush h t q a k) s = c.puts s 1 [c.eff 2 (.push (4 + q.toNat) ent 0)] ∧ ent.tag = t.code ∧
        ent.pay.extractLsb' 0 4096 = c.tl.row (physReg c.tl.rotb a) (2 * k.toNat) ∧
        ent.pay.extractLsb' 4096 4096 = (if t = .e2m1 then 0 else c.tl.row (physReg c.tl.rotb a) (2 * k.toNat + 1)) ∧
        ent.side = (if t.isScaled then c.tl.set (physReg c.tl.rotb a) k.toNat else 0)) ∧
    (Issues s c (.qdrop h q n) →
      ((c.tl.queue q.toNat).length < n.toNat → exec (.qdrop h q n) s = c.faults s 3) ∧
      (n.toNat ≤ (c.tl.queue q.toNat).length → exec (.qdrop h q n) s = .next (c.after (.done (c.onTile s (fun tl =>
        tl.setQueue q.toNat (if n = 0 then [] else (c.tl.queue q.toNat).drop n.toNat))) 1)))) ∧
    (Issues s c (.sstop h q n) →
      ((c.tl.queue (4 + q.toNat)).length < n.toNat → exec (.sstop h q n) s = c.faults s 3) ∧
      (n.toNat ≤ (c.tl.queue (4 + q.toNat)).length → ∃ run', exec (.sstop h q n) s = .next (c.after (.done
          (s.setRegion c.rid { c.r with
            run := some run',
            tiles := c.r.tiles.set c.tile
              (c.tl.setQueue (4 + q.toNat) (if n = 0 then [] else (c.tl.queue (4 + q.toNat)).drop n.toNat)) }) 1)) ∧
        run' = { c.run with effs := run'.effs } ∧
        ∀ e, e ∈ run'.effs ↔ e ∈ c.run.effs ∧ ¬ (e.org.tile = c.tile ∧ ∃ addr st j left, e.act = .sstrm q.toNat addr st j left))) ∧
    (Issues s c (.lstop h q) → ∃ run', exec (.lstop h q) s =
        .next (c.after (.done (s.setRegion c.rid { c.r with run := some run' }) 1)) ∧
      run' = { c.run with effs := run'.effs, reqs := run'.reqs } ∧
      (∀ e ∈ c.run.effs, (e.org.tile ≠ c.tile ∨ e.org.k ≠ .load ∨ e.act.pushes q.toNat = false ∨
        (e.due ≤ c.t ∧ ∃ ent addr, e.act = .push q.toNat ent addr)) → e ∈ run'.effs) ∧
      (∀ e ∈ run'.effs, e.org.tile = c.tile → e.org.k = .load → e.act.pushes q.toNat = true →
        e.due ≤ c.t ∧ ((∃ ent addr, e.act = .push q.toNat ent addr) ∨ ∃ b, e.act = .bankRd b true)) ∧
      run'.reqs.map (·.id) = c.run.reqs.map (·.id) ∧
      ∀ x ∈ run'.reqs, ∀ tag, x.dest = .queue q.toNat tag → x.org.tile = c.tile → x.stopped = true)) ∧
  (∀ (s : State) (rid : Nat) (e : Eff) (u q : Nat) (t : Tile) (run : Run), Falls s rid e u →
    let f := fallen s rid e u
    let r := f.region rid
    r.tiles[e.tile]? = some t → r.run = some run →
    (∀ ent addr, e.act = .push q ent addr →
      (t.armed = true → ∃ g, exec (.queueAppend rid) s = .next (f.raise rid g) ∧ g.cls = 12 ∧ g.tick = e.due ∧ g.tile = e.tile ∧
        g.seq = (if q < 4 then 1 else 2) ∧ g.pc = (if q < 4 then t.ex.endPc else t.st.endPc)) ∧
      (t.armed = false →
        let t' := t.setQueue q (t.queue q ++ [⟨ent, e.org, e.due, addr⟩])
        ((t.queue q).length < 16 → exec (.queueAppend rid) s = .next (f.setRegion rid (r.setTile e.tile t'))) ∧
        (16 ≤ (t.queue q).length → exec (.queueAppend rid) s = .next (f.setRegion rid { r.setTile e.tile t' with
          run := some (run.add (mkEff e.org e.due e.tile (.trim q))) })))) ∧
    (e.act = .trim q →
      ((t.queue q).length ≤ 16 → exec (.queueAppend rid) s = .next f) ∧
      (∀ xs x, t.queue q = xs ++ [x] → 16 ≤ xs.length → exec (.queueAppend rid) s =
        .next ((f.setRegion rid (r.setTile e.tile (t.setQueue q xs))).raise rid (x.org.fault e.due 3 0 x.addr)))))

/-! ## Circuits -/

/-- SEND and SENDX need the circuit's record, this tile as its source and fewer than four of its words waiting, else a schedule violation that sends
nothing; SEND reads its line at T, SENDX offers s[a] at T. RECV and RECVX take the word due on their circuit at T, to a line written at T + 1 or
to s[d] at T + 1; with no word due they are schedule violations. A word offered at T departs at the first tick at or after T that is congruent to the
circuit's slot modulo its period and later than the departure of every earlier word; a group with no destination takes no slot. WORD_DEPARTURE sends it: it is
due once at each destination, d plus the route's latency, d + 2 at its own source, and ends a DRIFT of the destination in whose window it is due; each link of a
route adds 2 ticks, the one across the declared seam its latency. WORD_DUE discards a word that nothing took, a schedule violation of
the tile's load stream unless that is faulted (06 R123, R129; 13 R242, R247 to R249; 20 R316). That SEND looks at its circuit before its address, and RECV at
its address before the word, is the model's reading (log 18). -/
def Obligations.Circuits : Prop :=
  (∀ (s : State) (c : Ctx) (h : Head) (n : BitVec 8) (a d : BitVec 4) (x : Circ) (off j k : Nat) (line : BitVec 512),
     let open' : Prop := c.run.img.circ n.toNat = some x ∧ x.src c.r.w = c.tile ∧ (c.run.waitingWords n.toNat).length < 4
     let taken : State := s.setRegion c.rid { c.r with run := some (c.run.takeWord c.tile n.toNat c.t) }
     (Issues s c (.send h n a) → open' → c.names ⟨c.rd a, true, 64, 64, true⟩ j off k →
       exec (.send h n a) s = c.puts s 1 [c.eff 0 (.bankRd (.send n.toNat off) false)]) ∧
     (Issues s c (.send h n a) → open' → (∀ j off k, ¬ c.names ⟨c.rd a, true, 64, 64, true⟩ j off k) →
       exec (.send h n a) s = c.faults s 2 (c.rd a)) ∧
     (Issues s c (.sendx h n a) → open' → exec (.sendx h n a) s = .next (c.after (.done
       (s.setRegion c.rid { c.r with run := some (c.run.offer x c.org c.r.w c.r.h c.t ((c.rd a).zeroExtend 512)) }) 1))) ∧
     ((c.run.img.circ n.toNat = none ∨ (c.run.img.circ n.toNat = some x ∧ (x.src c.r.w ≠ c.tile ∨ 4 ≤ (c.run.waitingWords n.toNat).length))) →
       (Issues s c (.send h n a) → exec (.send h n a) s = c.faults s 3 (c.rd a)) ∧
       (Issues s c (.sendx h n a) → exec (.sendx h n a) s = c.faults s 3)) ∧
     (Issues s c (.recv h n a) → c.names ⟨c.rd a, true, 64, 64, true⟩ j off k →
       (c.run.wordDue c.tile n.toNat c.t = none → exec (.recv h n a) s = c.faults s 3 (c.rd a)) ∧
       (c.run.wordDue c.tile n.toNat c.t = some line →
         exec (.recv h n a) s = c.puts taken 1 [c.eff 1 (.bankWr (.recv off line))])) ∧
     (Issues s c (.recvx h d n) →
       (c.run.wordDue c.tile n.toNat c.t = none → exec (.recvx h d n) s = c.faults s 3) ∧
       (c.run.wordDue c.tile n.toNat c.t = some line →
         exec (.recvx h d n) s = c.puts taken 1 [c.eff 1 (.reg d (line.extractLsb' 0 64))]))) ∧
  ((∀ (run : Run) (x : Circ) (org : Org) (w h t : Nat) (line : BitVec 512), x.slot < x.period →
     (x.dests run.img w h = [] → run.offer x org w h t line = run) ∧
     (x.dests run.img w h ≠ [] → ∃ d, run.offer x org w h t line = run.add (mkEff org d org.tile (.depart x.c line)) ∧
       let later (u : Nat) : Prop := t ≤ u ∧ u % x.period = x.slot ∧ tabGet 0 run.lastDep x.c ≤ u ∧
         ∀ e ∈ run.effs, ∀ l, e.act = .depart x.c l → e.due < u
       later d ∧ ∀ u, later u → d ≤ u)) ∧
   (∀ (s : State) (rid : Nat) (e : Eff) (u n : Nat) (line : BitVec 512) (run : Run) (x : Circ), Falls s rid e u → e.act = .depart n line →
     let f := fallen s rid e u
     let r := f.region rid
     r.run = some run → run.img.circ n = some x →
     let dests := x.dests run.img r.w r.h
     let lat (d : Nat) : Nat := if d = x.src r.w then 2 else routeLat r.w run.img.seam x.x0 x.y0 (d % r.w) (d / r.w)
     ∃ (run' : Run) (ts : List Tile), exec (.wordDeparture rid) s = .next (f.setRegion rid { r with run := some run', tiles := ts }) ∧
       run' = { run with effs := run'.effs, lastDep := tabSet 0 run.lastDep n (e.due + 1) } ∧
       run'.effs.Perm (run.effs ++ dests.map (fun d => mkEff e.org (e.due + lat d) d (.word n line (x.arrives r.w d)) d)) ∧
       ts.length = r.tiles.length ∧
       ∀ (i : Nat) (t : Tile), r.tiles[i]? = some t → ts[i]? = some
         (match t.drift with
          | some (a, b, _) =>
            if i ∈ dests ∧ a ≤ e.due + lat i ∧ e.due + lat i ≤ b then { t with driftw := true, drift := none } else t
          | none => t)) ∧
   (∀ (w : Nat) (x0 y0 x1 y1 : Nat) (sm : Seam), x0 < 16 → x1 < 16 → y0 < 16 → y1 < 16 →
     let hops := (x0 - x1) + (x1 - x0) + ((y0 - y1) + (y1 - y0))
     let crosses : Prop := (sm.axis = 1 ∧ (x0 < sm.pos ↔ sm.pos ≤ x1)) ∨ (sm.axis = 2 ∧ (y0 < sm.pos ↔ sm.pos ≤ y1))
     (¬ crosses → routeLat w sm x0 y0 x1 y1 = 2 * hops) ∧ (crosses → routeLat w sm x0 y0 x1 y1 = 2 * (hops - 1) + sm.lat)) ∧
   (∀ (s : State) (rid : Nat) (e : Eff) (u n : Nat) (line : BitVec 512) (side : Src) (t : Tile), Falls s rid e u → e.act = .word n line side →
     let f := fallen s rid e u
     (f.region rid).tiles[e.tile]? = some t →
     (t.ld.st = .faulted → exec (.wordDue rid) s = .next f) ∧
     (t.ld.st ≠ .faulted → ∃ g, exec (.wordDue rid) s = .next (f.raise rid g) ∧ g.cls = 3 ∧ g.cause = 0 ∧ g.tick = e.due ∧
       g.tile = e.tile ∧ g.seq = 0 ∧
       g.pc = (if t.ld.lastTick = some e.due then t.ld.lastPc else if t.ld.st = .ended then t.ld.endPc else t.ld.pc))))


/-! ## The vector unit -/

/-- A vector word at U reads its registers under the rotation base and its mask at U, puts its four row groups in flight, read at U + g and
landing at U + latency + g, and takes four ticks. VTRN reads every row at U + 3, VSHUF its index rows at U. A draw instruction advances the
draw counter by one. At its tick, a row group is read from the tile as it stands (01 R14; 04 R64; 05 R95; 07 R138, R140, R141). -/
def Obligations.VectorIssue : Prop :=
  (∀ (s : State) (c : Ctx) (i : Instr) (w : VecWord), Issues s c i → vectorOf c.rd i = some w →
    let env : VEnv := { d := physReg c.tl.rotb w.d, a := physReg c.tl.rotb w.a, b := physReg c.tl.rotb w.b, c := physReg c.tl.rotb w.x,
                        mask := c.tl.pmask w.g.toNat, x := w.v,
                        idx := if w.op.isShuf then c.tl.row (physReg c.tl.rotb w.b) 1 ++ c.tl.row (physReg c.tl.rotb w.b) 0 else 0,
                        key := c.tl.key, ctr := c.tl.drawCtr, did := c.tl.drawId, lat := w.lat }
    let t : State := if i.draws then c.onTile s (fun tl => { tl with drawCtr := tl.drawCtr + 1 }) else s
    exec i s = c.puts t 4
      (if w.op.isTrn then [c.eff 3 (.vec w.op env 3) 3]
       else c.eff w.lat (w.op.group c.tl env 0) :: [1, 2, 3].map (fun g => c.eff g (.vec w.op env g) g))) ∧
  (∀ (s : State) (rid : Nat) (e : Eff) (u g : Nat) (op : VOp) (env : VEnv) (t : Tile) (run : Run), Falls s rid e u →
    e.act = .vec op env g →
    let f := fallen s rid e u
    (f.region rid).tiles[e.tile]? = some t → (f.region rid).run = some run → e.org.tile = e.tile →
    exec (.runningFormStep rid) s = .next (f.emit rid
      ((if op.isTrn then [0, 1, 2, 3] else [g]).map (fun j =>
        mkEff e.org (e.org.issue + env.lat + j) e.tile (op.group t env j) j))))

/-- What the landing of row group g of an operation writes: the lanes that the mask enables, in the four rows of the group of its destination,
take the operation's values; every other lane, row and register stays. Of the scale sets, VMOV copies those of its two row pairs, VCVT into
a scaled type writes 0x60 to all of theirs, whatever the mask; every other operation leaves them. Lanes that are not written are as before the tick:
of an earlier-issued write that lands on the row in this tick nothing is left (07 R137, R138, R142, R143, R151). -/
def Obligations.VectorLanding : Prop :=
  ∀ (t src : Tile) (k : SeqKind) (op : VOp) (e : VEnv) (g : Nat), op.isTopk = false → g < 4 → tabWf 0 t.rows = true →
    let u := t.land k (op.group src e g)
    let w := op.dstTy.width
    (∀ (r i : Nat), i < 16 → (r ≠ e.d ∨ i / 4 ≠ g) → u.row r i = t.row r i) ∧
    (∀ (i l : Nat), i / 4 = g → l < 4096 / w →
      elemAt (u.row e.d i).toNat w l =
        if e.mask.getLsbD (if w = 4 then l / 2 else l)
        then elemAt (op.row e (fun j => (src.row e.a j).toNat) (fun j => (src.row e.b j).toNat) (fun j => (src.row e.c j).toNat)
          (fun j => (src.row e.d j).toNat) (src.set e.a (i / 2)) i) w l % 2 ^ w
        else elemAt (t.rowBefore (16 * e.d + i)).toNat w l) ∧
    (∀ key, (∀ x ∈ t.before, x.1 = t.tick → x.2.1 ≠ key) → t.rowBefore key = t.row (key / 16) (key % 16)) ∧
    (tabWf 0 t.sets = true → ∀ (r p : Nat), p < 8 → u.set r p = (match op with
      | .mov _ => if r = e.d ∧ p / 2 = g then src.set e.a p else t.set r p
      | .cvt up _ ty => if (!up && ty.isScaled) ∧ r = e.d ∧ p / 2 = g then BitVec.ofNat 1024 (packFn 8 128 (fun _ => 0x60)) else t.set r p
      | _ => t.set r p)) ∧
    u = { t with rows := u.rows, sets := u.sets, before := u.before }

/-- The values of the lane-by-lane operations, of VBCAST, VLANE, the permutations and VPOPC: lane l of row i of the result is the table's
function of lanes l of row i of the sources. VSCAN and VRED: the reduction is the root of the fixed tree over the lanes, a prefix the blocks of its lane number;
a lane whose mask bit is 0 is absent, no NaN's sign or payload reaches a result, and over no lane there is +0, the least or the greatest value. Over
integers, lane l of VSCAN.ADD is the sum, modulo 2^w, of the present lanes up to l, and every lane of VRED.ADD the sum of all of them
(04 R50, R59, R60; 07 R144 to R148, R155, R156). -/
def Obligations.VectorLanes : Prop :=
  (∀ (op : VOp) (e : VEnv) (ra rb rc rd : Nat → BitVec 4096) (set : BitVec 1024) (i l : Nat),
     let w := op.dstTy.width
     let row := op.row e (fun j => (ra j).toNat) (fun j => (rb j).toNat) (fun j => (rc j).toNat) (fun j => (rd j).toNat) set i
     l < 4096 / w →
     (∀ v, laneOf op (elemAt (ra i).toNat w l) (elemAt (rb i).toNat w l) (elemAt (rd i).toNat w l) = some v → elemAt row w l = v % 2 ^ w) ∧
     (∀ t, op = .bcast t → elemAt row w l = e.x.toNat % 2 ^ w) ∧
     (∀ t, op = .lane t → t.isFL = false → (elemAt row w l : Int) = (e.x.toInt + (i * (4096 / w) + l : Nat)) % (2 ^ w : Nat)) ∧
     (∀ t, op = .rot t → elemAt row w l = elemAt (ra i).toNat w ((l + 4096 / w - e.x.toNat % (4096 / w)) % (4096 / w))) ∧
     (∀ t, op = .shuf t → elemAt row w l = elemAt (ra i).toNat w ((e.idx.extractLsb' (16 * l) 16).toNat % (4096 / w))) ∧
     (∀ t, op = .trn t → i < 16 → elemAt row w l = elemAt (ra (l % 16)).toNat w (16 * (l / 16) + i)) ∧
     (∀ t, op = .popc t → elemAt row w l =
       ((List.range w).filter (fun b => (elemAt (ra i).toNat w l).testBit b)).length) ∧
     (op = .selm → (BitVec.ofNat 4096 row) = (ra i &&& rc i) ||| (rb i &&& ~~~ (rc i)))) ∧
  (∀ (op : ScanOp) (t : ETy) (mask : BitVec 512) (row l : Nat), (t.isFL || t.isIN) = true → l < t.lanes →
     let lane (j : Nat) : Option Nat :=
       let c := elemAt row t.width j
       if mask.getLsbD j then some (if t.isFL && (t.val c).isNan then canonNan t else c) else none
     let two (a b : Nat) : Nat := (laneOf (match op with
       | .add => .add t
       | .max => .max t
       | .min => .min t) a b 0).getD 0
     elemAt (redRow op t mask row) t.width l = (treeNode two lane t.lanes.log2 0).getD (emptyResult op t) ∧
     elemAt (scanRow op t mask row) t.width l = (prefixNode two lane l (t.lanes.log2 + 1) none).getD (emptyResult op t)) ∧
  (∀ (t : ETy) (mask : BitVec 512) (row l : Nat), t.isIN = true → l < t.lanes →
     let term (j : Nat) : Nat := if mask.getLsbD j then elemAt row t.width j else 0
     elemAt (scanRow .add t mask row) t.width l = ((List.range (l + 1)).map term).sum % 2 ^ t.width ∧
     elemAt (redRow .add t mask row) t.width l = ((List.range t.lanes).map term).sum % 2 ^ t.width)

/-- The values of VBCASTI, VLANE.F32, VDRAW, VCVT, VADDW and VMADW, lane by lane: the immediate converted, ties to even; the register plus the flat index,
rounded once; the draw of the lane's identity, as it is or its upper 24 bits as a fraction; the source element times its block scale, rounded in the
instruction's mode, and zero past the last lane of the wider type; the old wide lane plus the narrow element of its window, or plus the g products of its group, where integers
wrap, an F32 sum is formed exactly and rounded once, and a W96 sum saturates and a NaN leaves the lane (04 R52, R54, R55, R64; 06 R107; 07 R147,
R150 to R154, R157).
VTOPK's row group g lands in the four rows of its group of two registers, and nowhere else. Where the elements that are present and equal in rank differ in their
index, place j of a row takes the element, and its index, above which j present elements rank: the greater ones and, of those of its rank, the ones of
a lower index; the places below k that no element takes get 0 and 0xFFFFFFFF; a lane outside the mask or from k on keeps what it held
(04 R61; 07 R142, R159). -/
def Obligations.VectorConversions : Prop :=
  (∀ (op : VOp) (e : VEnv) (ra rb rc rd : Nat → BitVec 4096) (set : BitVec 1024) (i l : Nat),
    let w := op.dstTy.width
    let a (j : Nat) : Nat := (ra j).toNat
    let x := elemAt (op.row e a (fun j => (rb j).toNat) (fun j => (rc j).toNat) (fun j => (rd j).toNat) set i) w l
    let draw : Nat := drawWord e.key e.ctr (e.did + BitVec.ofNat 64 (i * 512 + l))
    l < 4096 / w →
    (∀ t, op = .bcasti t → x = t.round .rne 0 (.ofInt e.x.toInt)) ∧
    (op = .lane .f32 → x = ETy.f32.round .rne 0 (.ofInt (e.x.toInt + (i * 128 + l : Nat)))) ∧
    (op = .draw .u32 → x = draw) ∧
    (op = .draw .f32 → (ETy.f32.val x).eq (.fin false (draw / 256) (-24)) = true) ∧
    (∀ up rm t, op = .cvt up rm t →
      let (src, dst) := if up then (t, .f32) else (.f32, t)
      let c := elemAt (a i) src.width l
      let v := if src.isScaled then (src.val c).mul (scaleVal (elemAt set.toNat 8 ((i % 2 * src.lanes + l) / 8 % 128))) else src.val c
      x = if l < src.lanes then dst.round rm (if rm = .sr then draw else 0) v else 0) ∧
    (∀ t wd, (t, wd) ∈ widenings →
      let old := elemAt (rd i).toNat w l
      let g := wd.width / t.width
      let int (c : Nat) : Int := if t.isSigned then signed c t.width else c
      let once (s : Val) : Nat := if wd = .w96 ∧ s.isNan = true then old else wd.round .rne 0 s
      (∀ p, op = .addw t p → p < g →
        let k := p * 16 * wd.lanes + i * wd.lanes + l
        let c := elemAt (a (k / t.lanes)) t.width (k % t.lanes)
        if t.isFL then x = once ((wd.val old).add (t.val c)) else (x : Int) = (old + int c) % (2 ^ w : Nat)) ∧
      (op = .madw t →
        let c (j : Nat) : Nat := elemAt (a i) t.width (g * l + j)
        let d (j : Nat) : Nat := elemAt (rb i).toNat t.width (g * l + j)
        if t.isFL then x = once ((List.range g).foldl (fun s j => s.add ((t.val (c j)).mul (t.val (d j)))) (wd.val old))
        else (x : Int) = (old + ((List.range g).map (fun j => int (c j) * int (d j))).sum) % (2 ^ w : Nat)))) ∧
  (∀ (t src : Tile) (kind : SeqKind) (ty : ETy) (k : Nat) (e : VEnv) (g i j : Nat), (ty = .f32 ∨ ty = .i32 ∨ ty = .u32) → 1 ≤ k → k ≤ 128 →
    e.d < 16 → e.c < 16 → e.d ≠ e.c → g < 4 → tabWf 0 t.rows = true → i / 4 = g → j < 128 →
    let u := t.land kind ((VOp.topk ty k).group src e g)
    let val (l : Nat) : Nat := elemAt (src.row e.a i).toNat 32 l
    let idx (l : Nat) : Nat := elemAt (src.row e.b i).toNat 32 l
    let present := (List.range 128).filter (fun l => e.mask.getLsbD l)
    let above (l m : Nat) : Bool := decide (rankOf ty (val l) < rankOf ty (val m)) ||
      (decide (rankOf ty (val l) = rankOf ty (val m)) && decide (idx m < idx l))
    (∀ l ∈ present, ∀ m ∈ present, rankOf ty (val l) = rankOf ty (val m) → idx l = idx m → l = m) →
    (∀ l ∈ present, (present.filter (above l)).length = j → j < k → e.mask.getLsbD j = true →
      elemAt (u.row e.d i).toNat 32 j = (if (ty.val (val l)).isNan then canonNan ty else val l) ∧ elemAt (u.row e.c i).toNat 32 j = idx l) ∧
    (present.length ≤ j → j < k → e.mask.getLsbD j = true →
      elemAt (u.row e.d i).toNat 32 j = 0 ∧ elemAt (u.row e.c i).toNat 32 j = 0xFFFFFFFF) ∧
    ((k ≤ j ∨ e.mask.getLsbD j = false) →
      elemAt (u.row e.d i).toNat 32 j = elemAt (t.rowBefore (16 * e.d + i)).toNat 32 j ∧
      elemAt (u.row e.c i).toNat 32 j = elemAt (t.rowBefore (16 * e.c + i)).toNat 32 j) ∧
    (∀ r n, n < 16 → ((r ≠ e.d ∧ r ≠ e.c) ∨ n / 4 ≠ g) → u.row r n = t.row r n) ∧ u = { t with rows := u.rows, before := u.before })

/-- VRCP, VSQRT and VRSQ, and the special inputs of all seven functions: a special input gives the table's result, a NaN the canonical one; of every other input the
result is the exact reciprocal, root or reciprocal root, rounded once to nearest: twice its magnitude lies between the sums of the result's with its
two neighbours', and on a boundary the result's last bit is 0; past the greatest finite code follows infinity, with the value that the next code
would have (04 R49, R54, R55, R58). -/
def Obligations.VectorFunctions : Prop :=
  ∀ (op : VOp) (t : ETy) (e : VEnv) (ra rb rc rd : Nat → Nat) (set : BitVec 1024) (i l : Nat), t.isFL = true →
    op ∈ [VOp.rcp t, .sqrt t, .rsq t, .exp t, .log t, .tanh t, .sig t] → l < t.lanes →
    let v := t.val (elemAt (ra i) t.width l)
    let r := elemAt (op.row e ra rb rc rd set i) t.width l
    (∀ x, specialOf op v = some x → r = t.round .rne 0 x) ∧
    (∀ (f : Flt) (s : Bool) (n : Nat) (x : Int), op ∈ [VOp.rcp t, .sqrt t, .rsq t] → specialOf op v = none → t.flt = some f → v = .fin s n x →
      let grid (k : Nat) : ℝ :=
        if k < 2 ^ f.mbits then k * (2 : ℝ) ^ f.uMin
        else (2 ^ f.mbits + k % 2 ^ f.mbits : Nat) * (2 : ℝ) ^ (f.uMin + (k / 2 ^ f.mbits : Nat) - 1)
      let z : ℝ := n * (2 : ℝ) ^ x
      let y : ℝ := match op with
        | .rcp _ => 1 / z
        | .sqrt _ => Real.sqrt z
        | _ => 1 / Real.sqrt z
      let m := r % 2 ^ (t.width - 1)
      (2 ^ (t.width - 1) ≤ r ↔ s = true) ∧ m ≤ f.maxCode + 1 ∧
      (m = 0 ∨ grid (m - 1) + grid m ≤ 2 * y) ∧ (m = f.maxCode + 1 ∨ 2 * y ≤ grid m + grid (m + 1)) ∧
      (grid (m - 1) + grid m = 2 * y ∨ 2 * y = grid m + grid (m + 1) → m % 2 = 0))

/-- VEXP, VLOG, VTANH and VSIG are correctly rounded wherever the exact result lies more than 2^-201 away from every boundary between two codes: a code that the
exact result is that much nearer to than to its neighbours is the result. (Rule R58 says so of every input; that no accepted input comes nearer to a boundary is a fact
about these four functions, which this statement does not claim.) (04 R49, R54, R55, R58). -/
def Obligations.VectorTranscendentals : Prop :=
  ∀ (op : VOp) (t : ETy) (f : Flt) (e : VEnv) (ra rb rc rd : Nat → Nat) (set : BitVec 1024) (i l n m : Nat) (s : Bool) (x : Int),
    t.isFL = true → t.flt = some f → op ∈ [VOp.exp t, .log t, .tanh t, .sig t] → l < t.lanes →
    t.val (elemAt (ra i) t.width l) = .fin s n x → specialOf op (.fin s n x) = none →
    let grid (k : Nat) : ℝ :=
      if k < 2 ^ f.mbits then k * (2 : ℝ) ^ f.uMin
      else (2 ^ f.mbits + k % 2 ^ f.mbits : Nat) * (2 : ℝ) ^ (f.uMin + (k / 2 ^ f.mbits : Nat) - 1)
    let z : ℝ := (if s then -1 else 1) * n * (2 : ℝ) ^ x
    let y : ℝ := match op with
      | .exp _ => Real.exp z
      | .log _ => Real.log z
      | .tanh _ => Real.tanh z
      | _ => 1 / (1 + Real.exp (-z))
    let gap : ℝ := (2 : ℝ) ^ (-200 : Int)
    m ≤ f.maxCode + 1 → (m = 0 ∨ grid (m - 1) + grid m + gap ≤ 2 * |y|) → (m = f.maxCode + 1 ∨ 2 * |y| + gap ≤ grid m + grid (m + 1)) →
    (y < 0 → elemAt (op.row e ra rb rc rd set i) t.width l = 2 ^ (t.width - 1) + m) ∧
    (0 < y → elemAt (op.row e ra rb rc rd set i) t.width l = m)

/-- Rounding to nearest, ties to even, into a floating-point format: a magnitude p·2^e whose result is finite is as near to it as to any finite code of the
format, and where another code is as near, the result's last bit is 0 (04 R49, R54, R55). -/
def Obligations.NearestEven : Prop :=
  ∀ (t : ETy) (f : Flt) (p : Nat) (e : Int), t.flt = some f → 0 < p →
    let c := f.round .rne 0 false p 1 e
    let g := min e f.uMin
    let mag (code : Nat) : Int := match f.val code with
      | .fin _ n x => Val.at false n x g
      | _ => 0
    let far (code : Nat) : Nat := (mag code - Val.at false p e g).natAbs
    c ≤ f.maxCode → ∀ code ≤ f.maxCode, far c ≤ far code ∧ (far c = far code → c = code ∨ c % 2 = 0)

/-- The mask words: PAND, POR, PXOR and PNOT write p[d] at T + 1, PSET the lanes of a row that are not zero at T + 2, PCNT the number of one bits and PFIRST
the index of the lowest, or 512, to s[d] at T + 2; p0 reads as ones (07 R138, R149). -/
def Obligations.MaskWords : Prop :=
  ∀ (s : State) (c : Ctx) (h : Head) (d a b : BitVec 4),
    (Issues s c (.pand h d a b) → exec (.pand h d a b) s =
      c.puts s 1 [c.eff 1 (.pmask d.toNat (c.tl.pmask a.toNat &&& c.tl.pmask b.toNat))]) ∧
    (Issues s c (.por h d a b) → exec (.por h d a b) s =
      c.puts s 1 [c.eff 1 (.pmask d.toNat (c.tl.pmask a.toNat ||| c.tl.pmask b.toNat))]) ∧
    (Issues s c (.pxor h d a b) → exec (.pxor h d a b) s =
      c.puts s 1 [c.eff 1 (.pmask d.toNat (c.tl.pmask a.toNat ^^^ c.tl.pmask b.toNat))]) ∧
    (Issues s c (.pnot h d a) → exec (.pnot h d a) s = c.puts s 1 [c.eff 1 (.pmask d.toNat (~~~ (c.tl.pmask a.toNat)))]) ∧
    (∀ t : ETy, Issues s c (.pset h t d a b) → ∃ m : BitVec 512, exec (.pset h t d a b) s = c.puts s 1 [c.eff 2 (.pmask d.toNat m)] ∧
      ∀ l, l < 512 → m.getLsbD l = (decide (l < 4096 / t.width) &&
        decide (elemAt (c.tl.row (physReg c.tl.rotb a) b.toNat).toNat t.width l ≠ 0))) ∧
    (Issues s c (.pcnt h d a) → exec (.pcnt h d a) s = c.puts s 1 [c.eff 2 (.reg d (BitVec.ofNat 64
      ((List.range 512).filter (fun l => (c.tl.pmask a.toNat).getLsbD l)).length))]) ∧
    (Issues s c (.pfirst h d a) → ∃ n, exec (.pfirst h d a) s = c.puts s 1 [c.eff 2 (.reg d (BitVec.ofNat 64 n))] ∧ n ≤ 512 ∧
      (∀ l, l < n → (c.tl.pmask a.toNat).getLsbD l = false) ∧ (n < 512 → (c.tl.pmask a.toNat).getLsbD n = true)) ∧
    c.tl.pmask 0 = BitVec.allOnes 512


/-! ## The matrix array -/

/-- The matrix words at T: MCLR clears at T + 1; MMA and its form read one K-block a tick and add each eight ticks later, and find the array free or are
schedule violations; MADDW reads a row group a tick and adds each eight ticks later; MREAD, its form and MPUSH need an accumulator with no addition
due after T, read it at T and land row groups at T + 16 + g; MSTAT reads PEND and SAT at T; MREAD, MADDW and MPUSH take four ticks (08 R163, R168 to
R177). -/
def Obligations.MatrixWords : Prop :=
  ∀ (s : State) (c : Ctx) (h : Head) (p : HeadP) (g : BitVec 3) (d a b : BitVec 4),
    let phys := physReg c.tl.rotb
    let block (m : Bool) (at' bt : ETy) (ta tb row pair : Nat) : Act :=
      let row2 := 2 * pair + (if bt.width = 4 then 2 else 1)
      .mmaAdd m at' bt (c.tl.row ta row) (c.tl.set ta (row / 2)) (decide (row % 2 = 1)) (c.tl.row tb (2 * pair)) (c.tl.row tb row2)
        (c.tl.set tb pair) (c.tl.set tb (row2 / 2))
    let busy (n : Nat) : State := c.onTile s (fun tl => { tl with arrayBusy := c.t + n })
    let pending (m : Bool) : Prop := ∃ e ∈ c.run.effs, e.tile = c.tile ∧ e.act.addsTo m = true ∧ c.t < e.due
    (Issues s c (.mclr h d) → exec (.mclr h d) s = c.puts s 1 [c.eff 1 (.mclr (d = 1))]) ∧
    (∀ t : ETy, Issues s c (.mma h t d a b) →
      (c.t < c.tl.arrayBusy → exec (.mma h t d a b) s = c.faults s 3) ∧
      (c.tl.arrayBusy ≤ c.t → exec (.mma h t d a b) s = c.puts (busy 1) 1 [c.eff 8 (block (d = 1) t t (phys a) (phys b) 0 0)])) ∧
    (∀ (m : Bool) (n : BitVec 5) (pair : BitVec 3) (row : BitVec 4) (bt at' : ETy),
      Issues s c (.mmaForm p g m n pair row bt at' b a) →
      (c.t < c.tl.arrayBusy → exec (.mmaForm p g m n pair row bt at' b a) s = c.faults s 3) ∧
      (c.tl.arrayBusy ≤ c.t → exec (.mmaForm p g m n pair row bt at' b a) s = c.puts (busy n.toNat) 1
        (c.eff 8 (block m at' bt (phys a) (phys b) row.toNat pair.toNat) ::
          (if n.toNat ≤ 1 then []
           else [c.eff 1 (.mmaBlk m at' bt (phys a) (phys b) (row.toNat + (if at'.width = 4 then 2 else 1))
            (pair.toNat + (if bt.width = 4 then 2 else 1)) (n.toNat - 1)) 1])))) ∧
    (Issues s c (.maddw h d a b) → exec (.maddw h d a b) s = c.puts s 4
      (c.eff 8 (.maddw (d = 1) (4 * b.toNat) ([0, 1, 2, 3].map (fun i => c.tl.row (phys a) i))) ::
        [1, 2, 3].map (fun j => c.eff j (.maddwRd (d = 1) (4 * b.toNat + j) (phys a) j) j))) ∧
    (∀ t : ETy, Issues s c (.mread h t d a b) →
      (pending (a = 1) → exec (.mread h t d a b) s = c.faults s 3) ∧
      (¬ pending (a = 1) → ∃ q : MRead, (q.ty = t ∧ q.rm = .rne ∧ q.bandA = 0x3F80 ∧ q.bandB0 = 0x3F80 ∧ q.bandB1 = 0x3F80) ∧
        exec (.mread h t d a b) s = c.puts s 4 ([0, 1, 2, 3].map (fun j => c.eff (16 + j)
          (.mread q (phys d) j ([0, 1, 2, 3].map (fun i => c.tl.accRow (a = 1) (16 * b.toNat + 4 * j + i)))) j)))) ∧
    (∀ (rm : RMode) (m : Bool) (b1 b0 ba : BitVec 16) (n : BitVec 2) (t : ETy), Issues s c (.mreadForm p g rm m a b1 b0 ba n t d) →
      (pending m → exec (.mreadForm p g rm m a b1 b0 ba n t d) s = c.faults s 3) ∧
      (¬ pending m → ∃ q : MRead, q = ⟨t, rm, ba, b0, b1, BitVec.ofNat 32 ((c.rd a).toNat / 2 ^ 32 + 16 * n.toNat),
          BitVec.ofNat 32 (c.rd a).toNat, c.tl.key, c.tl.drawCtr⟩ ∧
        exec (.mreadForm p g rm m a b1 b0 ba n t d) s =
          c.puts (if rm = .sr then c.onTile s (fun tl => { tl with drawCtr := tl.drawCtr + 1 }) else s) 4
            ([0, 1, 2, 3].map (fun j => c.eff (16 + j)
              (.mread q (phys d) j ([0, 1, 2, 3].map (fun i => c.tl.accRow m (16 * n.toNat + 4 * j + i)))) j)))) ∧
    (Issues s c (.mpush h d a b) →
      (pending (a = 1) → exec (.mpush h d a b) s = c.faults s 3) ∧
      (¬ pending (a = 1) → exec (.mpush h d a b) s = c.puts s 4 ([0, 1, 2, 3].map (fun j => c.eff (16 + j)
        (.rows ([0, 1, 2, 3].map (fun i => ⟨16 * phys d + 4 * j + i, BitVec.allOnes 4096, pushRow (c.tl.accRow (a = 1) (4 * b.toNat + j)) i⟩))
          [(8 * phys d + 2 * j, 0), (8 * phys d + 2 * j + 1, 0)]) j)))) ∧
    (∀ clr : Bool, Issues s c (.mstat h d a clr) → ∃ pend : Bool, (pend = true ↔ pending (a = 1)) ∧
      exec (.mstat h d a clr) s = c.puts s 1 (c.eff 1 (.reg d (BitVec.ofNat 64
        ((if pend then 2 else 0) + (if (if a = 1 then c.tl.sat1 else c.tl.sat0) then 1 else 0)))) ::
          (if clr then [c.eff 1 (.msatClr (a = 1)) 1] else [])))

/-- What the matrix array computes. An increment is added to its element exactly, saturating at the ends of W96, and SAT is set exactly where that happens; an INT8
or INT4 K-block's increment is the sum of its products; MADDW adds its W96 lanes; MCLR zeroes the accumulator; no other accumulator, register or
flag changes. MREAD's lanes are the elements times both band scales, rounded once, with +0 above column 127: a NaN band gives the canonical NaN, an
infinite one an infinity of the product's sign, and NaN where the element is 0; MPUSH's lanes are the elements, sign-extended (08 R164, R166, R167, R169,
R172, R175, R176).
The increments of the scaled types: an element takes the scale byte that covers eight of its row pair; of each scale block the products are summed exactly and rounded
once to a multiple of 2^-32, ties to even. Where a product is NaN, or infinities of both signs occur, the element stays; where a product is infinite
otherwise, it becomes the end of the range and SAT is set; else the blocks' sums are added, saturating (06 R107; 08 R164 to R167). -/
def Obligations.MatrixValues : Prop :=
  (let elem (t : Tile) (m : Bool) (r c : Nat) : Int := signed (elemAt (t.accRow m r).toNat 96 c) 96
  let clamp (x : Int) : Int := max (-(2 ^ 95)) (min (2 ^ 95 - 1) x)
  let past (x : Int) : Prop := x < -(2 ^ 95) ∨ 2 ^ 95 - 1 < x
  let sat (t : Tile) (m : Bool) : Bool := if m then t.sat1 else t.sat0
  (∀ (t : Tile) (k : SeqKind) (m : Bool) (aty bty : ETy) (aRow b0 b1 : BitVec 4096) (aSet s0 s1 : BitVec 1024) (aHi : Bool),
    tabWf 0 t.acc = true → (aty = bty ∧ (aty = .i8 ∨ aty = .i4)) →
    let u := t.land k (.mmaAdd m aty bty aRow aSet aHi b0 b1 s0 s1)
    let n := if aty = .i4 then 16 else 8
    let term (r c j : Nat) : Int := signed (elemAt aRow.toNat aty.width (n * r + j)) aty.width *
      signed (elemAt (if c < 64 then b0 else b1).toNat bty.width (n * (c % 64) + j)) bty.width
    let sum (r c : Nat) : Int := elem t m r c + 2 ^ 32 * ((List.range n).map (term r c)).sum
    (∀ r c, r < 64 → c < 128 → elem u m r c = clamp (sum r c)) ∧
    (sat u m = true ↔ sat t m = true ∨ ∃ r c, r < 64 ∧ c < 128 ∧ past (sum r c)) ∧
    (∀ r, r < 64 → u.accRow (!m) r = t.accRow (!m) r) ∧ sat u (!m) = sat t (!m) ∧
    u = { t with acc := u.acc, sat0 := u.sat0, sat1 := u.sat1 }) ∧
  (∀ (t : Tile) (k : SeqKind) (m : Bool) (row : Nat) (rows : List (BitVec 4096)), tabWf 0 t.acc = true → row < 64 → rows.length = 4 →
    let u := t.land k (.maddw m row rows)
    let sum (i l : Nat) : Int := elem t m row (32 * i + l) + signed (elemAt (rows.getD i 0).toNat 128 l % 2 ^ 96) 96
    (∀ i l, i < 4 → l < 32 → elem u m row (32 * i + l) = clamp (sum i l)) ∧
    (sat u m = true ↔ sat t m = true ∨ ∃ i l, i < 4 ∧ l < 32 ∧ past (sum i l)) ∧
    (∀ r, r ≠ row → r < 64 → u.accRow m r = t.accRow m r) ∧ (∀ r, r < 64 → u.accRow (!m) r = t.accRow (!m) r) ∧ sat u (!m) = sat t (!m) ∧
    u = { t with acc := u.acc, sat0 := u.sat0, sat1 := u.sat1 }) ∧
  (∀ (t : Tile) (k : SeqKind) (m : Bool) (r : Nat), r < 64 →
    let u := t.land k (.mclr m)
    u.accRow m r = 0 ∧ u.accRow (!m) r = t.accRow (!m) r ∧ u = { t with acc := u.acc }) ∧
  (∀ (t : Tile) (k : SeqKind) (q : MRead) (d g : Nat) (rows : List (BitVec 12288)), tabWf 0 t.rows = true → g < 4 → rows.length = 4 →
    (q.ty = .f32 ∨ q.ty = .bf16 ∨ q.ty = .f16) →
    let u := t.land k (.mread q d g rows)
    (∀ i c, i < 4 → c < q.ty.lanes →
      let x := elemAt (u.row d (4 * g + i)).toNat q.ty.width c
      let w := signed (elemAt (rows.getD i 0).toNat 96 c) 96
      let bandA := ETy.bf16.val q.bandA.toNat
      let bandB := ETy.bf16.val (if c < 64 then q.bandB0 else q.bandB1).toNat
      let id : Word := (q.row + BitVec.ofNat 32 (4 * g + i)) ++ (q.col + BitVec.ofNat 32 c)
      (128 ≤ c → x = 0) ∧
      (c < 128 →
        ((bandA.isNan || bandB.isNan) = true → x = canonNan q.ty) ∧
        ((bandA.isNan || bandB.isNan) = false → (bandA.isInf || bandB.isInf) = true →
          (w = 0 → x = canonNan q.ty) ∧
          (w ≠ 0 → some x = (infCode q.ty).map (fun y =>
            y + (if ((decide (w < 0) != bandA.sign) != bandB.sign) then 2 ^ (q.ty.width - 1) else 0)))) ∧
        ((bandA.isNan || bandB.isNan || bandA.isInf || bandB.isInf) = false →
          x = q.ty.round q.rm (if q.rm = .sr then drawWord q.key q.ctr id else 0) (((Val.ofInt w (-32)).mul bandA).mul bandB)))) ∧
    (∀ r n, n < 16 → (r ≠ d ∨ n / 4 ≠ g) → u.row r n = t.row r n) ∧ u = { t with rows := u.rows, before := u.before }) ∧
  (∀ (acc : BitVec 12288) (i l : Nat), i < 4 → l < 32 →
    elemAt (pushRow acc i).toNat 128 l = ((elemAt acc.toNat 96 (32 * i + l) |> BitVec.ofNat 96).signExtend 128).toNat)) ∧
  (∀ (t : Tile) (k : SeqKind) (m : Bool) (aty bty : ETy) (aRow b0 b1 : BitVec 4096) (aSet s0 s1 : BitVec 1024) (aHi : Bool),
    tabWf 0 t.acc = true → aty.isScaled = true → bty.isScaled = true → aty.width = bty.width →
    let elem (t : Tile) (r c : Nat) : Int := signed (elemAt (t.accRow m r).toNat 96 c) 96
    let sat (t : Tile) (m : Bool) : Bool := if m then t.sat1 else t.sat0
    let u := t.land k (.mmaAdd m aty bty aRow aSet aHi b0 b1 s0 s1)
    let n := if aty.width = 4 then 16 else 8
    let scaled (ty : ETy) (row : BitVec 4096) (set : BitVec 1024) (first l : Nat) : Val :=
      (ty.val (elemAt row.toNat ty.width l)).mul (scaleVal (elemAt set.toNat 8 ((first + l) / 8 % 128)))
    let a (r j : Nat) : Val := scaled aty aRow aSet (if aHi then aty.lanes else 0) (n * r + j)
    let b (c j : Nat) : Val :=
      if c < 64 then scaled bty b0 s0 0 (n * c + j) else scaled bty b1 s1 (if n = 8 then bty.lanes else 0) (n * (c - 64) + j)
    let units (v : Val) : Int := match v with
      | .fin s x e => Val.at s x e (-46)
      | _ => 0
    let rounded (x : Int) : Int := if 8192 < x % 16384 ∨ (x % 16384 = 8192 ∧ x / 16384 % 2 = 1) then x / 16384 + 1 else x / 16384
    let block (r c q : Nat) : Int := rounded ((List.range 8).map (fun j => units ((a r (8 * q + j)).mul (b c (8 * q + j))))).sum
    let sum (r c : Nat) : Int := elem t r c + ((List.range (n / 8)).map (block r c)).sum
    let infinite (r c : Nat) (s : Bool) : Prop := ∃ j, j < n ∧ (a r j).mul (b c j) = .inf s
    let invalid (r c : Nat) : Prop := (∃ j, j < n ∧ (a r j).mul (b c j) = .nan) ∨ (infinite r c false ∧ infinite r c true)
    let past (x : Int) : Prop := x < -(2 ^ 95) ∨ 2 ^ 95 - 1 < x
    (∀ r c, r < 64 → c < 128 →
      (invalid r c → elem u r c = elem t r c) ∧
      (¬ invalid r c → infinite r c true → elem u r c = -(2 ^ 95)) ∧
      (¬ invalid r c → infinite r c false → elem u r c = 2 ^ 95 - 1) ∧
      (¬ invalid r c → ¬ infinite r c true → ¬ infinite r c false → elem u r c = max (-(2 ^ 95)) (min (2 ^ 95 - 1) (sum r c)))) ∧
    (sat u m = true ↔ sat t m = true ∨ ∃ r c, r < 64 ∧ c < 128 ∧ ¬ invalid r c ∧
      (infinite r c true ∨ infinite r c false ∨ (¬ infinite r c true ∧ ¬ infinite r c false ∧ past (sum r c)))) ∧
    (∀ r, r < 64 → u.accRow (!m) r = t.accRow (!m) r) ∧ sat u (!m) = sat t (!m) ∧
    u = { t with acc := u.acc, sat0 := u.sat0, sat1 := u.sat1 })

/-! ## What falls due -/

/-- RESULT_WRITEBACK and MMA_BLOCK_ADD: the effect that is due takes place on its tile, and nothing else: a register of the stream that issued it (s0 keeps
no write), a form entry, masked rows, where a write of the same tick that was issued earlier leaves nothing, and whole scale sets, a mask, a control register (STICKY.DRIFTW clears where a one is written, a read-only number
ignores the write), the draw key, a bank's format, an accumulator or its flag, FRONT of a counter, or a fault of its instruction (01 R14; 05 R75, R79,
R81, R98; 06 R110; 07 R143; 12 R231). -/
def Obligations.Landings : Prop :=
  (∀ (s : State) (rid : Nat) (e : Eff) (u : Nat) (t : Tile), Falls s rid e u → ((fallen s rid e u).region rid).tiles[e.tile]? = some t →
    let f := fallen s rid e u
    let lands (t' : Tile) : Prop := exec (.resultWriteback rid) s = .next (f.setRegion rid ((f.region rid).setTile e.tile t'))
    let x := t.stream e.org.k
    (∀ d v, e.act = .reg d v → lands (t.setStream e.org.k { x with s := if d = 0 then x.s else tabSet 0 x.s d.toNat v })) ∧
    (∀ n v, e.act = .form n v → lands (t.setStream e.org.k { x with forms := tabSet 0 x.forms n v })) ∧
    (∀ ws sets, e.act = .rows ws sets → ∃ t', lands t' ∧ t' = { t with rows := t'.rows, sets := t'.sets, before := t'.before }) ∧
    (∀ n v, e.act = .pmask n v → lands (if n = 0 then t else { t with masks := tabSet 0 t.masks n v })) ∧
    (∀ v, e.act = .ctrl 0x07 v → lands (if v.getLsbD 0 then { t with driftw := false } else t)) ∧
    (∀ v, e.act = .ctrl 0x10 v → lands { t with drawCtr := v }) ∧
    (∀ v, e.act = .ctrl 0x11 v → lands { t with drawId := v }) ∧
    (∀ n v, e.act = .ctrl n v → n ≠ 0x07 → n ≠ 0x10 → n ≠ 0x11 → lands t) ∧
    (e.act = .driftw → lands { t with driftw := true }) ∧
    (∀ v, e.act = .key v → lands { t with key := v }) ∧
    (∀ b n, e.act = .fmt b n → ∃ t', lands t' ∧ t' = { t with banks := t'.banks } ∧
      (∀ o, o ≠ b → t'.bank o = t.bank o) ∧ (tabWf 0x0F t.banks = true → t'.fmt b = n ∧ t'.isCopy b = t.isCopy b)) ∧
    (∀ m, e.act = .mclr m → lands (t.mclr m)) ∧
    (∀ m, e.act = .msatClr m → lands (if m then { t with sat1 := false } else { t with sat0 := false })) ∧
    (∀ q d g rows, e.act = .mread q d g rows → lands (t.putRows (q.writes d g rows) [])) ∧
    (∀ m row rows, e.act = .maddw m row rows → lands (t.maddw m row rows)) ∧
    (∀ c v, e.act = .front c v → tabWf {} (f.region rid).ctrs = true → ∃ r', exec (.resultWriteback rid) s = .next (f.setRegion rid r') ∧
      (r'.ctr c).front = v ∧ (r'.ctr c).value = ((f.region rid).ctr c).value ∧ (∀ o, o ≠ c → r'.ctr o = (f.region rid).ctr o) ∧
      r'.tiles = (f.region rid).tiles) ∧
    (∀ cls cause addr, e.act = .fault cls cause addr →
      exec (.resultWriteback rid) s = .next (f.raise rid (e.org.fault e.due cls cause addr)))) ∧
  (∀ (s : State) (rid : Nat) (e : Eff) (u : Nat) (t : Tile) (m : Bool) (aty bty : ETy) (aRow b0 b1 : BitVec 4096) (aSet s0 s1 : BitVec 1024)
    (aHi : Bool), Falls s rid e u → ((fallen s rid e u).region rid).tiles[e.tile]? = some t →
    e.act = .mmaAdd m aty bty aRow aSet aHi b0 b1 s0 s1 →
    exec (.mmaBlockAdd rid) s = .next ((fallen s rid e u).setRegion rid (((fallen s rid e u).region rid).setTile e.tile
      (t.mmaAdd m aty bty aRow aSet aHi b0 b1 s0 s1)))) ∧
  (∀ (v w : RowW) (t : Tile) (b : Nat), tabWf 0 t.rows = true → b < 4096 →
    let old (u : Tile) : BitVec 4096 := u.row (w.key / 16) (w.key % 16)
    let after (x : BitVec 4096) : Bool := if w.mask.getLsbD b then w.val.getLsbD b else x.getLsbD b
    ((∀ x ∈ t.before, x.1 = t.tick → x.2.1 ≠ w.key) → (old (t.putRows [w] [])).getLsbD b = after (old t)) ∧
    ((∀ x ∈ t.before, x.1 = t.tick → x.2.1 ≠ w.key) → v.key = w.key → (old ((t.putRows [v] []).putRows [w] [])).getLsbD b = after (old t)))

/-- RUNNING_FORM_STEP: the next read of LSTRM, one tick on, of the next address; the next pop of SSTRM, whose empty queue is a schedule violation of the form at
that tick, with its address, and which goes no further where the form was cancelled at that tick (log 18); the next K-block of an MMA form, added eight ticks later; the next row group of MADDW, added eight ticks later (06 R122, R128; 08 R170, R175). -/
def Obligations.RunningForms : Prop :=
  ∀ (s : State) (rid : Nat) (e : Eff) (u : Nat) (t : Tile) (run : Run), Falls s rid e u →
    let f := fallen s rid e u
    let r := f.region rid
    r.tiles[e.tile]? = some t → r.run = some run →
    let next (act : Act) (left : Nat) : List Eff := if left ≤ 1 then [] else [mkEff e.org (e.due + 1) e.tile act (e.sub + 1)]
    (∀ q addr st k left j off h, e.act = .lstrm q addr st k left →
      Names r run.img.seam e.tile ⟨addr + BitVec.ofInt 64 (64 * st * k), false, 64, 512, true⟩ false j off h →
      exec (.runningFormStep rid) s = .next (f.emit rid
        (mkEff e.org (e.due + 1 + h) j (.bankRd (.ldq q off (e.due + 6 + 2 * h)) false) e.sub ::
          next (.lstrm q addr st (k + 1) (left - 1)) left))) ∧
    (∀ q addr st k left j off h, e.act = .sstrm q addr st k left →
      Names r run.img.seam e.tile ⟨addr + BitVec.ofInt 64 (64 * st * k), false, 64, 64, true⟩ false j off h →
      (t.queue (4 + q) = [] → exec (.runningFormStep rid) s =
        .next (f.raise rid (e.org.fault e.due 3 0 (addr + BitVec.ofInt 64 (64 * st * k))) e.sub)) ∧
      (∀ x xs, t.queue (4 + q) = x :: xs → left = 0 → exec (.runningFormStep rid) s =
        .next (f.setRegion rid (r.setTile e.tile (t.setQueue (4 + q) xs)))) ∧
      (∀ x xs, t.queue (4 + q) = x :: xs → left ≠ 0 → exec (.runningFormStep rid) s =
        .next ((f.setRegion rid (r.setTile e.tile (t.setQueue (4 + q) xs))).emit rid
          (mkEff e.org (e.due + 4 + h) j (.bankWr (.stq off x.ent)) e.sub :: next (.sstrm q addr st (k + 1) (left - 1)) left)))) ∧
    (∀ m aty bty ta tb row pair left, e.act = .mmaBlk m aty bty ta tb row pair left →
      let row2 := 2 * pair + (if bty.width = 4 then 2 else 1)
      exec (.runningFormStep rid) s = .next (f.emit rid
        (mkEff e.org (e.due + 8) e.tile (.mmaAdd m aty bty (t.row ta row) (t.set ta (row / 2)) (decide (row % 2 = 1)) (t.row tb (2 * pair))
            (t.row tb row2) (t.set tb pair) (t.set tb (row2 / 2))) e.sub ::
          next (.mmaBlk m aty bty ta tb (row + (if aty.width = 4 then 2 else 1)) (pair + (if bty.width = 4 then 2 else 1)) (left - 1)) left))) ∧
    (∀ m row a g, e.act = .maddwRd m row a g → exec (.runningFormStep rid) s =
      .next (f.emit rid [mkEff e.org (e.due + 8) e.tile (.maddw m row ([0, 1, 2, 3].map (fun i => t.row a (4 * g + i)))) e.sub]))


/-! ## The control stream -/

/-- Counters, formats, keys and seals on the control stream at T. CNTW faults where its counter was not bound or FRONT was below the value, or for the
tile's own releases; else it acquires, or its tile holds. CNTS binds its counter, raises FRONT at T + 1 and VALUE at the greater of T + 1 and D + 1, D being the last channel
tick of the tile's earlier writes, those that a later word of another tile has had judged already among them. BFMT sets the format of a timed bank at T + 1. DKEY sets the key at T + 1, its forms at T + 12 or the draw counter at T + 1. SEAL
and UNSEAL of a range of the home die, aligned to 2 MiB, are pending until the rendezvous; a full table and a range without an entry are seal faults
(04 R66, R67; 06 R110; 12 R228 to R231; 16 R275).
That CNTR reads FRONT as it stood at its tick is the model's reading (log 19). -/
def Obligations.ControlWords : Prop :=
  ∀ (s : State) (c : Ctx) (h : Head) (p : HeadP) (g : BitVec 3) (n : BitVec 8) (a b d fmt : BitVec 4),
    let k := n.toNat
    let v := c.rd a
    let x := c.r.ctr k
    let seen := c.r.frontAt c.run k c.t
    let aux : Word := BitVec.ofNat 64 k
    (Issues s c (.cntw h n a) →
      let open' : Prop := seen.2 = true ∧ v.toNat ≤ seen.1.toNat ∧ ¬ (x.ctx = 5 ∧ x.tile = c.tile ∧ x.value.toNat < v.toNat)
      (¬ open' → exec (.cntw h n a) s = c.faults s 9 0 aux) ∧
      (open' → v.toNat ≤ x.value.toNat →
        exec (.cntw h n a) s = .next (c.after (.done (s.setRegion c.rid (c.r.acquire c.org k v)) 1))) ∧
      (open' → x.value.toNat < v.toNat →
        exec (.cntw h n a) s = .next (c.after (.done (c.onTile s (fun tl => { tl with hold := .counter k v c.org })) 1)))) ∧
    (Issues s c (.cnts h n a) →
      let free : Prop := c.r.mayBind c.run k 5 c.tile c.tile c.t = true ∧ x.front.toNat < v.toNat
      (¬ free → exec (.cnts h n a) s = c.faults s 9 0 aux) ∧
      (free → ∃ due, exec (.cnts h n a) s =
          c.puts (s.setRegion c.rid (c.r.bind k 5 c.tile c.tile c.t x.front)) 1
            [c.eff 1 (.front k v), mkEff c.org due c.tile (.release k v) 1] ∧
        let write (u : Nat) : Prop := (∃ e ∈ c.run.effs, ∃ id pos va op, e.act = .chan id pos va op ∧ op ≠ .read ∧ e.org.tile = c.tile ∧
            e.org.issue < c.t ∧ e.due = u) ∨
          (∃ x ∈ c.run.chans, x.tile = c.tile ∧ x.read = false ∧ x.tick = u)
        c.t + 1 ≤ due ∧ (∀ u, write u → u + 1 ≤ due) ∧ (due = c.t + 1 ∨ ∃ u, write u ∧ due = u + 1))) ∧
    (Issues s c (.cntr h d n) → exec (.cntr h d n) s = c.puts s 1 [c.eff 1 (.reg d seen.1)]) ∧
    (Issues s c (.bfmt h fmt a) →
      (v.toNat < 48 → c.tl.isCopy v.toNat = false → exec (.bfmt h fmt a) s = c.puts s 1 [c.eff 1 (.fmt v.toNat fmt)]) ∧
      (48 ≤ v.toNat ∨ c.tl.isCopy v.toNat = true → exec (.bfmt h fmt a) s = c.faults s 2 v)) ∧
    (Issues s c (.dkey h a) → exec (.dkey h a) s = c.puts s 1 [c.eff 1 (.key v)]) ∧
    (Issues s c (.dkeySplit p g a b) → ∃ key : Word, exec (.dkeySplit p g a b) s = c.puts s 1 [c.eff 12 (.key key)] ∧
      key.extractLsb' 0 32 = (d10 c.tl.key (c.rd b) v).1 ∧ key.extractLsb' 32 32 = (d10 c.tl.key (c.rd b) v).2.1) ∧
    (Issues s c (.dkeySetCounter p g a b) → exec (.dkeySetCounter p g a b) s = c.puts s 1 [c.eff 1 (.ctrl 0x10 (c.rd b))]) ∧
    (∀ add : Bool, let i : Instr := if add then .sealR h a b else .unsealR h a b
      Issues s c i →
      let len := c.rd b
      let ranged : Prop := v.getLsbD 56 = true ∧ v.toNat / 2 ^ 57 = 0 ∧ v.toNat / 2 ^ 49 % 128 = 2 * s.time.member + c.rid / 16 ∧
        v.toNat % 2 ^ 21 = 0 ∧ len.toNat % 2 ^ 21 = 0 ∧ len ≠ 0 ∧ v.toNat % 2 ^ 49 + len.toNat ≤ 2 ^ 49
      let before (e : SealEff) : Bool := decide (e.org.issue < c.t ∨ (e.org.issue = c.t ∧ e.org.tile < c.tile))
      let mine (e : SealEff) : Bool := before e && e.base == v && e.len == len
      let room : Prop :=
        if add then c.r.seals.length + (c.run.seals.filter (fun e => e.add && before e)).length < 64
        else (c.run.seals.filter (fun e => !e.add && mine e)).length <
          (c.r.seals.filter (fun y => y == (v, len))).length + (c.run.seals.filter (fun e => e.add && mine e)).length
      (¬ ranged → exec i s = c.faults s 2 v) ∧
      (ranged → ¬ room → exec i s = c.faults s 7 v) ∧
      (ranged → room → exec i s = .next (c.after (.done
        (s.setRegion c.rid { c.r with run := some { c.run with seals := c.run.seals ++ [⟨c.org, add, v, len⟩] } }) 1))))

/-- COPY and COLL at T. Length, places, seal, order against earlier operations, counter and stamps are checked, each with its fault; of COLL first its
members and its rank. One that passes them all is recorded and waits, takes the next number of its counter, or that of the operation that it
joins, binds the counter, writes the number to s[NREG] at T + 1, and holds its tile where its context has no room; no byte moves. A line that
fails the snapshot rule is a memory fault of cause 3: nothing is registered and no number is taken (12 R228, R233 to R237; 13 R251 to R254; 16 R277;
17 R287).
That a COPY's conflict comes before its counter where both are wrong, which address a fault of several causes has, and how COLLs find their operation, is the
model's reading (log 19). -/
def Obligations.EngineWords : Prop :=
  ∀ (s : State) (c : Ctx) (h : HeadP) (g : BitVec 3) (wreg nreg lreg dreg sreg : BitVec 4) (wctr ctr : BitVec 6) (wen : Bool),
    let src := c.rd sreg
    let dst := c.rd dreg
    let len := c.rd lreg
    let k := ctr.toNat
    let wait : Option (Nat × Word) := if wen then some (wctr.toNat, c.rd wreg) else none
    let lenIn : Prop := len.toNat % 64 = 0 ∧ 64 ≤ len.toNat ∧ len.toNat ≤ 2 ^ 26
    let stamped (addr : Word) (set : Nat) : Out := .next (c.after (.stop s 5 3 addr 0 set))
    (∀ (dk sk sr cen x : Bool), Issues s c (.copy h g dk sk sr x wreg wen wctr cen ctr nreg lreg dreg sreg) →
      let i : Instr := .copy h g dk sk sr x wreg wen wctr cen ctr nreg lreg dreg sreg
      let ctx := if x then 1 else 0
      (¬ lenIn → exec i s = c.faults s 2 src) ∧
      (∀ bad, lenIn → c.copyPlaces s sk dk src dst len.toNat = .error bad → exec i s = c.faults s 2 bad) ∧
      ∀ ls ld dlen, lenIn → c.copyPlaces s sk dk src dst len.toNat = .ok (ls, ld, dlen) →
        let free : Prop := cen = true → c.r.mayBind c.run k ctx c.tile c.tile c.t = true ∧ (c.r.ctr k).front ≠ BitVec.allOnes 64
        let late (r : OpRange) : Bool := c.opConflict (copyCtx c.tile ctx) wait [r]
        let reads : OpRange := ⟨ls, len.toNat, false⟩
        let writes : OpRange := ⟨ld, dlen, true⟩
        let from' := s.register c.rid c.tile 0 (devLines ls len.toNat)
        (c.sealTrap ld dlen = true → exec i s = c.faults s 6 dst) ∧
        (c.sealTrap ld dlen = false → late reads = true → exec i s = c.faults s 3 src) ∧
        (c.sealTrap ld dlen = false → late reads = false → late writes = true → exec i s = c.faults s 3 dst) ∧
        (c.sealTrap ld dlen = false → late reads = false → late writes = false →
          (¬ free → exec i s = c.faults s 9 0 (BitVec.ofNat 64 k)) ∧
          (free → ∀ set, from' = .error set → exec i s = stamped src set) ∧
          (free → ∀ s1, from' = .ok s1 →
            let into := s1.register c.rid c.tile 1 (devLines ld dlen)
            (∀ set, into = .error set → exec i s = stamped dst set) ∧
            ∀ s2, into = .ok s2 →
              ∃ (t : State) (num : Word) (o : CopyOp), exec i s = c.puts t 1 [c.eff 1 (.reg nreg num)] ∧
                num = (if cen then (c.r.ctr k).front + 1 else 0) ∧
                (o.src = ls ∧ o.dst = ld ∧ o.len = len.toNat ∧ o.dlen = dlen ∧ o.tile = c.tile ∧ o.ctx = ctx ∧ o.num = num ∧
                  o.wait = wait ∧ o.st = .waiting ∧ o.key = c.tl.key ∧ o.sr = sr ∧ o.ctr = (if cen then some k else none) ∧
                  o.issue = c.t ∧ o.refused = none) ∧
                (t.region c.rid).run.map (·.copies) = some (c.run.copies ++ [o]) ∧
                (t.region c.rid).run.map (·.effs) = some c.run.effs ∧
                t.mem.hbm = s.mem.hbm ∧ t.mem.host = s.mem.host ∧ t.mem.stamps = s2.mem.stamps ∧
                (tabWf {} c.r.ctrs = true → ∀ j, (t.region c.rid).ctr j = if cen = true ∧ j = k
                  then { (c.r.ctr k).leave .bound with ctx := ctx, tile := c.tile, front := num } else c.r.ctr j) ∧
                (t.region c.rid).tiles = (if 16 ≤ (c.run.copyOpen c.tile ctx).length
                  then c.r.tiles.set c.tile { c.tl with hold := .context ctx c.org } else c.r.tiles)))) ∧
    (∀ (scope : CollScope) (root fanin count : BitVec 8) (ty : ETy) (red : CollRed) (pat : CollPat),
      let i : Instr := .coll h g scope root fanin count ty red pat wreg wen wctr ctr nreg lreg dreg sreg
      Issues s c i →
      ((c.rank scope = none ∨ ∃ rank, c.rank scope = some rank ∧ (c.members scope < count.toNat ∨ count.toNat ≤ rank)) →
        exec i s = c.faults s 11 src) ∧
      ∀ rank, c.rank scope = some rank → count.toNat ≤ c.members scope → rank < count.toNat →
        (¬ lenIn → exec i s = c.faults s 2 src) ∧
        (lenIn →
          let reads : Bool := pat != .broadcast || rank == root.toNat
          let writes : Bool := pat != .reduce || rank == root.toNat
          let dlen := if pat = .allgather then count.toNat * len.toNat else len.toNat
          let from' := if reads then c.collPlace s scope ty src len.toNat false else some (.va 0)
          let into := if writes then c.collPlace s scope ty dst dlen true else some (.va 0)
          (from' = none → exec i s = c.faults s 2 src) ∧
          (from'.isSome = true → into = none → exec i s = c.faults s 2 dst) ∧
          ∀ ls ld, from' = some ls → into = some ld →
            (writes = true → c.sealTrap ld dlen = true → exec i s = c.faults s 6 dst) ∧
            ((writes = true → c.sealTrap ld dlen = false) →
              let key := scope.ctx * 256 + rank
              let idx := tabGet 0 c.r.collCount key
              let old := c.r.collOp scope idx
              let q : Contrib :=
                { tile := c.tile, rank := rank, issue := c.t, src := ls, dst := ld, wait := wait, pat := pat, red := red, ty := ty,
                  count := count, fanin := fanin, root := root, len := len.toNat, ctr := k }
              let free : Prop := c.r.mayBind c.run k scope.ctx 0 c.tile c.t = true ∧
                (old = none → (c.r.ctr k).front ≠ BitVec.allOnes 64)
              let late (rs : List OpRange) : Bool := c.opConflict scope.ctx wait rs
              let lateFrom : Bool := late (if reads then [⟨ls, len.toNat, false⟩] else [])
              let lateInto : Bool := late (if writes then [⟨ld, dlen, true⟩] else [])
              let loads := s.register c.rid c.tile 0 (if reads then devLines ls len.toNat else [])
              (¬ free → exec i s = c.faults s 9 0 (BitVec.ofNat 64 k)) ∧
              (free → lateFrom = true → exec i s = c.faults s 3 src) ∧
              (free → lateFrom = false → lateInto = true → exec i s = c.faults s 3 dst) ∧
              (free → lateFrom = false → lateInto = false →
                (∀ set, loads = .error set → exec i s = stamped src set) ∧
                ∀ s1, loads = .ok s1 →
                  let stores := s1.register c.rid c.tile 1 (if writes then devLines ld dlen else [])
                  (∀ set, stores = .error set → exec i s = stamped dst set) ∧
                  ∀ s2, stores = .ok s2 →
                    ∃ (t : State) (num : Word), exec i s = c.puts t 1 [c.eff 1 (.reg nreg num)] ∧
                      num = (match old with
                        | some o => o.num
                        | none => (c.r.ctr k).front + 1) ∧
                      t.mem.hbm = s.mem.hbm ∧ t.mem.host = s.mem.host ∧ t.mem.stamps = s2.mem.stamps ∧
                      (∃ o ∈ (t.region c.rid).colls, o.scope = scope ∧ o.idx = idx ∧ o.num = num ∧ q ∈ o.parts) ∧
                      (∀ o ∈ c.r.colls, ¬ (o.scope = scope ∧ o.idx = idx) → o ∈ (t.region c.rid).colls) ∧
                      (tabWf 0 c.r.collCount = true → ∀ j, tabGet 0 (t.region c.rid).collCount j =
                        if j = key then idx + 1 else tabGet 0 c.r.collCount j) ∧
                      (tabWf {} c.r.ctrs = true → ∀ j, (t.region c.rid).ctr j =
                        if j = k ∧ (old = none ∨ (c.r.ctr k).st = .free)
                        then { (c.r.ctr k).leave .bound with ctx := scope.ctx, tile := 0, front := (if old = none then num else (c.r.ctr k).front) }
                        else c.r.ctr j) ∧
                      (let ops := (t.region c.rid).colls.filter (fun o => o.scope == scope && o.st != .done)
                       (t.region c.rid).tiles = (if (ops.drop 16).any (fun o => o.idx == idx)
                         then c.r.tiles.set c.tile { c.tl with hold := .context scope.ctx c.org } else c.r.tiles)) ∧
                      (t.region c.rid).run.map (·.effs) = some c.run.effs))))

/-- The engines and the holds. An operation starts once the one before it of its context is complete and its wait holds, and then completes: its counter's
VALUE takes its number. A copy fails where a translation was refused, its host side is behind a failed Neruo link, or a line of its source is lost; a
collective operation where its participants disagree, and then every destination stays, where a line or a peer is lost, or its fabric is split. One that
has failed sets ERR, with its number and address where it is the first, and its address is logged. A release falls due and raises VALUE. A
held tile goes on when its counter has reached its value, or its context has room, or its word is there (00 R11; 02 R27; 12 R229, R231, R235; 13 R254,
R257; 16 R264).
Which operation may still complete when a run faults is the model's reading (log 13).
What engine operations write. A copy, failed or not, and a participant's part of a collective operation, failed or not, touch the lines of their
destination alone. A copy to device or host memory stores its source's bytes; one from memory into a bank stores them with zero sidebands; one
between banks of one format moves whole lines, sidebands included, within a tile too; one between banks of two element formats rounds each element, a scaled one into
an unscaled format times its scale, in its mode, and keeps a scaled block's scale byte or writes 0x60. A collective result goes to its
destination's bytes and leaves sidebands; it is the root's source, the ranks' sources one after another, or of each element the combination over
the ranks in the tree of the fan-in, and for TOPK the first pairs in the order of selections (04 R61; 06 R107, R115; 12 R236; 13 R255, R256).
What a failed copy leaves in its destination's lines is a free value of the model (log 2, 32), and the address of a collective operation that fails without a
lost line is its choice (log 32). -/
def Obligations.EngineEvents : Prop :=
  ((∀ (s : State) (rid tile ctx : Nat), s.copyCanStart rid tile ctx = true →
    exec (.copyOpStart rid tile ctx) s =
      .next (s.setRegion rid ((s.region rid).modCopy tile ctx (fun o => { o with st := .started })))) ∧
  (∀ (s : State) (rid tile ctx : Nat) (o : CopyOp), (s.region rid).copyHead tile ctx = some o → (s.region rid).enginesRun = true →
    o.st = .started →
    let done (m : State) (failed : Option Word) : Prop := ∃ r', exec (.copyOpComplete rid tile ctx) s = .next (m.setRegion rid r') ∧
      r'.tiles = (m.region rid).tiles ∧
      r'.run = ((m.region rid).modCopy tile ctx (fun o => { o with st := .done })).run ∧
      r'.log = (m.region rid).log ++ (failed.toList.map (fun a => ⟨(m.region rid).asid, a, none⟩)) ∧
      (tabWf {} (m.region rid).ctrs = true → ∀ k, r'.ctr k =
        if o.ctr = some k then ((m.region rid).ctr k).complete o.num failed else (m.region rid).ctr k)
    let cut := o.usesHost = true ∧ s.neruoFailed = true
    let read := s.readLoc rid o.tile o.src o.hostSrc o.len
    (∀ a, o.refused = some a → done (s.copySpoil rid o) (some a)) ∧
    (o.refused = none → cut → done (s.copySpoil rid o) (some o.hostAddr)) ∧
    (o.refused = none → ¬ cut → ∀ i a more, read.2.2 = (i, a) :: more → done (read.1.copySpoil rid o) (some a)) ∧
    (o.refused = none → ¬ cut → read.2.2 = [] → done (read.1.copyMove rid o read.2.1) none)) ∧
  (∀ (s : State) (rid tile ctx : Nat) (pa : Option Word) (o : CopyOp) (va : Word), (s.region rid).copyHead tile ctx = some o →
    o.nextPage = some va →
    ∃ r' o', exec (.hostTranslationResponse rid tile ctx pa) s = .next (s.setRegion rid r') ∧ r'.copyHead tile ctx = some o' ∧
      (pa = none → o' = { o with refused := some va }) ∧
      (∀ a, pa = some a → o' = if (o.src.nextPage o.len o.hostSrc).isSome = true then { o with hostSrc := o.hostSrc ++ [a] }
        else { o with hostDst := o.hostDst ++ [a] })) ∧
  (∀ (s : State) (rid : Nat) (scope : CollScope) (peers : List Peer), (s.region rid).collCanStart scope peers = true →
    ∃ t o', exec (.collOpStart rid scope peers) s = .next t ∧
      (t.region rid).collHead scope = some o' ∧ o'.st = .started ∧ o'.peers = peers ∧
      (o'.failed = true ↔ o'.lost ≠ [] ∨ (scope = .fabric ∧ (s.region rid).split = true)) ∧
      ∀ (o : CollOp) (p : Contrib) (more : List Contrib), (s.region rid).collHead scope = some o → o.parts = p :: more →
        (∀ x ∈ o'.lost, x.2 = none) → o'.addr = (if p.pat != .broadcast || p.rank == p.root.toNat then p.src.addr else p.dst.addr)) ∧
  (∀ (s : State) (rid : Nat) (scope : CollScope) (o : CollOp), (s.region rid).collHead scope = some o → (s.region rid).enginesRun = true →
    o.st = .started →
    let differ := !o.agree (s.region rid) o.peers
    let broken := o.failed || (scope == .fabric && (s.region rid).split)
    let failed := if differ || broken then some o.addr else none
    ∃ t, exec (.collOpComplete rid scope) s = .next t ∧
      (t.region rid).log = (s.region rid).log ++ failed.toList.map (fun a => ⟨(s.region rid).asid, a, none⟩) ∧
      (differ = true → t.mem = s.mem ∧ (t.region rid).tiles = (s.region rid).tiles) ∧
      (∀ p more, o.parts = p :: more → differ = false →
        let v := collResult p.pat p.red p.ty p.fanin.toNat p.root.toNat p.len ((List.range p.count.toNat).map o.srcOf)
        let m := (o.parts.filter (fun q => q.pat != .reduce || q.rank == q.root.toNat)).foldl
          (fun s q => if broken then s.collSpoil rid o q v else s.collPut rid q v) s
        t.mem = m.mem ∧ (t.region rid).tiles = (m.region rid).tiles) ∧
      (tabWf {} (s.region rid).ctrs = true → ∀ k, (t.region rid).ctr k =
        if k = o.ctr then ((s.region rid).ctr k).complete o.num failed else (s.region rid).ctr k)) ∧
  (∀ (x : Ctr) (n : Word) (failed : Option Word),
    let y := x.complete n failed
    y.value.toNat = max x.value.toNat n.toNat ∧ y.err = (x.err || failed.isSome) ∧ y.front = x.front ∧ y.st = x.st ∧ y.ctx = x.ctx ∧
    y.tile = x.tile ∧ (∀ a, failed = some a → x.err = false → y.first = n ∧ y.addr = a) ∧
    (failed = none ∨ x.err = true → y.first = x.first ∧ y.addr = x.addr)) ∧
  (∀ (s : State) (rid : Nat) (e : Eff) (u k : Nat) (v : Word), Falls s rid e u → e.act = .release k v →
    let f := fallen s rid e u
    ∃ r', exec (.cntsRelease rid) s = .next (f.setRegion rid r') ∧ r'.tiles = (f.region rid).tiles ∧
      (tabWf {} (f.region rid).ctrs = true → ∀ j, r'.ctr j =
        if j = k then ((f.region rid).ctr k).complete v none else (f.region rid).ctr j)) ∧
  (∀ (s : State) (rid tile : Nat) (t : Tile), (s.region rid).tiles[tile]? = some t →
    let go : Region := (s.region rid).setTile tile { t with hold := .none }
    (∀ k n org run, t.hold = .counter k n org → (s.region rid).run = some run → n.toNat ≤ ((s.region rid).ctr k).value.toNat →
      exec (.counterHoldEnd rid tile) s = .next (s.setRegion rid (go.acquire org k n))) ∧
    (∀ ctx org, t.hold = .context ctx org → (s.region rid).contextFree ctx org = true →
      exec (.contextHoldEnd rid tile) s = .next (s.setRegion rid go)) ∧
    (∀ l, t.hold = .word l → exec (.physicalArrival rid tile) s = .next (s.setRegion rid go))) ∧
  (∀ (r : Region) (org : Org) (k : Nat) (n : Word) (run : Run), r.run = some run → ∃ run', r.acquire org k n = { r with run := some run' } ∧
    run'.acqs = run.acqs ++ [⟨org.tile, k, n, org.issue⟩] ∧
    (∀ e, e ∈ run'.effs ↔ e ∈ run.effs ∨ ((r.ctr k).err = true ∧ (r.ctr k).first.toNat ≤ n.toNat ∧
      e = mkEff org (org.issue + 1) org.tile (.fault 10 0 (r.ctr k).addr))))) ∧
  (let aligned (l : Loc) (n : Nat) : Prop := ∀ j q, l = .spad j q → q % 64 = 0 ∧ q / 64 + n / 64 ≤ 24576
  let sound (s : State) (rid : Nat) : Prop := Memory.wf s.mem.hbm = true ∧ Memory.wf s.mem.host = true ∧
    ∀ t ∈ (s.region rid).tiles, Memory.wf t.spad = true ∧ Memory.wf t.side = true
  let byte (data i : Nat) : Byte := BitVec.ofNat 8 (data / 2 ^ (8 * i))
  (∀ (s : State) (rid : Nat) (o : CopyOp) (data : Nat), sound s rid → o.sized (s.region rid) → aligned o.dst (o.dlen + 63) →
    WritesAt s (s.copyMove rid o data) rid o.tile o.dst o.dlen o.hostDst ∧ WritesAt s (s.copySpoil rid o) rid o.tile o.dst o.dlen o.hostDst) ∧
  (∀ (s : State) (rid : Nat) (o : CollOp) (q : Contrib) (v : Nat),
    let n := if q.pat = .allgather then q.count.toNat * q.len else q.len
    sound s rid → n % 64 = 0 → aligned q.dst n →
    WritesAt s (s.collPut rid q v) rid q.tile q.dst n [] ∧ WritesAt s (s.collSpoil rid o q v) rid q.tile q.dst n []) ∧
  (∀ (s : State) (rid tile : Nat) (v : Word) (pages : List Word) (n data : Nat) (run : Run), sound s rid → (s.region rid).run = some run → n % 64 = 0 →
    let t := s.writeVaLoc rid tile v pages 0 n data
    let place (i x : Nat) : Prop :=
      if v.getLsbD 56 then ∃ e, tlbFind run.img.tlb (v + BitVec.ofNat 64 (64 * i)) = some e ∧
        x = (s.region rid).keyThrough e tile (v + BitVec.ofNat 64 (64 * i))
      else hostAt v pages (64 * i) = some x
    (∀ i j x y, i < n / 64 → j < n / 64 → i ≠ j → place i x → place j y → x + 64 ≤ y ∨ y + 64 ≤ x) →
    ∀ i x b, i < n / 64 → place i x → b < 64 →
      memGet (if v.getLsbD 56 then t.mem.hbm else t.mem.host) (x + b) = byte data (64 * i + b)) ∧
  (∀ (s : State) (rid : Nat) (o : CopyOp) (v : Word) (data : Nat), o.dst = .va v →
    s.copyMove rid o data = s.writeVaLoc rid o.tile v o.hostDst 0 o.len data) ∧
  (∀ (s : State) (rid : Nat) (q : Contrib) (v : Word) (data : Nat), q.dst = .va v →
    s.collPut rid q data = s.writeVaLoc rid q.tile v [] 0 (if q.pat = .allgather then q.count.toNat * q.len else q.len) data) ∧
  (∀ (s : State) (rid j q data : Nat) (o : CopyOp) (t : Tile), o.dst = .spad j q → (s.region rid).tiles[j]? = some t → q % 64 = 0 →
    sound s rid → o.len % 64 = 0 → q / 64 + o.len / 64 ≤ 24576 →
    let fd := t.fmt (q / 32768)
    ∃ t', s.copyMove rid o data = s.setRegion rid ((s.region rid).setTile j t') ∧
      (∀ v, o.src = .va v → ∀ l, l < o.len / 64 → t'.line (q / 64 + l) = (BitVec.ofNat 512 (data / 2 ^ (512 * l)), 0)) ∧
      (∀ i p u, o.src = .spad i p → (s.region rid).tiles[i]? = some u →
        let fs := u.fmt (p / 32768)
        (fs = fd → ∀ l, l < o.len / 64 → t'.line (q / 64 + l) = u.line (p / 64 + l)) ∧
        (fs ≠ fd → (fmtTy fs = none ∨ fmtTy fd = none) → ∀ l, l < o.len / 64 →
          t'.line (q / 64 + l) = (BitVec.ofNat 512 (data / 2 ^ (512 * l)), 0)) ∧
        (fs ≠ fd → ∀ a b, fmtTy fs = some a → fmtTy fd = some b → o.len * 8 / a.width * b.width / 512 + q / 64 < 24576 →
          let count := o.len * 8 / a.width
          let blocks := 64 / a.width
          let scale (e : Nat) : Nat := slice (u.line (p / 64 + e / 8 / blocks)).2 (8 * (e / 8 % blocks)) 8
          let elem (e : Nat) : Val := a.val (elemAt data a.width e)
          let id : Word := BitVec.ofNat 64 (2 ^ 63 + 2 ^ 62 * o.ctx) + o.num
          (∀ e, e < count → elemAt (t'.bytes q (count * b.width / 8)) b.width e =
            b.round (if o.sr then .sr else .rne) (if o.sr then drawWord o.key id (BitVec.ofNat 64 e) else 0)
              (if a.isScaled = true ∧ b.isScaled = false then (elem e).mul (scaleVal (scale e)) else elem e)) ∧
          (b.isScaled = true → ∀ e, e < count → slice (t'.line (q / 64 + e * b.width / 512)).2 (8 * (e / 8 % (64 / b.width))) 8 =
            if a.isScaled then scale e else 0x60) ∧
          (b.isScaled = false → ∀ e, e < count → (t'.line (q / 64 + e * b.width / 512)).2 = 0)))) ∧
  (∀ (s : State) (rid j off data : Nat) (q : Contrib) (t : Tile), q.dst = .spad j off → (s.region rid).tiles[j]? = some t → off % 64 = 0 →
    let n := if q.pat = .allgather then q.count.toNat * q.len else q.len
    sound s rid → n % 64 = 0 → off / 64 + n / 64 ≤ 24576 →
    ∃ t', s.collPut rid q data = s.setRegion rid ((s.region rid).setTile j t') ∧
      ∀ l, l < n / 64 → t'.line (off / 64 + l) = (BitVec.ofNat 512 (data / 2 ^ (512 * l)), (t.line (off / 64 + l)).2)) ∧
  (∀ (pat : CollPat) (red : CollRed) (ty : ETy) (fanin root len : Nat) (srcs : List Nat), len % 64 = 0 → 0 < len → (∀ x ∈ srcs, x < 2 ^ (8 * len)) →
    let v := collResult pat red ty fanin root len srcs
    let w := ty.width
    let at' (e : Nat) : List Nat := srcs.map (fun x => elemAt x w e)
    (pat = .broadcast → root < srcs.length → srcs[root]? = some v) ∧
    (pat = .allgather → ∀ r x, srcs[r]? = some x → v / 2 ^ (8 * len * r) % 2 ^ (8 * len) = x) ∧
    ((pat = .allreduce ∨ pat = .reduce) →
      (∀ x, srcs = [x] → v = x) ∧
      (1 < srcs.length → srcs.length ≤ 128 → fanin ≠ 1 → red ≠ .topk → (ty.isFL || ty.isIN) = true → ∀ e, e < 8 * len / w →
        elemAt v w e = rankTree (fun a b => (laneOf (match red with
          | .max => .max ty
          | .min => .min ty
          | _ => .add ty) a b 0).getD 0) fanin 128 (at' e)) ∧
      (1 < srcs.length → srcs.length ≤ 128 → fanin ≠ 1 → red ≠ .topk → ty = .w96 → ∀ e, e < 8 * len / w →
        signed (elemAt v w e) w = rankTree (fun a b => match red with
          | .max => max a b
          | .min => min a b
          | _ => max (-(2 ^ 95)) (min (2 ^ 95 - 1) (a + b))) fanin 128 ((at' e).map (fun x => signed (x % 2 ^ 96) 96))) ∧
      (1 < srcs.length → red = .topk → (ty = .f32 ∨ ty = .i32 ∨ ty = .u32) →
        let k := len / 8
        let val (n : Nat) : Nat := elemAt (srcs.getD (n / k) 0) 32 (n % k)
        let idx (n : Nat) : Nat := elemAt (srcs.getD (n / k) 0) 32 (k + n % k)
        let above (x y : Nat) : Bool := decide (rankOf ty (val x) < rankOf ty (val y)) ||
          (decide (rankOf ty (val x) = rankOf ty (val y)) && (decide (idx y < idx x) || (decide (idx y = idx x) && decide (y < x))))
        ∀ n j, n < srcs.length * k → j < k → ((List.range (srcs.length * k)).filter (above n)).length = j →
          elemAt v 32 j = (if (ty.val (val n)).isNan then canonNan ty else val n) ∧ elemAt v 32 (k + j) = idx n))))

/-! ## Graphs -/

/-- The graph instructions and the counter instructions of a conductor. A word that drains stays until no step of the region is staging, staged or
running. STEP waits for a step before it, then its image is on its way to the tiles, or the run faults with the image's code. FENCE and CNTW wait
for their counters and take a copy fault where an operation they acquire has failed. SIGNAL and CNTS raise a counter that no engine owns. LAUNCH
records a child with the next ordinal and an entry of the pool; JOINC and END let the children run; END of a child returns to its parent. YIELDP yields a
region that is YIELDING; HOSTN posts an event (10 R200, R201; 11 R216, R222 to R226; 12 R232).
That a word which waits leaves the state as it is, is the model's reading (log 11), and so is that STEP and the words that drain wait for a step that is
to be staged again (log 15). -/
def Obligations.GraphWords : Prop :=
  ∀ (s : State) (c : CCtx) (d a b n : BitVec 4) (k code : BitVec 8),
    let r := c.r
    let drained : Prop := r.staging = none ∧ r.staged = none ∧ r.restage = none ∧ r.run = none
    let met (es : List (Nat × Word)) : Prop := ∀ e ∈ es, e.2.toNat ≤ (r.ctr e.1).value.toNat
    let fails (e : Nat × Word) : Prop := (r.ctr e.1).err = true ∧ (r.ctr e.1).first.toNat ≤ e.2.toNat
    let waits (i : Instr) (es : List (Nat × Word)) : Prop :=
      (¬ met es → exec i s = .next s) ∧ (met es → (∀ e ∈ es, ¬ fails e) → exec i s = .next (c.ends s c.g.s)) ∧
      (∀ before e after, es = before ++ e :: after → met es → (∀ x ∈ before, ¬ fails x) → fails e →
        exec i s = .next (s.condFault c.rid 10 0 c.g.pc c.word (r.ctr e.1).addr 0))
    let sets (i : Instr) : Prop :=
      let x := r.ctr k.toNat
      (x.st = .bound ∨ (c.rd a).toNat < x.value.toNat →
        exec i s = .next (s.condFault c.rid 9 0 c.g.pc c.word 0 (BitVec.ofNat 64 k.toNat))) ∧
      (x.st ≠ .bound → x.value.toNat ≤ (c.rd a).toNat → tabWf {} r.ctrs = true → ∃ t, exec i s = .next t ∧
        (t.region c.rid).graphs = (r.setGraph { c.g with pc := c.g.pc + 4 }).graphs ∧ (∀ o, o ≠ c.rid → t.region o = s.region o) ∧ t.mem = s.mem ∧
        (∀ j, j ≠ k.toNat → (t.region c.rid).ctr j = r.ctr j) ∧
        ((t.region c.rid).ctr k.toNat).value = c.rd a ∧ ((t.region c.rid).ctr k.toNat).front = c.rd a ∧
        ((t.region c.rid).ctr k.toNat).st = .signalled ∧ ((t.region c.rid).ctr k.toNat).err = (x.st != .free && x.err))
    let joins (i : Instr) : Prop := exec i s = .next (s.setRegion c.rid { r with begun := false })
    (∀ i, CondIssues s c i → ¬ drained →
      (i = .signal k a ∨ i = .hostn a code ∨ i = .yieldp ∨ i = .endConductor ∨ i = .cntrConductor d k) → exec i s = .next s) ∧
    (CondIssues s c (.condStep a b) →
      ((r.staging ≠ none ∨ r.staged ≠ none ∨ r.restage ≠ none ∨ r.st = .halting) → exec (.condStep a b) s = .next s) ∧
      (r.staging = none → r.staged = none → r.restage = none → r.st ≠ .halting →
        ∀ t res, s.readImage c.rid c.g (c.rd a) (c.rd b) = (t, res) →
        let u := t.setRegion c.rid { t.region c.rid with afterYield := false }
        (∀ n addr, res = .error (n, addr) → n ≠ 8 → exec (.condStep a b) s = .next (u.condFault c.rid 13 n c.g.pc c.word addr 0)) ∧
        (∀ img, res = .ok img → exec (.condStep a b) s = .next ((u.admission c.rid img.tlb).setRegion c.rid
          { (u.admission c.rid img.tlb).region c.rid with staging := some img, crc := [], restaging := false, stepPc := c.g.pc, stepWord := c.word }) ∧
          img.va = c.rd a ∧ img.param = c.rd b ∧ img.key = c.g.key ∧ 1 ≤ img.freezen ∧ img.freezen ≤ 1024 ∧ img.tregs ≤ 16 ∧ img.energy ≤ 15 ∧
          ∀ x ∈ img.circs, x.slot < x.period))) ∧
    (CondIssues s c (.fence a b n) →
      (c.fenceList s (c.rd a) (c.rd b) n.toNat = none →
        exec (.fence a b n) s = .next (s.condFault c.rid 2 0 c.g.pc c.word (c.rd a) 0)) ∧
      (∀ es, c.fenceList s (c.rd a) (c.rd b) n.toNat = some es → waits (.fence a b n) es)) ∧
    (∀ es, c.fenceList s (c.rd a) (c.rd b) n.toNat = some es ↔
      (c.rd a).toNat % 8 = 0 ∧ c.g.va.toNat ≤ (c.rd a).toNat ∧ (c.rd a).toNat + 8 * n.toNat ≤ c.g.va.toNat + 64 + c.g.clen ∧
      ∃ v, s.readVa c.rid (c.rd a) (8 * n.toNat) = some v ∧
        (∀ i, i < n.toNat → v / 2 ^ (64 * i + 6) % 4 = 0) ∧
        es = (List.range n.toNat).map (fun i =>
          (v / 2 ^ (64 * i) % 64, c.rd b + BitVec.ofNat 64 (v / 2 ^ (64 * i) % 2 ^ 64 / 256)))) ∧
    (CondIssues s c (.cntwConductor k a) → waits (.cntwConductor k a) [(k.toNat, c.rd a)]) ∧
    (CondIssues s c (.signal k a) → drained → sets (.signal k a)) ∧
    (CondIssues s c (.cntsConductor k a) → sets (.cntsConductor k a)) ∧
    (CondIssues s c (.cntrConductor d k) → drained →
      exec (.cntrConductor d k) s = .next (c.ends s (regSet c.g.s d (r.ctr k.toNat).value))) ∧
    (CondIssues s c (.launch d a b) →
      let object : Prop := (c.rd a).getLsbD 56 = true ∧ (c.rd a).toNat / 2 ^ 57 = 0 ∧ (c.rd a).toNat % 64 = 0
      let free : Prop := r.poolShared < 192 ∨ tabGet 0 r.poolRes (c.g.depth + 1) < 8
      (8 ≤ c.g.depth → exec (.launch d a b) s = .next (s.condFault c.rid 14 3 c.g.pc c.word (c.rd a) 0)) ∧
      (c.g.depth < 8 → ¬ object → exec (.launch d a b) s = .next (s.condFault c.rid 2 0 c.g.pc c.word (c.rd a) 0)) ∧
      (c.g.depth < 8 → object → (¬ free ∨ 0 < c.g.joined) → c.g.kids ≠ [] → joins (.launch d a b)) ∧
      (c.g.depth < 8 → object → ((free ∧ c.g.joined = 0) ∨ c.g.kids = []) → ∃ r', exec (.launch d a b) s = .next (s.setRegion c.rid r') ∧
        r' = { r with graphs := r'.graphs, poolShared := r'.poolShared, poolRes := r'.poolRes } ∧
        r'.graphs = (r.setGraph { c.g with
          pc := c.g.pc + 4, s := regSet c.g.s d (BitVec.ofNat 64 c.g.nextOrd), nextOrd := c.g.nextOrd + 1, joined := 0,
          kids := c.g.kids ++ [(c.g.nextOrd, c.rd a, c.rd b, decide (r.poolShared < 192))] }).graphs ∧
        (r.poolShared < 192 → r'.poolShared = r.poolShared + 1 ∧ r'.poolRes = r.poolRes) ∧
        (192 ≤ r.poolShared → r'.poolShared = r.poolShared ∧
          r'.poolRes = tabSet 0 r.poolRes (c.g.depth + 1) (tabGet 0 r.poolRes (c.g.depth + 1) + 1)))) ∧
    (CondIssues s c (.joinc d) →
      (c.g.kids ≠ [] → joins (.joinc d)) ∧
      (c.g.kids = [] → exec (.joinc d) s = .next (s.setRegion c.rid (r.setGraph
        { c.g with pc := c.g.pc + 4, s := regSet c.g.s d (BitVec.ofNat 64 c.g.joined), joined := 0 })))) ∧
    (CondIssues s c (.hostn a code) → drained →
      exec (.hostn a code) s = .next ((c.ends s c.g.s).post ⟨c.rid, 3, code.toNat, 0, c.rd a⟩)) ∧
    (CondIssues s c .yieldp → drained →
      let gs := (r.setGraph { c.g with pc := c.g.pc + 4 }).graphs
      let keep : Kept := ⟨gs, r.poolShared, r.poolRes, true, r.collCount⟩
      (r.st ≠ .yielding → exec .yieldp s = .next (s.setRegion c.rid
        { r with graphs := gs, afterYield := true, restart := some keep, sinceRecord := 0, measured := 0 })) ∧
      (r.st = .yielding → exec .yieldp s = .next ((s.setRegion c.rid
        { r with
          graphs := [], afterYield := true, restart := some keep, sinceRecord := 0, measured := 0, st := .yielded, holds := false, saved := false, tiles := [],
          begun := false, kept := some keep }).post ⟨c.rid, 2, 0, 3, 0⟩))) ∧
    (CondIssues s c .endConductor → drained →
      (c.g.kids ≠ [] → joins .endConductor) ∧
      (c.g.kids = [] → ∀ (g p : Graph) (up : List Graph), r.graphs = g :: p :: up → ∃ t, exec .endConductor s = .next t ∧
        (t.region c.rid).graphs = { p with joined := p.joined + 1 } :: up ∧ (t.region c.rid).ctrs = r.ctrs ∧
        (∀ o, o ≠ c.rid → t.region o = s.region o) ∧ t.mem.hbm = s.mem.hbm ∧
        (∀ x, x ∈ t.mem.rmSeals ↔ x ∈ s.mem.rmSeals ∧ (x.rid ≠ c.rid ∨ x.depth < c.g.depth))) ∧
      (c.g.kids = [] → ∀ g : Graph, r.graphs = [g] → tabWf {} r.ctrs = true → tabWf {} s.regions = true →
        ∃ t : State, exec .endConductor s = .next (t.setRegion c.rid (t.region c.rid).afterRun) ∧
        let x := t.region c.rid
        x.graphs = [] ∧ x.startQ = r.startQ ∧ x.st = r.st ∧ x.tiles = r.tiles ∧
        (x.ctr c.g.ctr).value = (r.ctr c.g.ctr).value + 1 ∧ (∀ j, j ≠ c.g.ctr → (x.ctr j).value = (r.ctr j).value) ∧
        (∀ j, (x.ctr j).st = .free ∧ (x.ctr j).front = (x.ctr j).value ∧ (x.ctr j).err = (r.ctr j).err) ∧
        (∀ y ∈ t.mem.rmSeals, y.rid ≠ c.rid) ∧ t.mem.hbm = s.mem.hbm))

/-- A graph run begins: the first queued START's where no graph runs, its counter SIGNALLED, its launch record in the patch buffer, key and registers
as the header says; or the next pending child of the run that joins, its key split from its parent's. A header that breaks its table, a PLEN above
PBLEN and a patch buffer that meets the object or the images, or that the region manager cannot write (of another die, unmapped, on a page without W, or in a
sealed range), end the run before its first word, by the lowest of their causes. STEP_STAGED: the step is STAGED, its planes are the
shadow planes, the measurement takes its image, and the STEP is done; a step that is staged again after a freeze changes neither, and one that the run
stages anew after it went back to its restart record is not measured again (04 R68; 05 R69; 11 R217, R219, R220, R226; 12 R227; 21 R322; 23 R349).
That the steps since the record are counted so is the model's reading (log 15), and so is cause 1 for a header or code on a page that is not
mapped (log 20). -/
def Obligations.GraphRuns : Prop :=
  let bits (hd lo len : Nat) : Nat := hd / 2 ^ lo % 2 ^ len
  let object (v : Nat) : Prop := v / 2 ^ 56 = 1 ∧ v % 64 = 0
  (∀ (s : State) (rid : Nat) (va : Word) (hd : Nat) (patch : Option (List Byte)),
    let inTable : Prop := bits hd 0 32 = 0x47524150 ∧ bits hd 32 16 ≤ Config.archRev ∧ bits hd 49 15 = 0 ∧ 4 ≤ bits hd 64 32 ∧
      bits hd 64 32 ≤ 65536 ∧ bits hd 64 32 % 4 = 0 ∧ bits hd 96 32 = 0 ∧ bits hd 256 13 ≤ 4096 ∧
      (bits hd 256 13 = 0 → bits hd 192 64 = 0) ∧ (bits hd 256 13 ≠ 0 → object (bits hd 192 64)) ∧ bits hd 269 115 = 0 ∧
      object (bits hd 384 64) ∧ bits hd 448 64 % 64 = 0
    (s.graphFault rid va none patch = some 1) ∧
    (s.graphFault rid va (some hd) patch = some 1 ↔ ¬ (inTable ∧ s.mapped rid va (64 + bits hd 64 32) false = true)) ∧
    (∀ p, patch = some p → inTable → s.mapped rid va (64 + bits hd 64 32) false = true → bits hd 256 13 < p.length →
      s.graphFault rid va (some hd) patch = some 2) ∧
    (let pbuf : Word := BitVec.ofNat 64 (bits hd 192 64)
     let pblen := bits hd 256 13
     let meets (a n : Nat) : Prop := 0 < pblen ∧ 0 < n ∧ pbuf.toNat < a + n ∧ a < pbuf.toNat + pblen
     let unfit : Prop := meets va.toNat (64 + bits hd 64 32) ∨ meets (bits hd 384 64) (bits hd 448 64) ∨
       (patch.isSome = true ∧ 0 < pblen ∧
         (s.inHome rid pbuf = false ∨ s.mapped rid pbuf pblen true = false ∨ s.isSealed rid pbuf pblen = true))
     inTable → s.mapped rid va (64 + bits hd 64 32) false = true → (∀ p, patch = some p → p.length ≤ pblen) →
       s.graphFault rid va (some hd) patch = if unfit then some 4 else none)) ∧
  (∀ (s : State) (rid : Nat) (l : Launch) (rest : List Launch),
    let r := s.region rid
    let begins : Prop := (r.st = .running ∨ r.st = .yielding) ∧ r.graphs = [] ∧ r.run = none ∧ r.startQ = l :: rest ∧ s.waiting rid = false
    let x := r.ctr l.ctr
    let s1 := s.setRegion rid { r with
      ctrs := tabSet {} r.ctrs l.ctr
        (if x.st = .free then { x with st := .signalled, err := false, first := 0, addr := 0, ctrOf := true }
         else { x with st := .signalled, ctrOf := true }),
      startQ := rest }
    begins →
    (∀ n, s1.graphFault rid l.graph (s1.readVa rid l.graph 64) (some l.patch) = some n →
      exec (.graphRunBegin rid) s = .next (s1.condFault rid 14 n 0 0 l.graph 0)) ∧
    (∀ hd, s1.readVa rid l.graph 64 = some hd → s1.graphFault rid l.graph (some hd) (some l.patch) = none →
      ∃ (t : State) (g : Graph), exec (.graphRunBegin rid) s = .next t ∧
        (t.region rid).graphs = [g] ∧ (t.region rid).begun = true ∧ (t.region rid).startQ = rest ∧
        g.va = l.graph ∧ g.clen = bits hd 64 32 ∧ g.pc = 64 ∧ g.s = [] ∧ g.depth = 0 ∧ g.ord = 0 ∧ g.arg = 0 ∧ g.kids = [] ∧ g.ctr = l.ctr ∧
        g.plen = l.patch.length ∧ g.pbuf = BitVec.ofNat 64 (bits hd 192 64) ∧
        g.key = BitVec.ofNat 64 (if hd.testBit 48 then bytesToNat (l.patch.take 8) else bits hd 128 64) ∧
        (t.region rid).restart = some ⟨[g], 0, [], false, r.collCount⟩ ∧
        (⟨rid, 0, g.va, 64 + g.clen⟩ : RmSeal) ∈ t.mem.rmSeals ∧
        (bits hd 448 64 ≠ 0 → (⟨rid, 0, g.imgBase, bits hd 448 64⟩ : RmSeal) ∈ t.mem.rmSeals) ∧
        t.mem.hbm = ((s1.sealRun rid 0 g).writeVa rid g.pbuf (bits hd 256 13) (bytesToNat l.patch)).mem.hbm)) ∧
  (∀ (s : State) (rid : Nat) (g : Graph) (up : List Graph) (ord : Nat) (va arg : Word) (shared : Bool)
    (kids : List (Nat × Word × Word × Bool)),
    let r := s.region rid
    (r.st = .running ∨ r.st = .yielding ∨ r.st = .halting) → r.graphs = g :: up → r.begun = false → s.waiting rid = false →
    (∀ run, r.run = some run → ∀ f ∈ run.faults, f.cls = 15) →
    g.kids = (ord, va, arg, shared) :: kids →
    (∀ n, s.graphFault rid va (s.readVa rid va 64) none = some n →
      exec (.graphRunBegin rid) s = .next (s.condFault rid 14 n 0 0 va 0)) ∧
    (∀ hd, s.readVa rid va 64 = some hd → s.graphFault rid va (some hd) none = none →
      ∃ (t : State) (child : Graph), exec (.graphRunBegin rid) s = .next t ∧
        (t.region rid).graphs = child :: { g with kids := kids } :: up ∧ (t.region rid).begun = true ∧
        child.va = va ∧ child.clen = bits hd 64 32 ∧ child.pc = 64 ∧ child.s = [] ∧ child.depth = g.depth + 1 ∧ child.ord = ord ∧ child.arg = arg ∧
        child.plen = 0 ∧ child.shared = shared ∧ child.key = d10Key g.key (BitVec.allOnes 64) (BitVec.ofNat 64 ord) ∧
        t.mem.hbm = s.mem.hbm)) ∧
  (∀ (s : State) (rid : Nat) (img : Img) (g : Graph) (up : List Graph),
    let r := s.region rid
    let shadow (x : Stream) (j : Nat) : Stream := { x with shadow := (img.planes[j]?).getD [] }
    let tiles := r.tiles.map (fun t => { t with
      ld := shadow t.ld 0, ex := shadow t.ex 1, st := shadow t.st 2, ct := shadow t.ct 3 })
    r.staging = some img → r.graphs = g :: up →
    (r.restaging = false → exec (.stepStaged rid) s = .next (s.setRegion rid { r with
      graphs := { g with pc := g.pc + 4 } :: up, staging := none, staged := some img,
      sinceRecord := r.sinceRecord + 1, measured := max r.measured (r.sinceRecord + 1),
      rmeas := if r.sinceRecord < r.measured then r.rmeas else sha256 (beBytes r.rmeas.toNat 32 ++
        beBytes (sha256 (natToBytes ((s.readVa rid img.va img.len).getD 0) img.len)).toNat 32),
      tiles := tiles })) ∧
    (r.restaging = true → exec (.stepStaged rid) s = .next (s.setRegion rid { r with
      staging := none, staged := some img, restaging := false, tiles := tiles })))

/-- The service instructions. Each writes a code to s[d]: 0 where it did what it says, 1 where its ASID belongs to no region, 5 where a reserved bit is set, and
its own. TLBIA drops the walk-cache entries of an ASID; TLBIV those that walks of the 1 GiB range of an address use which a valid leaf maps; PGRET retires the block behind an
address and stays until it is RETIRED; CELR copies an entry of the corrected-error log; RMCMD hands a descriptor to the region manager and stays until it
is taken (10 R208, R209; 16 R272, R281; 21 R331).
The lowest of several codes is the model's reading (log 20). -/
def Obligations.ServiceWords : Prop :=
  ∀ (s : State) (c : CCtx) (d a b : BitVec 4),
    let gives (i : Instr) (t : State) (code : Word) : Prop := exec i s = .next (c.ends t (regSet c.g.s d code))
    let va := c.rd a
    (CondIssues s c (.tlbia d a) →
      let asid := va.toNat % 1024
      let noOne : Prop := tabGet .free s.asids asid = .free ∧ tabGet .free s.asids (1024 + asid) = .free
      (noOne → gives (.tlbia d a) s 1) ∧
      (¬ noOne → va.toNat / 1024 ≠ 0 → gives (.tlbia d a) s 5) ∧
      (¬ noOne → va.toNat / 1024 = 0 → ∃ walk, gives (.tlbia d a) { s with mem := { s.mem with walk := walk } } 0 ∧
        ∀ x, x ∈ walk ↔ x ∈ s.mem.walk ∧ x.1 / 2 ^ 29 ≠ asid)) ∧
    (CondIssues s c (.tlbiv d a b) →
      let v := c.rd b
      let asid := va.toNat % 1024
      let inHalf : Prop := v.getLsbD 56 = true ∧ v.toNat / 2 ^ 57 = 0 ∧ v.toNat / 2 ^ 49 % 128 / 2 = s.time.member
      let owned : Prop := ∃ die rid, die < 2 ∧ tabGet .free s.asids (1024 * die + asid) = .bound rid
      (s.asidOwner asid v = none ↔ ¬ owned) ∧ (¬ owned → gives (.tlbiv d a b) s 1) ∧
      ∀ rid, s.asidOwner asid v = some rid →
      let leaf : Prop := inHalf ∧ (s.leafOf rid v).isSome = true
      (¬ leaf → gives (.tlbiv d a b) s 2) ∧
      (leaf → va.toNat / 1024 ≠ 0 → gives (.tlbiv d a b) s 5) ∧
      (leaf → va.toNat / 1024 = 0 → ∃ walk, gives (.tlbiv d a b) { s with mem := { s.mem with walk := walk } } 0 ∧
        ∀ x, x ∈ walk ↔ x ∈ s.mem.walk ∧ ¬ (x.1 / 2 ^ 29 = asid ∧
          ∃ e ∈ s.walkEntries (x.1 / 2 ^ 28 % 2) asid (v.toNat % 2 ^ 49), e % 2 ^ 28 = x.1 % 2 ^ 28))) ∧
    (CondIssues s c (.pgret d a) →
      let asid := (c.rd (a + 1)).toNat % 1024
      let ends (t : State) (code : Word) : Prop := exec (.pgret d a) s = .next (t.setRegion c.rid (c.r.setGraph
        { c.g with pc := c.g.pc + 4, s := regSet c.g.s d code, joined := 0 }))
      let waits (t : State) : Prop := exec (.pgret d a) s = .next (t.setRegion c.rid (c.r.setGraph { c.g with joined := 1 }))
      (s.asidOwner asid va = none → ends s 1) ∧
      ∀ rid, s.asidOwner asid va = some rid →
        (s.translate rid va = none → ends s 2) ∧
        ∀ key, s.translate rid va = some key →
          let ch := key / 2 ^ 31
          let blk := key % 2 ^ 31 / 65536
          let reserved : Prop := (c.rd (a + 1)).toNat / 1024 ≠ 0
          (∀ x, s.mem.retireOf ch blk = some x → x.retired = true → ends s (if 0 < c.g.joined then 0 else 3)) ∧
          (∀ x, s.mem.retireOf ch blk = some x → x.retired = false → reserved → c.g.joined = 0 → ends s 5) ∧
          (∀ x, s.mem.retireOf ch blk = some x → x.retired = false → (¬ reserved ∨ c.g.joined ≠ 0) → waits s) ∧
          (s.mem.retireOf ch blk = none → 32 ≤ tabGet 0 s.mem.spares ch → ends s 4) ∧
          (s.mem.retireOf ch blk = none → tabGet 0 s.mem.spares ch < 32 → reserved → ends s 5) ∧
          (s.mem.retireOf ch blk = none → tabGet 0 s.mem.spares ch < 32 → ¬ reserved →
            waits { s with mem := { s.mem with
              retire := s.mem.retire ++ [⟨ch, blk, tabGet 0 s.mem.spares ch, false, []⟩],
              spares := tabSet 0 s.mem.spares ch (tabGet 0 s.mem.spares ch + 1) } })) ∧
    (CondIssues s c (.celr d a) →
      let done (t : State) (code : Word) : Prop := exec (.celr d a) s = .next (t.setRegion c.rid
        ((t.region c.rid).setGraph { c.g with pc := c.g.pc + 4, s := regSet c.g.s d code }))
      let readable : Prop := va.toNat % 16 = 0 ∧ s.accessRefusal c.rid va 16 false = 0
      let t := (s.eccRange c.rid va 16).1
      (¬ readable → done s 3) ∧
      (readable → ((s.eccRange c.rid va 16).2 = false ∨ t.readVa c.rid va 16 = none) → done t 3) ∧
      ∀ v, readable → (s.eccRange c.rid va 16).2 = true → t.readVa c.rid va 16 = some v →
        let seq := v % 2 ^ 64
        let dst : Word := BitVec.ofNat 64 (v / 2 ^ 64)
        let writable : Prop := dst.toNat % 64 = 0 ∧ t.accessRefusal c.rid dst 128 true = 0
        (t.cel.head.toNat ≤ seq → done t 1) ∧
        (seq < t.cel.head.toNat → seq < t.cel.base.toNat → done t 2) ∧
        (seq < t.cel.head.toNat → t.cel.base.toNat ≤ seq → ¬ writable → done t 3) ∧
        (seq < t.cel.head.toNat → t.cel.base.toNat ≤ seq → writable →
          done (t.windowWrite c.rid dst 128 (tabGet 0 t.cel.entries (seq % 2 ^ 20)).toNat) 0)) ∧
    (CondIssues s c (.rmcmd d a) →
      let object : Prop := va.getLsbD 56 = true ∧ va.toNat / 2 ^ 57 = 0 ∧ va.toNat % 64 = 0
      ((¬ object ∨ s.readVa c.rid va 64 = none) → exec (.rmcmd d a) s = .next (s.condFault c.rid 2 0 c.g.pc c.word va 0)) ∧
      ∀ v, object → s.readVa c.rid va 64 = some v →
        let cmd : Cmd := ⟨.service c.rid, va, BitVec.ofNat 512 v⟩
        (¬ (s.canTake cmd.rid = true ∧ (s.region cmd.rid).cmdQ = []) → exec (.rmcmd d a) s = .next s) ∧
        ∀ t code, s.canTake cmd.rid = true → (s.region cmd.rid).cmdQ = [] → s.takeCmd cmd = (t, code) →
          ∀ g gs, (t.region c.rid).graphs = g :: gs → exec (.rmcmd d a) s = .next (t.setRegion c.rid { t.region c.rid with
            graphs := { g with pc := g.pc + 4, s := regSet g.s d (BitVec.ofNat 64 code) } :: gs }))


/-! ## Regions -/

/-- Region commands. A command waits behind earlier ones of its region, while the region is ZEROING, RESUMING or RELEASING, while the region waits to
post and while a fault of its step is handled, and is taken from the queue in its turn; the host's is lost while the Neruo link carries no traffic. It is refused with code 1 where a field is out of order, 2 where the region's state does
not list it, where the module is not READY, and for a service region's own RID unless it is START. START copies its patch and runs or queues its graph; YIELD and
FREEZE change the state, and FREEZE chooses F, the least declared freeze point at or above Tmax + 96, or is final at once; RELEASE abandons the run; PLACE takes
the first placement that all conditions admit, RESUME the placement that the search finds (10 R183, R189 to R194, R202, R209; 21 R323).
Host translation is a free function, the region manager's own commands make no requester record, and which waits of a faulted step a command ends
is the model's (log 4, 26, 27). -/
def Obligations.Commands : Prop :=
  (∀ (s : State) (c : Cmd) (i : Instr), i ∈ [.place c, .start c, .yieldCmd c, .freeze c, .resume c, .release c] →
    tabWf {} s.regions = true →
    let rid := c.desc.toNat / 2 ^ 8 % 32
    let cmd := c.desc.toNat % 256
    let r := s.region rid
    let comes : Prop := c.req ≠ .host ∨ s.neruoUp = true
    let faulting : Prop := ∃ run, r.run = some run ∧ run.stop ≠ none ∧ (r.pick ≠ none ∨ r.stopped = true)
    let busy : Prop := r.st = .zeroing ∨ r.st = .resuming ∨ r.st = .releasing ∨ s.waiting rid = true ∨ faulting
    let turn : Prop := s.cur = .queue ∧ r.cmdQ.head? = some c
    (¬ turn → ¬ comes → exec i s = .next s) ∧
    (¬ turn → comes → (busy ∨ r.cmdQ ≠ []) → exec i s = .next (s.setRegion rid { r with cmdQ := r.cmdQ ++ [c] })) ∧
    (turn → busy → exec i s = .next s) ∧
    ∀ q, (¬ turn ∧ r.cmdQ = [] ∧ q = [] ∧ comes) ∨ (s.cur = .queue ∧ r.cmdQ = c :: q) → ¬ busy →
      let t := s.setRegion rid { r with cmdQ := q }
      let refusedAt (t : State) (n : Nat) : Prop := exec i s = .next
        (if c.req = .manager then t.post ⟨rid, 1, n, cmd, 0⟩
         else (t.post ⟨rid, 1, n, cmd % 64, 0⟩).reqRecord 0 rid (t.refusalAddr c n) n)
      let refused (n : Nat) : Prop := refusedAt t n
      let taken (u : State) : Prop := exec i s = .next (u.post ⟨rid, 1, 0, cmd % 64, 0⟩)
      let legal : Prop := s.boot.st = 3 ∧ ¬ (c.req = .service rid ∧ cmd ≠ 2) ∧
        ((cmd = 1 ∧ r.st = .free) ∨
         (cmd = 2 ∧ (r.st = .placed ∨ r.st = .running ∨ r.st = .yielding ∨ r.st = .halting ∨ r.st = .frozen ∨ r.st = .yielded)) ∨
         ((cmd = 3 ∨ cmd = 4) ∧ (r.st = .running ∨ r.st = .yielding)) ∨
         (cmd = 5 ∧ (r.st = .frozen ∨ r.st = .yielded)) ∨ (cmd = 6 ∧ r.st ≠ .free))
      (c.inOrder = false → refused 1) ∧
      (c.inOrder = true → ¬ legal → refused 2) ∧
      (c.inOrder = true → legal →
        (cmd = 2 →
          let full : Prop := r.st ≠ .placed ∧ 8 ≤ (r.startQ.filter (fun l => l.now = false)).length
          let addr := c.desc.extractLsb' 192 64
          let n := c.desc.toNat / 2 ^ 256 % 2 ^ 13
          let x := if addr.getLsbD 56 then t.eccRange rid addr n else (t, true)
          (full → refused 8) ∧
          (¬ full → (x.2 = false ∨ x.1.readPatch rid addr n = none) → refusedAt x.1 10) ∧
          (∀ p, ¬ full → x.2 = true → x.1.readPatch rid addr n = some p → taken (x.1.setRegion rid { x.1.region rid with
            startQ := (x.1.region rid).startQ ++
              [⟨c.desc.extractLsb' 128 64, c.desc.toNat / 2 ^ 270 % 64, p, (x.1.region rid).st == .placed⟩],
            st := if (x.1.region rid).st = .placed then .running else (x.1.region rid).st }))) ∧
        (cmd = 3 → taken (t.setRegion rid { t.region rid with st := .yielding })) ∧
        (cmd = 4 →
          let v := t.post ⟨rid, 1, 0, 4, 0⟩
          (r.run = none → exec i s = .next ((v.setRegion rid { (v.region rid).dropShadow with st := .frozen }).post ⟨rid, 2, 0, 4, 0⟩)) ∧
          (∀ run, r.run = some run → 0 < run.img.freezen → ∃ F tmax,
            exec i s = .next (v.setRegion rid { v.region rid with st := .halting, run := some { run with f := some F } }) ∧
            (∀ tl ∈ r.tiles, tl.tick ≤ tmax) ∧ (r.tiles ≠ [] → ∃ tl ∈ r.tiles, tl.tick = tmax) ∧
            F % run.img.freezen = 0 ∧ tmax + 96 ≤ F ∧ F < tmax + 96 + run.img.freezen)) ∧
        (cmd = 5 →
          (∀ n, t.chooseResume rid c = .error n → refused n) ∧
          (∀ p, t.chooseResume rid c = .ok p → taken (t.setRegion rid { t.region rid with st := .resuming, place := p, holds := true }))) ∧
        (cmd = 6 → ∃ u, taken u ∧ (u.region rid).st = .releasing ∧ (u.region rid).graphs = [] ∧ (u.region rid).startQ = [] ∧
          (u.region rid).run = none ∧ (u.region rid).restart = none ∧ (∀ o, o ≠ rid → u.region o = s.region o) ∧
          (∀ x ∈ u.mem.rmSeals, x.rid ≠ rid) ∧ (r.run = none → u.mem.hbm = s.mem.hbm)) ∧
        (cmd = 1 → ∃ (slot : Option Nat) (w h k asid : Nat) (sm : Seam) (takes : Bool),
          w = c.desc.toNat / 2 ^ 16 % 16 + 1 ∧ h = c.desc.toNat / 2 ^ 20 % 8 + 1 ∧ k = c.desc.toNat / 2 ^ 36 % 16 ∧
          asid = c.desc.toNat / 2 ^ 40 % 1024 ∧ sm.axis = c.desc.toNat / 2 ^ 26 % 4 ∧ sm.pos = c.desc.toNat / 2 ^ 28 % 16 ∧
          slot = (if c.desc.getLsbD 55 then some (c.desc.toNat / 2 ^ 50 % 32) else none) ∧
          (takes = false ↔ ∃ n, slot = some n ∧ tabGet [] s.slots n ≠ []) ∧
          (∀ n, t.choosePlace rid c slot w h k asid sm takes = .error n → refused n) ∧
          (∀ p cs, t.choosePlace rid c slot w h k asid sm takes = .ok (p, cs) → c.desc.getLsbD 25 = true → (∃ o, c.req = .service o) →
            refused 9) ∧
          (∀ p cs, t.choosePlace rid c slot w h k asid sm takes = .ok (p, cs) →
            ¬ (c.desc.getLsbD 25 = true ∧ ∃ o, c.req = .service o) → ∃ u, exec i s = .next u ∧
            let x := u.region rid
            x.st = (if takes then .zeroing else .yielded) ∧ x.w = w ∧ x.h = h ∧ x.k = k ∧ x.cs = cs ∧ x.asid = asid ∧ x.place = p ∧
            x.holds = takes ∧ x.shared = slot.isSome ∧ x.service = c.desc.getLsbD 25 ∧ x.rotmask = c.desc.extractLsb' 32 4 ∧
            x.startQ = [] ∧ x.ctrs = [] ∧ x.graphs = [] ∧ x.run = none ∧ (∀ o, o ≠ rid → u.region o = s.region o) ∧
            (∀ die, die ∈ sideDies p w h sm → tabGet .free u.asids (1024 * die + asid) = .bound rid))))) ∧
  (∀ (s : State) (rid : Nat) (c : Cmd) (slot : Option Nat) (w h k asid : Nat) (sm : Seam) (takes : Bool),
    let cands := if c.explicit then [c.at'] else candidates c.rotmask
    let inRange : Prop := (if sm.axis = 0 then k ≤ 7 else 1 ≤ k ∧ k ≤ 8) ∧
      (sm.axis = 0 ∨ (1 ≤ sm.pos ∧ sm.pos ≤ (if sm.axis = 1 then w else h) - 1))
    let admits (p : Place) : Prop := s.fits rid slot p w h takes = true ∧ s.contextFits rid w h = true ∧ inRange ∧
      seamMet p w h sm = true ∧ (s.chooseChans rid (sideDies p w h sm) k).isSome = true ∧ s.asidFree (sideDies p w h sm) asid = true
    (∀ p cs, s.choosePlace rid c slot w h k asid sm takes = .ok (p, cs) →
      s.chooseChans rid (sideDies p w h sm) k = some cs ∧ admits p ∧ ∃ pre post, cands = pre ++ p :: post ∧ ∀ q ∈ pre, ¬ admits q) ∧
    ((∀ p ∈ cands, ¬ admits p) → ∃ n, s.choosePlace rid c slot w h k asid sm takes = .error n)) ∧
  (∀ (s : State) (rid : Nat) (slot : Option Nat) (p : Place) (w h : Nat) (takes : Bool), s.fits rid slot p w h takes = true → p.rot < 4 →
    (∀ x ∈ placePos p w h, s.good x = true ∧ x.1 < 16 ∧ x.2 < 8) ∧
    (takes = true → ∀ o q, (o, q) ∈ s.regions → o ≠ rid → q.holds = true → q.st ≠ .frozen → ∀ x ∈ placePos p w h, x ∉ placePos q.place q.w q.h))

/-- The states of a region's life end as 10 R190 and R192 to R198 lay down. ZEROING: every tile is zero and the region is PLACED. A FROZEN region
whose sites, or those of whose slot, another has taken is saved and holds no sites. RESUMING: a frozen region's drained effects fall due again and its streams go on; a yielded
one has zero tiles and its conductor back; the region is RUNNING, or PLACED where nothing is left to run; a step that was staged is staged again from its
image, once the errors in what is read are met; a granule lost there leaves the region YIELDED. RELEASING: the region is FREE, its ASID QUARANTINED,
until the die has dropped the ASID's entries (10 R202; 16 R273, R274, R280, R281).
What survives a restart, and when a lost granule of an image is met, are the model's readings (log 15, 16). -/
def Obligations.RegionLife : Prop :=
  (∀ (s : State) (rid : Nat),
    let r := s.region rid
    let meets (x : Nat × Region) : Prop := x.1 ≠ rid ∧ ((∃ q, q ∈ placePos x.2.place x.2.w x.2.h ∧ q ∈ placePos r.place r.w r.h) ∨
      (x.2.shared = true ∧ r.shared = true ∧ x.2.slot = r.slot))
    let clear : Prop := s.waiting rid = false ∧ ∀ x ∈ s.regions, x.2.st = .frozen → x.2.holds = true → ¬ meets x
    let thaw (x : Stream) : Stream := if x.st = .frozen then { x with st := x.was } else x
    (r.st = .zeroing → clear → exec (.zeroFillComplete rid) s =
      .next ((s.setRegion rid { r with st := .placed, tiles := List.replicate (r.w * r.h) {} }).post ⟨rid, 2, 0, 1, 0⟩)) ∧
    (r.st = .frozen → r.holds = true → (∃ x ∈ s.regions, x.2.holds = true ∧ x.2.st ≠ .frozen ∧ meets x) →
      exec (.contextSave rid) s = .next (s.setRegion rid { r with saved := true, holds := false })) ∧
    (r.st = .resuming → clear → (∀ t ∈ r.tiles, t.virgaSoft = []) →
      let back (x : Region) : Prop := exec (.resumeRestored rid) s = .next (((s.setRegion rid x).post ⟨rid, 2, 0, 5, 0⟩).stageAgain rid)
      (∀ k, r.kept = some k →
        let idle : Prop := k.graphs = [] ∧ r.run = none
        back { r with
          st := if idle ∧ r.startQ = [] then .placed else .running, saved := false, tiles := List.replicate (r.w * r.h) {}, graphs := k.graphs,
          begun := !k.graphs.isEmpty, poolShared := k.shared, poolRes := k.reserved, kept := none,
          startQ := if idle then r.startQ.mapIdx (fun i l => { l with now := l.now || i == 0 }) else r.startQ }) ∧
      (∀ run, r.kept = none → r.tiles ≠ [] → r.run = some run → ∃ run' : Run, back { r with
          st := .running, saved := false, run := some run',
          tiles := r.tiles.map (fun t => { t with
            ld := thaw t.ld, ex := thaw t.ex, st := thaw t.st, ct := thaw t.ct, virga := [], virgaSoft := [] }) } ∧
        run' = { run with effs := run'.effs, f := none } ∧
        ∀ e, e ∈ run'.effs ↔ e ∈ run.effs ∨ ∃ t ∈ r.tiles, ∃ src, (src, e) ∈ t.virga)) ∧
    (r.restage = none → s.stageAgain rid = s) ∧
    (∀ old g up, r.restage = some old → r.graphs = g :: up →
      let g' : Graph := { g with imgBase := old.va, imgLen := old.len, key := old.key }
      let reads := s.imageReads rid g' old.va old.param
      let later : Prop := s.eccBad rid reads = true ∧ r.run ≠ none
      (later → s.stageAgain rid = s) ∧
      (¬ later → (s.eccRanges rid reads).2 = false → r.st ≠ .releasing → ∀ k, r.restart = some k →
        ((s.stageAgain rid).region rid).st = .yielded ∧ ((s.stageAgain rid).region rid).kept = some k) ∧
      (¬ later → (s.eccRanges rid reads).2 = true →
        let u := (s.eccRanges rid reads).1
        let t := u.setRegion rid { u.region rid with restage := none }
        let res := t.readImage rid g' old.va old.param
        (∀ n addr, res.2 = .error (n, addr) → s.stageAgain rid = res.1.condFault rid 13 n r.stepPc r.stepWord addr 0) ∧
        (∀ img, res.2 = .ok img → ∃ u : State, s.stageAgain rid = u.setRegion rid { u.region rid with staging := some img, crc := [] } ∧
          u = res.1.admission rid img.tlb ∧ img.va = old.va ∧ img.param = old.param ∧ img.key = old.key))) ∧
    (r.st = .releasing → s.waiting rid = false → tabWf {} s.regions = true → tabWf 0 s.mem.store = true → ∃ (t : State), exec (.regionFreed rid) s = .next (t.post ⟨rid, 2, 0, 6, 0⟩) ∧
      t.region rid = { cmdQ := r.cmdQ, ctrs := r.ctrs, frames := r.frames, grant := r.grant, nextGrant := r.nextGrant,
                       evSeq := r.evSeq, rmeas := r.rmeas, log := r.log } ∧
      (∀ o, o ≠ rid → t.region o = s.region o) ∧ t.mem.hbm = s.mem.hbm ∧ tabGet 0 t.mem.store rid = 0 ∧
      t.asids = s.asids.map (fun x => if x.2 = .bound rid then (x.1, .quarantined) else x))) ∧
  (∀ (s : State) (die asid : Nat), tabWf .free s.asids = true →
    tabGet .free s.asids (1024 * die + asid) = .quarantined → ∃ t, exec (.quarantineSweepDone die asid) s = .next t ∧
    tabGet .free t.asids (1024 * die + asid) = .free ∧ (∀ x, x ≠ 1024 * die + asid → tabGet .free t.asids x = tabGet .free s.asids x) ∧
    t.regions = s.regions ∧ t.mem.hbm = s.mem.hbm ∧ ∀ x, x ∈ t.mem.walk ↔ x ∈ s.mem.walk ∧ x.1 / 2 ^ 28 ≠ 2 * asid + die)

/-- The life of a step. PLANE_SWAP: a STAGED step whose class is granted starts when no step runs: its planes, forms, banks and fills are loaded, lines that are not
live-in read as zero, queues, registers, masks and accumulators are zero, and the walker's values stand in s1 to s6. STEP_RENDEZVOUS: with every stream
ENDED and nothing in flight the step ends, its seals take effect in order, what it wrote is to be published, and at once where its run is over, and a FREEZE
that stands freezes. FREEZE_POINT: effects that are not
running forms move into the virga areas; VIRGA_DRAIN_DONE: the region is FROZEN where every area's entries fit, else a later point is chosen. STEP_STOP: a faulted step
ends its run, its frames in the window; a run that has lost a granule yields at its restart record, or freezes there where a FREEZE stands.
STEP_REEXECUTE and RUN_RESTART: lines that an atomic touched first are put back, and the step runs again with a new epoch, or the run
goes on from its restart record with zero tiles; its COLL numbers go back with it (05 R71, R75; 10 R194 to R197; 11 R215, R217, R218; 16 R276; 17 R283, R289; 21 R319 to R325).
When a faulted step has stopped, what a virga entry is, what a restart keeps, how faults of two kinds combine, which soft errors a plane swap drops, that the
mark and the bars of held tiles go at a freeze point and which writes a run that is over has published are the model's readings (log 13, 14, 15, 16, 21, 31, 33). -/
def Obligations.StepLife : Prop :=
  ∀ (s : State) (rid : Nat),
    let r := s.region rid
    let runs : Prop := (r.st = .running ∨ r.st = .yielding ∨ r.st = .halting) ∧ r.draining = false
    let undone (m : Mem) (run : Run) : Mem := run.undo.foldl
      (fun m u => if u.atomic then { m with hbm := memWrite m.hbm (64 * u.line) 64 u.data.toNat, stamps := tabSet 0 m.stamps u.line u.stamp } else m) m
    let starts (img : Img) (i : Nat) (t u : Tile) : Prop :=
      (∀ k x y, (k, x, y) ∈ [(0, t.ld, u.ld), (1, t.ex, u.ex), (2, t.st, u.st), (3, t.ct, u.ct)] →
        y.st = .running ∧ y.pc = 0 ∧ y.base = 0 ∧ y.loops = [] ∧ y.plane = (img.planes[k]?).getD [] ∧ y.forms = (img.forms[k]?).getD [] ∧
        y.shadow = x.plane ∧ regGet y.s 3 = BitVec.ofNat 64 i ∧ regGet y.s 4 = BitVec.ofNat 64 r.w ∧ regGet y.s 5 = BitVec.ofNat 64 r.h ∧
        regGet y.s 6 = img.param ∧ ∀ j : BitVec 4, (j = 0 ∨ 7 ≤ j.toNat) → regGet y.s j = 0) ∧
      (∀ n, img.nest = some n →
        let total := n.ext.foldl (· * ·) 1
        let p := r.w * r.h
        regGet u.ld.s 1 = BitVec.ofNat 64 (i * (total / p) + min i (total % p)) ∧
        regGet u.ld.s 2 = BitVec.ofNat 64 (total / p + if i < total % p then 1 else 0)) ∧
      u.tick = 0 ∧ u.hold = .none ∧ u.rotb = 0 ∧ u.rows = [] ∧ u.sets = [] ∧ u.masks = [] ∧ u.acc = [] ∧ u.queues = [] ∧ u.drawId = 0 ∧
      u.drawCtr = img.draws ∧ u.key = img.key ∧ u.banks = img.banks ∧ u.virga = [] ∧ u.drift = none ∧ u.armed = false ∧ u.wflag = 0 ∧
      (∀ x ∈ u.soft, x ∈ t.soft ∧ img.carried.getLsbD (x.1 / 10) = true) ∧
      (∀ l, l < 24576 → (∀ f ∈ img.fills, f.line ≠ l) → u.line l = if img.carried.getLsbD l then t.line l else (0, 0)) ∧
      (∀ pre f post, img.fills = pre ++ f :: post → f.line < 24576 → (∀ g ∈ post, g.line ≠ f.line) → u.line f.line = (f.data, f.side))
    let met (run : Run) : Prop := run.faults = [] ∧ run.effs = [] ∧ (∀ o ∈ run.copies, o.st = .done) ∧ (∀ o ∈ r.colls, o.st = .done) ∧
      ∀ t ∈ r.tiles, t.hold = .none ∧ ∀ k, k ∈ streamKinds → (t.stream k).st = .ended
    let firstNow (q : List Launch) : List Launch := q.mapIdx (fun i l => { l with now := l.now || i == 0 })
    (∀ img e, r.staged = some img → r.run = none → (r.st = .running ∨ r.st = .yielding) → r.grant = some e → img.energy ≤ e →
      ∃ t run, exec (.planeSwap rid) s = .next t ∧ (t.region rid).run = some run ∧ (t.region rid).staged = none ∧
        (t.region rid).steps = r.steps + 1 ∧ (t.region rid).tiles.length = r.tiles.length ∧
        (∀ o, o ≠ rid → t.region o = s.region o) ∧ t.mem = s.mem ∧ (t.region rid).colls = [] ∧ (t.region rid).collCount = r.collCount ∧
        run.collCount0 = r.collCount ∧ run.img = img ∧ run.epoch = r.steps % (2 ^ 19 - 1) + 1 ∧ run.effs = [] ∧ run.faults = [] ∧ run.copies = [] ∧ run.reexec = 0 ∧
        ∀ i a b, r.tiles[i]? = some a → (t.region rid).tiles[i]? = some b → starts img i a b) ∧
    (∀ (run : Run) (es : List SealEff), r.run = some run → runs → met run → es.Perm run.seals →
      es.Pairwise (fun a b => a.org.issue < b.org.issue ∨ (a.org.issue = b.org.issue ∧ a.org.tile < b.org.tile)) →
      let broke : Prop := r.graphs = [] ∧ r.condFault ≠ none ∧ s.broken rid = true
      ∃ t, ((broke ∨ r.st = .halting) → exec (.stepRendezvous rid) s = .next t) ∧
        (¬ broke → r.st ≠ .halting → exec (.stepRendezvous rid) s = .next (t.stageAgain rid)) ∧
        t.mem.hbm = s.mem.hbm ∧ (∀ o, o ≠ rid → t.region o = s.region o) ∧
        let x := t.region rid
        x.run = none ∧ x.graphs = r.graphs ∧
        x.seals = es.foldl (fun acc e => if e.add then acc ++ [(e.base, e.len)] else acc.erase (e.base, e.len)) r.seals ∧
        x.tiles.length = r.tiles.length ∧ (∀ u ∈ x.tiles, ∀ k, k ∈ streamKinds → (u.stream k).st = .empty) ∧
        (r.graphs ≠ [] → x.ctrs = r.ctrs) ∧ x.colls = [] ∧ x.collCount = (if r.graphs = [] then [] else r.collCount) ∧
        x.unpub = (if r.graphs = [] then [] else r.unpub ++ run.fresh) ∧
        x.st = (if broke then .releasing else if r.st = .halting then .frozen
          else if r.graphs ≠ [] then r.st else if r.startQ = [] then .placed else .running) ∧
        x.startQ = (if broke then [] else if r.st = .halting ∨ r.graphs ≠ [] then r.startQ else firstNow r.startQ) ∧
        x.condFault = (if r.graphs = [] then none else r.condFault)) ∧
    (∀ run F, r.run = some run → r.st = .halting → r.draining = false → run.f = some F → run.stop = none → ¬ met run → r.pick = none →
      (∀ t ∈ r.tiles, t.hold = .none) →
      let forms (a : Act) : Prop := (∃ op env g, a = .vec op env g) ∨ (∃ m w b g, a = .maddwRd m w b g) ∨
        (∃ m x y p q w b n, a = .mmaBlk m x y p q w b n) ∨ (∃ q v st k n, a = .lstrm q v st k n) ∨ (∃ q v st k n, a = .sstrm q v st k n)
      ∃ run' tiles, exec (.freezePoint rid) s = .next (s.setRegion rid { r with draining := true, mark := none, bars := [], run := some run', tiles := tiles }) ∧
        run' = { run with effs := run'.effs } ∧ (∀ e, e ∈ run'.effs ↔ e ∈ run.effs ∧ forms e.act) ∧
        tiles.length = r.tiles.length ∧ ∀ i t, r.tiles[i]? = some t → ∃ u, tiles[i]? = some u ∧ u = { t with virga := u.virga, tick := max t.tick (F - 1) } ∧
          ∀ e, (∃ src, (src, e) ∈ u.virga) ↔ e ∈ run.effs ∧ ¬ forms e.act ∧ e.tile = i) ∧
    (∀ run, r.run = some run → r.draining = true →
      let freeze (x : Stream) : Stream := { x with st := .frozen, was := x.st }
      ((∀ t ∈ r.tiles, t.virgaNeed run ≤ 768) → exec (.virgaDrainDone rid) s = .next ((s.setRegion rid { r.dropShadow with
          st := .frozen, draining := false,
          tiles := r.tiles.map (fun t => { t with drift := t.drift.map (fun d => (d.1, d.2.1, false)), ld := freeze t.ld, ex := freeze t.ex, st := freeze t.st, ct := freeze t.ct })
          }).post ⟨rid, 2, 0, 4, 0⟩)) ∧
      (∀ F, ¬ (∀ t ∈ r.tiles, t.virgaNeed run ≤ 768) → (∀ t ∈ r.tiles, t.virgaSoft = []) → run.f = some F → 0 < F → 0 < run.img.freezen →
        ∃ t run', exec (.virgaDrainDone rid) s = .next t ∧ (t.region rid).st = r.st ∧ (t.region rid).draining = false ∧
        (t.region rid).run = some run' ∧ (∃ G, run'.f = some G ∧ F + 95 ≤ G ∧ G % run.img.freezen = 0 ∧ G < F + 95 + run.img.freezen) ∧
        ∀ e, e ∈ run'.effs ↔ e ∈ run.effs ∨ ∃ u ∈ r.tiles, ∃ src, (src, e) ∈ u.virga)) ∧
    (∀ img, r.staged.or r.staging = some img →
      r.dropShadow = { r with staged := none, staging := none, crc := [], restage := some img, restaging := r.staged.isSome || r.restaging }) ∧
    (r.staged = none → r.staging = none → r.dropShadow = r) ∧
    (∀ run, r.run = some run →
      (r.ending run = .fatal ↔ (∃ f ∈ run.faults, f.cls ≠ 15 ∧ ∀ e ∈ run.faults, e.cls = 15 → e.cause = 1 → f.tick < e.tick) ∨
        (r.restart = none ∧ ((∃ f ∈ run.faults, f.cls = 15 ∧ f.cause = 2) ∨ r.mayReexecute run = false))) ∧
      (r.mayReexecute run = true ↔ run.badCarried = false ∧ run.fabric = false ∧ run.reexec < 2 ∧ ∀ t ∈ r.tiles, t.wflag &&& run.img.carried = 0)) ∧
    (∀ run, r.run = some run → r.stopped = true → r.ending run = .fatal →
      tabWf {} s.regions = true → tabWf {} r.ctrs = true →
      ∃ t, exec (.stepStop rid) s = .next t ∧ t.mem.hbm = s.mem.hbm ∧
        let x := t.region rid
        x.run = none ∧ x.graphs = [] ∧ x.staged = none ∧ x.restart = none ∧ x.condFault = none ∧ x.collCount = [] ∧
        x.st = (if s.broken rid = true then .releasing else if r.st = .halting then .frozen
          else if r.startQ = [] then .placed else .running) ∧
        x.startQ = (if s.broken rid = true then [] else if r.st = .halting then r.startQ else firstNow r.startQ) ∧
        (∀ j, (x.ctr j).st = .free) ∧
        (∀ i f, i < 16 → (r.frameFaults run ++ r.condFault.toList)[i]? = some f → x.frames[i]? = some (f.frame i r.steps)) ∧
        x.frames.length = min 16 (r.frameFaults run ++ r.condFault.toList).length) ∧
    (∀ run, r.run = some run → 0 < run.img.freezen → r.stopped = true → r.ending run = .reexecute →
      ∃ (t : State) (run' : Run), exec (.stepReexecute rid) s = .next t ∧ t.mem.hbm = (undone s.mem run).hbm ∧ (t.region rid).run = some run' ∧
        (t.region rid).steps = r.steps + 1 ∧ (t.region rid).graphs = r.graphs ∧ (t.region rid).ctrs = r.ctrs ∧
        (t.region rid).collCount = run.collCount0 ∧ (t.region rid).colls = [] ∧
        (r.st ≠ .halting → run'.f = none) ∧
        (r.st = .halting → ∃ F, run'.f = some F ∧ F % run.img.freezen = 0 ∧ 96 ≤ F ∧ F < 96 + run.img.freezen) ∧
        run'.img = run.img ∧ run'.reexec = run.reexec + 1 ∧ run'.epoch = r.steps % (2 ^ 19 - 1) + 1 ∧ run'.effs = [] ∧ run'.faults = [] ∧
        (∀ (i : Nat) (a : Tile), (t.region rid).tiles[i]? = some a → a.tick = 0 ∧ ∀ k, k ∈ streamKinds → (a.stream k).st = .running ∧ (a.stream k).pc = 0)) ∧
    (∀ run k, r.run = some run → r.restart = some k → k.graphs ≠ [] → r.stopped = true → r.ending run = .restart →
      ∃ t, exec (.runRestart rid) s = .next t ∧ t.mem.hbm = (undone s.mem run).hbm ∧
        let x := t.region rid
        x.run = none ∧ x.staged = none ∧ x.staging = none ∧ x.restage = none ∧ x.graphs = k.graphs ∧ x.poolShared = k.shared ∧
        x.poolRes = k.reserved ∧ x.afterYield = k.afterYield ∧ x.collCount = k.collCount ∧ x.restart = some k ∧
        x.sinceRecord = 0 ∧ x.measured = r.measured ∧ x.rmeas = r.rmeas ∧ x.ctrs = r.ctrs ∧ x.startQ = r.startQ ∧ x.tiles = List.replicate (r.w * r.h) {} ∧ x.st = (if r.st = .halting then .frozen else r.st)) ∧
    (∀ run k, r.run = some run → r.restart = some k → r.stopped = true → r.ending run = .lost →
      ∃ t, exec (.stepStop rid) s = .next t ∧ t.mem.hbm = (undone s.mem run).hbm ∧
        let x := t.region rid
        x.run = none ∧ x.restart = some k ∧
        (r.st ≠ .halting → x.st = .yielded ∧ x.holds = false ∧ x.tiles = [] ∧ x.kept = some k ∧ x.ctrs = r.ctrs) ∧
        (r.st = .halting → k.graphs ≠ [] → x.st = .frozen ∧ x.graphs = k.graphs ∧ x.poolShared = k.shared ∧ x.poolRes = k.reserved ∧
          x.afterYield = k.afterYield ∧ x.collCount = k.collCount ∧ x.tiles = List.replicate (r.w * r.h) {} ∧ x.ctrs = r.ctrs))


/-! ## Time, tenures and links -/

/-- Tenures and real time. TENURE_SAMPLE: 312,500 counts after a boundary the headroom is set from PCAP and Tj, a trip clears at 95 °C, and each region in ascending
RID is granted the highest class whose power fits what is left. TENURE_BOUNDARY, BOUNDARY_BEAT_TIMEOUT: every region applies its grant, a virtual device the least of
its members', and class 0 where a word is missing; each slot is chosen. TENURE_YIELD_TIMEOUT: a holder that has not yielded is frozen. Boundary beats name
B = f + 2,048; a PPS edge stores the second and the count; THERMAL_TRIP: H is 0 and every running region freezes. Words of
peers and beats come at the counts at which they are due, before the count goes past them (10 R203 to R207; 20 R313, R315;
23 R352 to R354, R356).
Grants before the first sample, split devices and the freezing of a late holder are the model's (log 9, 25, 26). -/
def Obligations.Tenures : Prop :=
  ∀ s : State,
    let n := s.time
    let ready : Prop := s.boot.st = 3
    let tj := s.power.tj.toNat
    let live (m : Nat) : Prop := s.livePairs (s.bundleOf m) ≠ []
    let comes (d : Nat) : Prop := n.count ≤ d ∧ ∀ x ∈ s.timeDue, d ≤ x.1
    let halts (r x : Region) : Prop := x.st = (if r.run = none then .frozen else .halting) ∧ x.graphs = r.graphs ∧ x.startQ = r.startQ ∧
      x.tiles = r.tiles ∧ x.ctrs = r.ctrs
    (ready → n.sampled = false → n.bprev + 312500 ≤ n.count →
      let trip := s.power.trip && !(decide (tj ≤ 95 * 64) && s.power.flowOk && !s.power.flowLow)
      let cap := s.power.pcap.toNat - 345
      let head := if trip then 0 else if tj ≤ 95 * 64 then cap else if 105 * 64 ≤ tj then 0 else cap * (105 * 64 - tj) / (10 * 64)
      ∃ (t : State) (used : Nat → Nat), exec .tenureSample s = .next t ∧
        t.power = { s.power with trip := trip, thead := BitVec.ofNat 11 head, tjReg := s.power.tj } ∧
        t.time = { n with sampled := true } ∧ t.mem = s.mem ∧ used 0 = 0 ∧ ∀ rid, rid < 32 →
          let r := s.region rid
          let g := (t.region rid).nextGrant
          let power (e : Nat) := 7 * (e + 1) * (r.w * r.h)
          t.region rid = { r with nextGrant := g, awaits := s.vdPeers r } ∧
          (r.st = .free → g = none ∧ used (rid + 1) = used rid) ∧
          (r.st ≠ .free →
            (∀ e, g = some e → e ≤ 15 ∧ used rid + power e ≤ 10 * head ∧ used (rid + 1) = used rid + power e ∧
              ∀ e', e < e' → e' ≤ 15 → 10 * head < used rid + power e') ∧
            (g = none → used (rid + 1) = used rid ∧ 10 * head < used rid + power 0))) ∧
    (∀ (i : Instr) (missed : Bool), ready → tabWf {} s.regions = true →
      ((i = .tenureBoundary ∧ missed = false ∧
          ((n.size = 1 ∧ n.nextTenure < 2000 ∧ n.secCount + 625000 * n.nextTenure ≤ n.count) ∨ (n.size ≠ 1 ∧ ∃ b, n.bnext = some b ∧ b ≤ n.count))) ∨
        (i = .boundaryBeatTimeout ∧ missed = true ∧ n.member ≠ 0 ∧ n.bnext = none ∧ n.bprev + 1250000 ≤ n.count)) →
      ∃ t, exec i s = .next t ∧ t.mem.hbm = s.mem.hbm ∧ t.time.bprev = n.count ∧ t.time.bnext = none ∧ t.time.nextTenure = n.nextTenure + 1 ∧
        t.time.sampled = false ∧ t.time.count = n.count ∧
        (missed = true → t.ring.modSeq ≠ s.ring.modSeq ∨ ∃ e ∈ t.ring.waiting, e.src = 32 ∧ e.kind = 6) ∧
        ∀ rid r, (rid, r) ∈ s.regions →
          let peers := s.vdPeers r
          let word (m : Nat) := tabGet 0 r.grantWords m
          let x := t.region rid
          x.grantWords = [] ∧ x.awaits = [] ∧
          ((r.split = true ∨ r.awaits ≠ []) → x.grant = some 0 ∧ x.split = true) ∧
          (r.split = false → r.awaits = [] → x.split = false ∧
            (∀ e, x.grant = some e ↔ ((∃ e0, r.nextGrant = some e0 ∧ e ≤ e0) ∧
              (∀ m ∈ peers, word m ≠ 0 → word m ≤ 16 ∧ e ≤ word m - 1) ∧
              (r.nextGrant = some e ∨ ∃ m ∈ peers, word m = e + 1))))) ∧
    (∀ slot rid, s.qualifies slot rid = true ↔
      let r := s.region rid
      r.shared = true ∧ r.slot = slot ∧ r.st ≠ .free ∧
      (r.graphs ≠ [] ∨ r.run ≠ none ∨ r.startQ ≠ [] ∨ ∃ k, r.kept = some k ∧ k.graphs ≠ []) ∧ ∃ g, r.grant = some g ∧ s.nextClass rid ≤ g) ∧
    (∀ rid img, (s.region rid).staged = some img → s.nextClass rid = img.energy) ∧
    (∀ (row : BitVec 512) (slot : Nat),
      let names := (if row.getLsbD (16 * slot + 5) then [(row.extractLsb' (16 * slot) 5).toNat] else []) ++
        (if row.getLsbD (16 * slot + 11) then [(row.extractLsb' (16 * slot + 6) 5).toNat] else [])
      ((∀ m ∈ names, s.qualifies slot m = false) → s.chooseSlot row slot = s) ∧
      (∀ pre rid post, names = pre ++ rid :: post → (∀ m ∈ pre, s.qualifies slot m = false) → s.qualifies slot rid = true →
        (s.slotHolder slot = some rid → s.chooseSlot row slot = s) ∧
        (s.slotHolder slot = none →
          s.chooseSlot row slot = { s with time := { n with swaps := n.swaps ++ [⟨slot, none, rid, none⟩] } }) ∧
        (∀ h, s.slotHolder slot = some h → h ≠ rid → h < 32 → ready → ((s.region h).st = .running ∨ (s.region h).st = .yielding) →
          ((s.chooseSlot row slot).region h).st = .yielding ∧ (s.chooseSlot row slot).time.swaps = n.swaps ++ [⟨slot, some h, rid, some (n.count + 312500)⟩] ∧
          ∀ o, o ≠ h → (s.chooseSlot row slot).region o = s.region o))) ∧
    (∀ x d, n.swaps.filter (fun y => y.late n) = [x] → x.due = some d → d ≤ n.count → ∃ t, exec .tenureYieldTimeout s = .next t ∧
      t.time.swaps = n.swaps.map (fun y => if y = x then { y with due := none } else y) ∧
      (∀ h, x.holder = some h → s.slotHolder x.slot = some h → h < 32 → ready → ((s.region h).st = .running ∨ (s.region h).st = .yielding) →
        halts (s.region h) (t.region h)) ∧
      (∀ h, x.holder = some h → s.slotHolder x.slot = some h → h < 32 → (s.region h).st = .placed → (s.region h).run = none →
        halts (s.region h) (t.region h)) ∧
      (x.holder = none → t.regions = s.regions)) ∧
    (∀ (rid m : Nat) (cls : BitVec 5),
      let r := s.region rid
      let expected : Prop := m ∈ r.awaits ∧ live m
      let due := n.bprev + 312500 + s.bundleLat (s.bundleOf m)
      (expected → comes due → exec (.grantWordArrival rid m cls) s =
        .next ({ s with time := { n with count := due } }.setRegion rid { r with
          grantWords := tabSet 0 r.grantWords m (cls.toNat + 1), awaits := r.awaits.erase m })) ∧
      (¬ expected → exec (.grantWordArrival rid m cls) s = .next s)) ∧
    (ready → n.member = 0 → n.size ≠ 1 → n.bnext = none → n.nextTenure < 2000 → n.secCount + 625000 * n.nextTenure ≤ n.count →
      exec .boundaryBeatSend s = .next { s with time := { n with bnext := some (n.count + 2048) } }) ∧
    (∀ b : Word, let due := b.toNat + s.bundleLat (s.bundleOf 0) - 2048
      n.member ≠ 0 → n.bnext = none → live 0 → comes due →
      exec (.boundaryBeatArrival b) s = .next { s with time := { n with count := due, bnext := some b.toNat } }) ∧
    (n.count = n.beat → n.beat % 4096 = 0 → s.boot.fabric = true → ∃ beats, exec .firmamentBeatSend s =
        .next { s with time := { n with beat := n.beat + 4096, beats := n.beats ++ beats } } ∧
      ∀ x, x ∈ beats ↔ ∃ b p ps, b < 63 ∧ s.livePairs b = p :: ps ∧
        x = ⟨s.peerOf b, n.count + (s.link (232 + p)).lat.toNat, n.count⟩) ∧
    (∀ (peer : Nat) (v : Word) (x : Beat), n.beats.find? (fun y => y.peer == peer) = some x →
      let t : State := { s with time := { n with beats := n.beats.erase x } }
      (v = BitVec.ofNat 64 x.value → exec (.firmamentBeatArrival peer v) s = .next t) ∧
      (v ≠ BitVec.ofNat 64 x.value → exec (.firmamentBeatArrival peer v) s = .next (t.failBundle (s.bundleOf peer)))) ∧
    (∀ sec : Word, exec (.ppsEdge sec) s = .next { s with
      time := { n with ppsok := true, tsec := sec, tcount := BitVec.ofNat 64 n.count, secCount := n.count, counted := 0, nextTenure := 0 } }) ∧
    (n.ppsok = false → n.member = 0 → n.secCount + 1250000000 ≤ n.count → ∃ k, exec .ppsSecondCount s = .next { s with
        time := { n with secCount := n.secCount + 1250000000, counted := n.counted + 1, nextTenure := k } } ∧
      n.count ≤ n.secCount + 1250000000 + 625000 * k ∧ (∀ j, j < k → n.secCount + 1250000000 + 625000 * j < n.count)) ∧
    (n.ppsok = true → n.tcount.toNat + 1875000000 ≤ n.count → exec .ppsokClear s = .next { s with time := { n with ppsok := false } }) ∧
    (∀ (x : BitVec 16) (ok low : Bool), s.world (.heat x ok low) = { s with power := { s.power with
      tj := x, flowOk := ok && !low, flowLow := low,
      tripping := s.power.tripping || ((decide (110 * 64 ≤ x.toNat) || low) && !s.power.trip) } }) ∧
    (s.power.tripping = true → s.power.trip = false → ∃ t, exec .thermalTrip s = .next t ∧
      t.power = { s.power with trip := true, tripping := false, thead := 0 } ∧ t.mem.hbm = s.mem.hbm ∧ ∀ rid, rid < 32 →
        (ready → ((s.region rid).st = .running ∨ (s.region rid).st = .yielding) → halts (s.region rid) (t.region rid)) ∧
        ((s.region rid).st ≠ .running → (s.region rid).st ≠ .yielding → t.region rid = s.region rid)) ∧
    (ready → ∀ (d : Nat) (i : Instr), (d, i) ∈ s.timeDue ↔
      (∃ x ∈ n.beats, d = x.due - 1 ∧ i = .firmamentBeatArrival x.peer (BitVec.ofNat 64 x.value)) ∨
      (∃ rid r m, (rid, r) ∈ s.regions ∧ m ∈ r.awaits ∧ live m ∧ d = n.bprev + 312500 + s.bundleLat (s.bundleOf m) ∧
        i = .grantWordArrival rid m (Config.peerGrant rid m n.bprev)) ∨
      ((∃ b, b < 63 ∧ s.livePairs b ≠ []) ∧ d = n.beat ∧ i = .firmamentBeatSend) ∨
      (n.ppsok = true ∧ d = n.tcount.toNat + 1875000000 ∧ i = .ppsokClear) ∨
      (n.ppsok = false ∧ n.member = 0 ∧ d = n.secCount + 1250000000 ∧ i = .ppsSecondCount) ∨
      (n.sampled = false ∧ d = n.bprev + 312500 ∧ i = .tenureSample) ∨
      (∃ x ∈ n.swaps, x.due = some d ∧ i = .tenureYieldTimeout) ∨
      (n.member = 0 ∧ n.size ≠ 1 ∧ n.bnext = none ∧ n.nextTenure < 2000 ∧ d = n.secCount + 625000 * n.nextTenure ∧
        i = .boundaryBeatSend) ∨
      (((n.size = 1 ∧ n.nextTenure < 2000 ∧ d = n.secCount + 625000 * n.nextTenure) ∨ (n.size ≠ 1 ∧ n.bnext = some d)) ∧
        i = .tenureBoundary) ∨
      (n.member ≠ 0 ∧ n.bnext = none ∧ d = n.bprev + 1250000 ∧ i = .boundaryBeatTimeout)) ∧
    (∀ t c i, s.timeNext = some (t, c, i) → ∃ d, (d, i) ∈ s.timeDue ∧ (∀ x ∈ s.timeDue, d ≤ x.1) ∧ c = .none ∧
      t = { s with time := { n with count := max n.count d } })

/-- Links. A link that trains locks, locks with less width where it is Neruo, or fails at the third attempt; its latency stays once it has left
TRAINING; Neruo goes on with 16 or 8 lanes; a hold of more than 16 µs is a failure. A change of state in READY is logged and posted. WIDTH of a fibre pair is the number of active
pairs of its bundle. A mesh or seam link
that fails ends the runs across it; a fibre pair is replaced by a spare, or its bundle goes on with the pairs it has, or every virtual device
across it splits (02 R27; 20 R301 to R304, R315; 21 R322).
Whether words were on a lost pair is a free value (log 2); the order of entries and events is the model's reading
(log 24). -/
def Obligations.Links : Prop :=
  (∀ (s : State) (k : Nat),
    let old := s.link k
    let becomes (l : Link) : State :=
      let u : State := { s with links := tabSet {} s.links k l }
      if s.boot.st = 3 ∧ old.st ≠ l.st then u.celLog 7 (0x300 + k) 0xFF 0 (some ⟨32, 6, 0, 0, u.linkWord k⟩) else u
    let pair : Prop := 232 ≤ k ∧ k < 488
    let full : BitVec 8 := if k < 232 then 1 else if k = 488 then 32 else 0
    let active (b : Nat) : Nat := ((s.bundlePairs b).filter (fun p => (s.link (232 + p)).st = .locked || (s.link (232 + p)).st = .degraded)).length
    let fixed (lat : BitVec 16) : BitVec 16 := if k < 224 then 2 else if k < 232 then 24 else if k = 488 then 0 else lat
    let more : Link := { old with fails := if old.fails = 255 then 255 else old.fails + 1, attempts := old.attempts + 1 }
    (∀ lat, old.st = .training → ¬ pair → exec (.linkTrainingDone k (.locked lat)) s = .next (becomes
      { old with st := .locked, lat := fixed lat, width := full, attempts := 0 })) ∧
    (∀ lat, old.st = .degraded → (pair → ∃ b, s.pairBundle (k - 232) = some b ∧ active b = 4) →
      exec (.linkTrainingDone k (.locked lat)) s = .next (becomes { old with st := .locked, width := full })) ∧
    (∀ lat w, old.st = .training → k = 488 → (w = 16 ∨ w = 8) →
      exec (.linkTrainingDone k (.degraded lat w)) s =
        .next (becomes { old with st := .degraded, lat := fixed lat, width := w, attempts := 0 })) ∧
    (old.st = .training → old.attempts < 2 →
      exec (.linkTrainingDone k .failedAttempt) s = .next { s with links := tabSet {} s.links k more }) ∧
    (old.st = .training → 2 ≤ old.attempts →
      exec (.linkTrainingDone k .failedAttempt) s = .next ({ s with links := tabSet {} s.links k more }.failLink k)) ∧
    (∀ lanes : BitVec 8, (old.st = .locked ∨ old.st = .degraded) →
      let w : BitVec 8 := if 16 ≤ lanes.toNat then 16 else 8
      (k = 488 → 8 ≤ lanes.toNat → w.toNat < old.width.toNat →
        exec (.linkLaneLoss k lanes) s = .next (becomes { old with st := .degraded, width := w })) ∧
      (k = 488 → 8 ≤ lanes.toNat → old.width.toNat ≤ w.toNat → exec (.linkLaneLoss k lanes) s = .next s) ∧
      (k ≠ 488 ∨ lanes.toNat < 8 → exec (.linkLaneLoss k lanes) s = .next (s.failLink k))) ∧
    ((old.st = .locked ∨ old.st = .degraded) → (pair ∨ ∃ x ∈ s.regions, ∃ t ∈ x.2.tiles, t.hold = .word k) →
      exec (.linkHoldTimeout k) s = .next (s.failLink k)) ∧
    (k = 488 → s.failLink k = becomes { old with st := .failed, width := 0 }) ∧
    (k < 232 → (((s.failLink k).link k).st = .failed ∧ ((s.failLink k).link k).width = 0) ∧ (∀ j, j ≠ k → (s.failLink k).link j = s.link j) ∧
      ∀ rid, rid < 32 →
        let r := s.region rid
        let across : Prop := r.holds = true ∧ (r.graphs ≠ [] ∨ r.run ≠ none ∨ r.startQ ≠ []) ∧ k ∈ footLinks (placePos r.place r.w r.h)
        (across → r.st ≠ .free → ((s.failLink k).region rid).st = .releasing) ∧ (¬ across → (s.failLink k).region rid = r)) ∧
    (∀ b, pair → s.pairBundle (k - 232) = some b → old.carries = true → b < 63 →
      let t := s.failLink k
      (t.link k).st = .failed ∧ (t.link k).fails = more.fails ∧ t.mem.hbm = s.mem.hbm ∧
      let fits (q : Nat) : Prop := q < 4 ∧ tabGet 0 s.spareFor (252 + q) = 0 ∧ (s.link (484 + q)).st = .training ∧
        Config.spareFits (252 + q) old.lat = true
      ((∃ p, fits p ∧ (∀ q, q < p → ¬ fits q) ∧ tabGet 0 t.spareFor (252 + p) = b + 1 ∧ (t.link (484 + p)).st = old.st ∧
          (t.link (484 + p)).lat = old.lat ∧ (t.link (484 + p)).peer = old.peer) ∨
        (∀ q, ¬ fits q) ∧ t.spareFor = s.spareFor ∧
        (∀ p, p ∈ s.bundlePairs b → p ≠ k - 232 → (s.link (232 + p)).carries = true → (t.link (232 + p)).st = .degraded ∧
          (t.link (232 + p)).lat = (s.link (232 + p)).lat) ∧
        ((∀ p, p ∈ s.bundlePairs b → p ≠ k - 232 → (s.link (232 + p)).carries = false) →
          ∀ rid, rid < 32 → (s.region rid).vdHas (s.peerOf b) = true → (t.region rid).split = true))) ∧
    (∀ b, b < 63 → (∀ p ∈ s.livePairs b, ((s.failBundle b).link (232 + p)).st = .failed) ∧
      ∀ rid, rid < 32 → (s.region rid).vdHas (s.peerOf b) = true → ((s.failBundle b).region rid).split = true) ∧
    (∀ b, pair → s.pairBundle (k - 232) = some b → s.linkWord k = Link.word { old with width := BitVec.ofNat 8 (active b) }) ∧
    (pair → s.pairBundle (k - 232) = none → s.linkWord k = Link.word { old with width := 0 }) ∧
    (¬ pair → s.linkWord k = old.word)) ∧
  (∀ l : Link, l.word.extractLsb' 0 3 = (match l.st with
      | .down => 0
      | .training => 1
      | .locked => 2
      | .degraded => 3
      | .failed => 4) ∧
    l.word.extractLsb' 3 5 = 0 ∧ l.word.extractLsb' 8 8 = l.fails ∧ l.word.extractLsb' 16 8 = l.peer ∧ l.word.extractLsb' 24 8 = l.width ∧
    l.word.extractLsb' 32 16 = l.lat ∧ l.word.extractLsb' 48 16 = 0)


/-! ## The host -/

/-- What the host writes. Before READY only the identity, boot and staging ranges answer, and nothing comes through while the Neruo link carries no traffic.
A counter takes a value that is not below its own and that no engine owns; the memory window carries out one access at a time, and refuses it with the lowest
reason; table stores, virtual-device records, the ring's registers and CELBASE take what their rules allow, and refuse and record the rest; a write of an offset
that is unlisted or only read is ignored. A waiting event is written into the ring, byte by byte where the host's
page lies. A host read shows it what a counter publishes. A block whose copy is done is RETIRED (12 R240; 16 R266, R279; 17 R288, R291; 20 R305 to R309, R314;
21 R326, R330; 23 R346, R355).
A memory-window read of lines of which the host has seen no publication is the present contents or earlier ones by free bits (17
R291; log 2, 33), without what a step may still take back (log 31); the TIME of an entry (log 25), a record's bits, the reasons of accesses that break several rules, the page of the ring and an offset that is no multiple of 8 are the model's (log 22,
28, 29, 34, 35). -/
def Obligations.HostWindows : Prop :=
  (∀ s : State,
    let reaches (i : Instr) (off : Nat) (t : State) : Prop :=
      (s.neruoUp = false → exec i s = .next s) ∧ (s.neruoUp = true → s.boot.st = 3 → exec i s = .next t) ∧
      (s.neruoUp = true → s.boot.st ≠ 3 → exec i s = .next (s.reqRecord 5 0xFF (BitVec.ofNat 64 off) 0))
    let refused (off : Nat) : State := s.reqRecord 5 0xFF (BitVec.ofNat 64 off) 0
    (∀ (rid k : Nat) (v : Word), rid < 32 → k < 64 →
      let off := 0x10000 + 0x400 * rid + 8 * k
      let r := s.region rid
      let x := r.ctr k
      reaches (.counterWindowWrite rid k v) off
        (if v.toNat < x.value.toNat then s.reqRecord 1 rid (BitVec.ofNat 64 off) 1
         else if x.st = .bound then s.reqRecord 1 rid (BitVec.ofNat 64 off) 2
         else s.setRegion rid { r with ctrs := tabSet {} r.ctrs k { x with
          st := .signalled, err := x.st != .free && x.err, first := if x.st = .free then 0 else x.first,
          addr := if x.st = .free then 0 else x.addr, value := v, front := v } })) ∧
    (∀ write : Bool, reaches (if write then .memoryWindowWrite else .memoryWindowRead) 0x100010
      (if s.win.busy then s.reqRecord 2 ((s.asidOwner s.win.asid.toNat s.win.va).getD 0xFF) 0x100010 6
       else { s with win := { s.win with write := write, err := false, done := false, reason := 0, busy := true } })) ∧
    (∀ (die : Nat) (off : BitVec 28) (v : Word), die < 2 → reaches (.tableStoreWrite die off v) (0x20000000 + 0x10000000 * die + off.toNat)
      { s with mem := { s.mem with table := memWrite s.mem.table (die * 2 ^ 28 + off.toNat / 8 * 8) 8 v.toNat } }) ∧
    (∀ (rid : Nat) (v : BitVec 640), rid < 32 →
      let r := s.region rid
      let members := (v.extractLsb' 32 8).toNat
      let rank := (v.extractLsb' 40 8).toNat
      let at' (i : Nat) : Nat := (v.extractLsb' (128 + 8 * i) 8).toNat
      let off := 0x20000 + 0x80 * rid
      let reason (n : Nat) : Prop := match n with
        | 1 => r.staged ≠ none ∨ (r.restage ≠ none ∧ r.restaging = true) ∨ r.run ≠ none
        | 2 => v.getLsbD 0 = true ∧ members ≤ rank
        | 3 => ∃ i j, i < j ∧ j < members ∧ j < 64 ∧ at' i = at' j
        | 4 => ∃ i, i < members ∧ i < 64 ∧ s.time.size ≤ at' i
        | 5 => rank < members ∧ rank < 64 ∧ at' rank ≠ s.time.member
        | 6 => (v.extractLsb' 1 15 ≠ 0 ∨ v.extractLsb' 48 80 ≠ 0) ∨ 64 < members ∨ ∃ i, i < 64 ∧ members ≤ i ∧ at' i ≠ 0
        | _ => False
      ((∀ n, ¬ reason n) → reaches (.vdRecordWrite rid v) off (s.setRegion rid { r with vd := v, split := false, grantWords := [], awaits := [] })) ∧
      (∀ n, reason n → (∀ m, m < n → ¬ reason m) → reaches (.vdRecordWrite rid v) off (s.reqRecord 4 rid (BitVec.ofNat 64 off) n))) ∧
    (∀ v : Word, tabWf {} s.regions = true → ∃ t, reaches (.eventRingHeadWrite v) 0x6050 t ∧
      t = { s with ring := { s.ring with head := v }, regions := t.regions } ∧ ∀ rid, t.region rid = { s.region rid with
        shown := (s.region rid).shown.filter (fun x => (x.event.map (fun i => decide (v.toNat ≤ i))).getD true) }) ∧
    (∀ v : Word, reaches (.eventRingConfigWrite true v) 0x6040
      (if s.ring.head = s.ring.tail then { s with ring := { s.ring with base := v } } else refused 0x6040)) ∧
    (∀ v : Word, let size : Prop := ∃ n, 6 ≤ n ∧ n ≤ 16 ∧ v.toNat = 2 ^ n
      (s.ring.head = s.ring.tail → size → reaches (.eventRingConfigWrite false v) 0x6048 { s with ring := { s.ring with size := v } }) ∧
      (¬ (s.ring.head = s.ring.tail ∧ size) → reaches (.eventRingConfigWrite false v) 0x6048 (refused 0x6048))) ∧
    (∀ v : Word, reaches (.celbaseWrite v) 0x8008
      (if v.toNat % 4096 = 0 ∧ s.cel.base.toNat ≤ v.toNat ∧ v.toNat ≤ s.cel.head.toNat / 4096 * 4096
       then { s with cel := { s.cel with base := v } } else refused 0x8008)) ∧
    (s.win.busy = true → s.neruoUp = true →
      let w := s.win
      let asid := w.asid.toNat
      let n := s.windowRefusal asid w.va 64 w.write
      let ended (err : Bool) (reason : Nat) : MemWin := { w with busy := false, done := true, err := err, reason := BitVec.ofNat 4 reason }
      (n ≠ 0 → exec .memoryWindowDone s = .next { s.reqRecord 2 ((s.asidOwner asid w.va).getD 0xFF) 0x100000 n with win := ended true n }) ∧
      (∀ rid, n = 0 → s.asidOwner asid w.va = some rid →
        (w.write = true → exec .memoryWindowDone s = .next { s.windowWrite rid w.va 64 w.data.toNat with win := ended false 0 }) ∧
        (∀ key leaf, w.write = false → s.translate rid w.va = some key → s.leafOf rid w.va = some leaf → tabGet .none s.mem.ecc (key / 64) = .none →
          ∃ (d : BitVec 512) (f : Nat), exec .memoryWindowDone s = .next { s with win := { ended false 0 with data := d }, free := f } ∧
          (d = s.lineKept rid (key / 64) ∨ d ∈ (s.region rid).unseen (key / 64)) ∧ ((s.region rid).unseen (key / 64) = [] → f = s.free)) ∧
        (w.write = false → (s.eccRange rid w.va 64).2 = false →
          let u := (s.eccRange rid w.va 64).1
          exec .memoryWindowDone s = .next { u.reqRecord 2 ((u.asidOwner u.win.asid.toNat u.win.va).getD 0xFF) 0x100000 0 with
            win := { u.win with busy := false, done := true, err := true, reason := 0 } }))) ∧
    (∀ rid line, ((s.region rid).mark = none → s.lineKept rid line = s.mem.line line) ∧
      (∀ m u, (s.region rid).mark = some m → m.lines.find? (fun u => u.line == line) = some u → s.lineKept rid line = u.data) ∧
      ∀ m, (s.region rid).mark = some m → (∀ u ∈ m.lines, u.line ≠ line) → s.lineKept rid line = s.mem.line line) ∧
    (∀ rid line d, let r := s.region rid
      d ∈ r.unseen line ↔ ∃ u : Undo, u.line = line ∧ u.data = d ∧
        (u ∈ r.unpub ∨ (∃ x ∈ r.shown, x.was = u) ∨ ∃ run, r.run = some run ∧ u ∈ run.fresh)) ∧
    (∀ off : Nat, tabWf {} s.regions = true →
      let early : Prop := off < 0x800 ∨ (0x1000 ≤ off ∧ off < 0x1030) ∨ (0x400000 ≤ off ∧ off < 0x800000 ∧ s.boot.st ≠ 7)
      (s.neruoUp = false → s.hostRead off = { s with got := none }) ∧
      (s.neruoUp = true → s.boot.st ≠ 3 → ¬ early → s.hostRead off = { refused off with got := none }) ∧
      (s.neruoUp = true → (s.boot.st = 3 ∨ early) → s.hostRead off = { s with got := some (s.readAperture off), regions := (s.hostRead off).regions } ∧
        ∀ rid, let x := (s.hostRead off).region rid
          x = { s.region rid with shown := x.shown } ∧
          ∀ y, y ∈ x.shown ↔ y ∈ (s.region rid).shown ∧ ¬ ∃ c ∈ y.ctrs, c < 64 ∧ off = 0x10000 + 0x400 * rid + 8 * c)) ∧
    (∀ (asid : Nat) (va : Word) (n : Nat) (write : Bool),
      (s.asidOwner asid va = none → s.windowRefusal asid va n write = 1) ∧
      ∀ rid, s.asidOwner asid va = some rid →
        let away : Prop := (va.toNat % 64 ≠ 0 ∧ 64 ≤ n) ∨ s.mapped rid va n false = false
        let fixed : Prop := write = true ∧ s.mapped rid va n true = false
        let shut : Prop := write = true ∧ s.isSealed rid va n = true
        let used : Prop := write = true ∧ ∃ i, i < (n + 63) / 64 ∧ (s.region rid).inUse (va + BitVec.ofNat 64 (64 * i)) = true
        (away → s.windowRefusal asid va n write = 2) ∧ (¬ away → fixed → s.windowRefusal asid va n write = 3) ∧
        (¬ away → ¬ fixed → shut → s.windowRefusal asid va n write = 4) ∧
        (¬ away → ¬ fixed → ¬ shut → used → s.windowRefusal asid va n write = 5) ∧
        (¬ away → ¬ fixed → ¬ shut → ¬ used → s.windowRefusal asid va n write = 0)) ∧
    (∀ e es, s.ring.waiting = e :: es → s.neruoUp = true → s.ring.tail - s.ring.head ≠ s.ring.size → ∃ (t : State) (entry : BitVec 256),
      exec .eventPostResume s = .next t ∧ t.ring.waiting = es ∧ t.ring.tail = s.ring.tail + 1 ∧ t.ring.head = s.ring.head ∧
      (let at' := s.ring.base.toNat + 32 * (s.ring.tail.toNat % s.ring.size.toNat)
       let place (i : Nat) : Nat := (Config.ringPage (BitVec.ofNat 64 ((at' + i) / 4096 * 4096))).toNat + (at' + i) % 4096
       t.mem.host = (List.range 32).foldl (fun m i => memWrite m (place i) 1 (entry.toNat / 2 ^ (8 * i) % 256)) s.mem.host) ∧
      entry.extractLsb' 0 8 = BitVec.ofNat 8 e.src ∧ entry.extractLsb' 8 6 = BitVec.ofNat 6 e.cmd ∧ entry.extractLsb' 14 18 = 0 ∧
      entry.extractLsb' 32 8 = BitVec.ofNat 8 e.kind ∧ entry.extractLsb' 40 8 = BitVec.ofNat 8 e.code ∧
      entry.extractLsb' 48 16 = (if e.src < 32 then (s.region e.src).evSeq else s.ring.modSeq) ∧ entry.extractLsb' 64 64 = e.payload ∧
      entry.extractLsb' 128 64 = BitVec.ofNat 64 s.time.count ∧
      entry.extractLsb' 192 64 =
        BitVec.ofNat 64 ((s.time.tsec.toNat + s.time.counted) * 1000000000 + (s.time.count - s.time.secCount) * 4 / 5) ∧
      (e.src < 32 → (t.region e.src).evSeq = (s.region e.src).evSeq + 1 ∧
        ((e.kind = 3 ∨ e.kind = 4 ∨ (e.kind = 2 ∧ (e.cmd = 3 ∨ e.cmd = 4)) ∨ (e.kind = 1 ∧ e.cmd = 6 ∧ e.code = 0) ∨
            (e.kind = 5 ∧ 16 ≤ e.code ∧ e.code ≠ 0xF1 ∧ e.code ≠ 0xF2)) → (t.region e.src).unpub = [] ∧
          ∀ x ∈ (t.region e.src).shown, x.event ≠ none) ∧ ∀ o, o ≠ e.src → t.region o = s.region o) ∧
      (32 ≤ e.src → t.ring.modSeq = s.ring.modSeq + 1 ∧ t.regions = s.regions)) ∧
    (∀ (ch blk : Nat) (x : Retire), s.mem.retireOf ch blk = some x → x.retired = false →
      (∀ i, i < 1024 → tabGet .none s.mem.ecc (((ch * 2 ^ 31 + blk * 65536) / 64) + i) ≠ .double) →
      let t : State := { s with mem := { s.mem with
        retire := s.mem.retire.map (fun y => if y.chan = ch ∧ y.blk = blk then { y with retired := true } else y) } }
      exec (.retirementCopyDone ch blk) s = .next (t.celLog 5 (0x100 + ch) ((s.chanOwner ch).getD 0xFF))) ∧
    (∀ (off : BitVec 30) (v : Word), off.toNat % 8 = 0 →
      let o := off.toNat
      let put {w : Nat} (x : BitVec w) (i : Nat) : BitVec w := BitVec.ofNat w ((List.range (w / 64)).foldl
        (fun n j => n + (if j = i then v.toNat else x.toNat / 2 ^ (64 * j) % 2 ^ 64) * 2 ^ (64 * j)) 0)
      (o = 0x2000 → exec (.registerWrite off v) s = exec (.pcapWrite v) s) ∧
      (∀ i, i < 4 → o = 0x5000 + 8 * i → reaches (.registerWrite off v) o { s with att := { s.att with nonce := put s.att.nonce i } }) ∧
      (o = 0x5020 → exec (.registerWrite off v) s = exec (.attestationRequest v) s) ∧
      (∀ i, i < 7 → o = 0x6000 + 8 * i → reaches (.registerWrite off v) o { s with port := put s.port i }) ∧
      (o = 0x6038 → reaches (.registerWrite off v) o
        (State.submit { s with port := put s.port 7 } ⟨.host, 0x6000, put s.port 7⟩)) ∧
      (o = 0x6040 → exec (.registerWrite off v) s = exec (.eventRingConfigWrite true v) s) ∧
      (o = 0x6048 → exec (.registerWrite off v) s = exec (.eventRingConfigWrite false v) s) ∧
      (o = 0x6050 → exec (.registerWrite off v) s = exec (.eventRingHeadWrite v) s) ∧
      (o = 0x8008 → exec (.registerWrite off v) s = exec (.celbaseWrite v) s) ∧
      (∀ rid k, rid < 32 → k < 64 → o = 0x10000 + 0x400 * rid + 8 * k →
        exec (.registerWrite off v) s = exec (.counterWindowWrite rid k v) s) ∧
      (∀ rid j, rid < 32 → j < 10 → o = 0x20000 + 0x80 * rid + 8 * j →
        exec (.registerWrite off v) s = exec (.vdRecordWrite rid (put (s.region rid).vd j)) s) ∧
      (∀ die x, die < 2 → x < 2 ^ 25 → o = 0x20000000 + 0x10000000 * die + 8 * x →
        exec (.registerWrite off v) s = exec (.tableStoreWrite die (BitVec.ofNat 28 (8 * x)) v) s) ∧
      (∀ n i, n < 64 → i < 8 → o = 0x4000 + 64 * n + 8 * i → ∃ row, reaches (.registerWrite off v) o
          { s with tenureRows := tabSet 0 s.tenureRows n row } ∧
        ∀ b, b < 512 → row.getLsbD b = (decide (b % 16 < 12) && (put (tabGet 0 s.tenureRows n) i).getLsbD b)) ∧
      (o = 0x100010 → v.getLsbD 0 = true →
        exec (.registerWrite off v) s = exec (if v.getLsbD 4 then .memoryWindowWrite else .memoryWindowRead) s) ∧
      (s.win.busy = false →
        (o = 0x100000 → reaches (.registerWrite off v) o { s with win := { s.win with asid := v.extractLsb' 0 10 } }) ∧
        (o = 0x100008 → reaches (.registerWrite off v) o { s with win := { s.win with va := v } }) ∧
        (∀ i, i < 8 → o = 0x100040 + 8 * i → reaches (.registerWrite off v) o { s with win := { s.win with data := put s.win.data i } })) ∧
      ((0x2008 ≤ o ∧ o < 0x4000) ∨ (0x5100 ≤ o ∧ o < 0x6000) ∨ (0x6058 ≤ o ∧ o < 0x8008) ∨ (0x8010 ≤ o ∧ o < 0x10000) ∨
          (0x18000 ≤ o ∧ o < 0x20000) ∨ (0x21000 ≤ o ∧ o < 0x100000) ∨ (0x800000 ≤ o ∧ o < 0x20000000) →
        reaches (.registerWrite off v) o s)) ∧
    (∀ (off : BitVec 30) (v : Word), exec (.registerWrite off v) s = exec (.registerWrite (off &&& ~~~7) v) s))

/-- Boot, firmware, power cap and attestation. A reset discards all but the identity block, the flash slots and what lies outside; ROM derives the key pair and takes the selected slot or the other
one, or fails with its cause; FW trains the links of the dies and zeroes pageable space; FABRIC fixes member, size and latencies of 140 to 400 ticks, locks the bundles of answering peers, a spare
in the place of a failed pair where one fits, and starts the count at 0;
READY opens the log with the reset count. COMMIT fuses IDMINV; staging writes go to the slot that did not boot. A report holds nonce, FWDIG, RMEAS, RESETS, ARCHREV and RID and its
signature (20 R302, R303, R310 to R312; 23 R346 to R350, R352, R356).
Identity data, flash and sensors at reset, the corners of boot and a BOOTCTL write that sets several of its bits are the model's (log 7, 8, 27, 35), and so are
PEER, the attempts of a pair that does not answer, and DEGRADED where a bundle has fewer than 4 pairs after bring-up (log 24). -/
def Obligations.Boot : Prop :=
  (∀ s : State,
    let b := s.boot
    let early (i : Instr) (t : State) : Prop := (s.neruoUp = false → exec i s = .next s) ∧ (s.neruoUp = true → exec i s = .next t)
    let afterReset (slot : Nat) : State := { State.reset with
      boot := { slot := slot, flash0 := b.flash0, flash1 := b.flash1, good0 := b.good0, good1 := b.good1, resets := b.resets + 1,
                minv := b.minv, vkey := b.vkey, seed := b.seed, fused := b.fused, pub := b.pub, cert := b.cert },
      power := { tj := s.power.tj, flowOk := s.power.flowOk, flowLow := s.power.flowLow,
                 tripping := decide (110 * 64 ≤ s.power.tj.toNat) || s.power.flowLow }, mem := { host := s.mem.host }, turns := s.turns, free := s.free }
    let slot (n : Nat) : Memory := if n = 0 then b.flash0 else b.flash1
    let blen (m : Memory) := memRead m 8 4
    let digest (m : Memory) : BitVec 256 := sha256 (natToBytes (memRead m 0 (64 + blen m)) (64 + blen m))
    let header (m : Memory) : Prop := memRead m 0 4 = 0x46574C47 ∧ blen m % 64 = 0 ∧ 64 ≤ blen m ∧ blen m ≤ 4194176 ∧ memRead m 12 52 = 0
    let signed' (m : Memory) : Prop := Config.verifies b.vkey (digest m) (BitVec.ofNat 512 (memRead m (64 + blen m) 64)) = true
    let accepts (n : Nat) : Prop := header (slot n) ∧ signed' (slot n) ∧ b.minv.toNat ≤ memRead (slot n) 4 4
    let trains (ks : List Nat) : Tab Link :=
      ks.foldl (fun t k => tabSet {} t k { (tabGet {} t k : Link) with st := .training, attempts := 0 }) s.links
    let keyed : Machine.Boot := { b with fused := true, pub := Config.publicKey b.seed }
    let boots (n : Nat) : State := { s with
      links := trains [488],
      boot := { keyed with st := 1, slotb := n, version := BitVec.ofNat 32 (memRead (slot n) 4 4), fwdig := digest (slot n) } }
    exec .powerGood s = .next (afterReset 0) ∧
    early .moduleReset (afterReset b.slot) ∧
    (b.st = 0 → (accepts b.slot ∧ exec .bootRom s = .next (boots b.slot)) ∨
      (¬ accepts b.slot ∧ accepts (1 - b.slot) ∧ exec .bootRom s = .next (boots (1 - b.slot))) ∨
      (¬ accepts b.slot ∧ ¬ accepts (1 - b.slot) ∧ ∃ cause, exec .bootRom s =
          .next { s with links := trains [488], boot := { keyed with st := 7, cause := cause } } ∧
        (¬ header (slot b.slot) → cause = 1) ∧ (header (slot b.slot) → ¬ signed' (slot b.slot) → cause = 2) ∧
        (header (slot b.slot) → signed' (slot b.slot) → cause = 3))) ∧
    (b.st = 1 → exec .bootFw s = .next { s with
      links := trains ((List.range 232).filter s.hasLink ++ (List.range 256).map (fun p => 232 + p)), boot := { b with st := 2 },
      mem := { s.mem with hbm := [], stamps := [], ecc := [] } }) ∧
    (∀ f : Fabric, b.st = 2 → b.fabric = false → (∀ x ∈ s.links, x.2.st = .training → 232 ≤ x.1 ∧ x.1 < 488) → 1 ≤ f.size → f.size ≤ 64 → f.member < f.size →
      (∀ x ∈ f.lat, x.1 < f.size ∧ x.1 ≠ f.member ∧ 140 ≤ x.2.toNat ∧ x.2.toNat ≤ 400) → (f.lat.map (·.1)).Nodup →
      tabWf {} s.links = true →
      let peer (b : Nat) : Nat := if b < f.member then b else b + 1
      let up (b : Nat) : Nat := ((List.range 4).filter (fun q => (s.link (232 + 4 * b + q)).st == .training)).length
      let spares (t : State) (b : Nat) : Nat := ((List.range 4).filter (fun q => tabGet 0 t.spareFor (252 + q) == b + 1)).length
      let locks (t : State) (b : Nat) : LinkSt := if up b + spares t b = 4 then .locked else .degraded
      ∃ t, exec (.bootFabric f) s = .next t ∧ t.boot = { b with fabric := true } ∧ t.time.count = 0 ∧ t.regions = s.regions ∧ t.mem = s.mem ∧
        (t.liveBundles = [] → t.time.member = 0 ∧ t.time.size = 1) ∧
        (t.liveBundles ≠ [] → t.time.member = f.member ∧ t.time.size = f.size) ∧
        (∀ b p, b < 63 → p < 4 →
          let k (q : Nat) : Nat := 232 + 4 * b + q
          let old := s.link (k p)
          let l := t.link (k p)
          let j := peer b
          let missed : Link := { old with st := .failed, fails := old.fails + BitVec.ofNat 8 (3 - old.attempts), attempts := 3 }
          (∀ v, j < f.size → (j, v) ∈ f.lat → old.st = .training →
            l = { old with st := locks t b, lat := v, attempts := 0, peer := BitVec.ofNat 8 j }) ∧
          (∀ v, j < f.size → (j, v) ∈ f.lat → old.st ≠ .training → l = { old with peer := BitVec.ofNat 8 j }) ∧
          (j < f.size → (∀ v, (j, v) ∉ f.lat) →
            l = { (if old.st = .training then missed else old) with peer := BitVec.ofNat 8 j }) ∧
          (f.size ≤ j → l = { (if old.st = .training then missed else old) with peer := 0 })) ∧
        (∀ q, q < 4 →
          let sp := tabGet 0 t.spareFor (252 + q)
          let old := s.link (484 + q)
          (∀ b v, b < 63 → sp = b + 1 → peer b < f.size → (peer b, v) ∈ f.lat →
            t.link (484 + q) = { old with st := locks t b, lat := v, attempts := 0, peer := BitVec.ofNat 8 (peer b) }) ∧
          ((∀ b v, b < 63 → sp = b + 1 → ¬ (peer b < f.size ∧ (peer b, v) ∈ f.lat)) → t.link (484 + q) = old) ∧
          (sp ≠ tabGet 0 s.spareFor (252 + q) → tabGet 0 s.spareFor (252 + q) = 0 ∧ old.st = .training ∧ ∃ b v, b < 63 ∧ sp = b + 1 ∧
            peer b < f.size ∧ (peer b, v) ∈ f.lat ∧ Config.spareFits (252 + q) v = true ∧ up b < 4) ∧
          (sp = 0 → old.st = .training → ∀ b v, b < 63 → peer b < f.size → (peer b, v) ∈ f.lat → Config.spareFits (252 + q) v = true →
            4 ≤ up b + spares t b)) ∧
        ∀ k, ¬ (232 ≤ k ∧ k < 488) → t.link k = s.link k) ∧
    (b.st = 2 → b.fabric = true → ∃ t, exec .bootReady s = .next t ∧ t.boot = { b with st := 3 } ∧ t.regions = s.regions ∧ t.mem.hbm = s.mem.hbm ∧
      (s.cel = {} → t.cel.head = 1 ∧ t.cel.base = 0 ∧
        let e := tabGet 0 t.cel.entries 0
        e.extractLsb' 0 64 = 0 ∧ e.extractLsb' 192 16 = 0 ∧ e.extractLsb' 256 64 = b.resets)) ∧
    early .firmwareCommit (if b.st = 3 ∧ b.minv.toNat < b.version.toNat then { s with boot := { b with minv := b.version } } else s) ∧
    (∀ v : Word,
      let n := v.toNat / 2 % 2
      let minv := if v.getLsbD 2 = true ∧ b.st = 3 ∧ b.minv.toNat < b.version.toNat then b.version else b.minv
      (v.getLsbD 0 = false → early (.registerWrite 0x1008 v) { s with boot := { b with slot := n, minv := minv } }) ∧
      (v.getLsbD 0 = true → early (.registerWrite 0x1008 v) { afterReset n with boot := { (afterReset n).boot with minv := minv } })) ∧
    (∀ (off : BitVec 22) (data : List Byte), s.neruoUp = true → b.st ≠ 7 → off.toNat + data.length ≤ 2 ^ 22 →
      (b.st ≠ 0 ∧ b.slot = b.slotb →
        exec (.firmwareStagingWrite off data) s = .next (s.reqRecord 5 0xFF (BitVec.ofNat 64 (0x400000 + off.toNat)) 0)) ∧
      (¬ (b.st ≠ 0 ∧ b.slot = b.slotb) → ∃ m, exec (.firmwareStagingWrite off data) s =
          .next { s with boot := if b.slot = 0 then { b with flash0 := m } else { b with flash1 := m } } ∧
        (∀ i v, data[i]? = some v → memGet m (off.toNat + i) = v) ∧
        (∀ a, a < off.toNat ∨ off.toNat + data.length ≤ a → memGet m a = memGet (slot b.slot) a))) ∧
    (∀ v : Word, s.neruoUp = true → b.st = 3 →
      let cap := v.extractLsb' 0 11
      (400 ≤ cap.toNat → cap.toNat ≤ 1800 → exec (.pcapWrite v) s = .next { s with power := { s.power with pcap := cap } }) ∧
      (¬ (400 ≤ cap.toNat ∧ cap.toNat ≤ 1800) → exec (.pcapWrite v) s = .next (s.reqRecord 5 0xFF 0x2000 0))) ∧
    (∀ v : Word, s.neruoUp = true → b.st = 3 →
      let a := s.att
      let rid := (v.extractLsb' 0 5).toNat
      (v.getLsbD 8 = false → exec (.attestationRequest v) s = .next { s with att := { a with rid := v.extractLsb' 0 5 } }) ∧
      (v.getLsbD 8 = true → (a.busy = true ∨ (s.region rid).st = .free) →
        exec (.attestationRequest v) s = .next (State.reqRecord { s with att := { a with rid := v.extractLsb' 0 5, done := true, err := true } }
          5 0xFF 0x5020 0)) ∧
      (v.getLsbD 8 = true → a.busy = false → (s.region rid).st ≠ .free → ∃ body : BitVec 1024,
        exec (.attestationRequest v) s =
          .next { s with att := { a with rid := v.extractLsb' 0 5, done := false, err := false, busy := true, body := body } } ∧
        body.extractLsb' 0 256 = a.nonce ∧ body.extractLsb' 768 64 = b.resets ∧ body.extractLsb' 832 16 = BitVec.ofNat 16 Config.archRev ∧
        body.extractLsb' 848 8 = BitVec.ofNat 8 rid ∧ body.extractLsb' 856 168 = 0 ∧
        (∀ k, k < 32 → body.extractLsb' (8 * (32 + k)) 8 = b.fwdig.extractLsb' (8 * (31 - k)) 8 ∧
          body.extractLsb' (8 * (64 + k)) 8 = (s.region rid).rmeas.extractLsb' (8 * (31 - k)) 8))) ∧
    (s.att.busy = true → ∃ rep : BitVec 1536, exec .attestationDone s =
        .next { s with att := { s.att with busy := false, done := true, rep := rep } } ∧ rep.extractLsb' 0 1024 = s.att.body ∧
      ∀ k, k < 64 → rep.extractLsb' (8 * (128 + k)) 8 =
        (Config.sign b.seed (sha256 (natToBytes s.att.body.toNat 128))).extractLsb' (8 * (63 - k)) 8))

/-- What reset leaves, as far as the spec gives it: state ROM, no region, every counter, ASID, retirement and event gone, every link DOWN, and the registers of the
aperture at the values of their tables (10 R188, R203; 12 R239; 16 R273; 20 R302, R304, R309, R314; 21 R330; 23 R346, R356).
No value that the model chose stands in it. -/
def Obligations.ResetValues : Prop :=
  let s := State.reset
  s.boot.st = 0 ∧ s.boot.cause = 0 ∧ (∀ rid, (s.region rid).st = .free ∧ (s.region rid).vd = 0 ∧ (s.region rid).evSeq = 0 ∧
    ∀ k, ((s.region rid).ctr k).value = 0 ∧ ((s.region rid).ctr k).st = .free) ∧
  (∀ die asid, s.asidOn die asid = .free) ∧ (∀ ch blk, s.mem.retireOf ch blk = none) ∧ s.mem.withdrawn = [] ∧
  (∀ k, (s.link k).st = .down ∧ (s.link k).word = 0) ∧ s.ring.waiting = [] ∧ s.ring.modSeq = 0 ∧ s.cel.head = 0 ∧ s.cel.ovf = 0 ∧
  s.readAperture 0x1000 = 0 ∧ s.readAperture 0x2000 = 1800 ∧ s.readAperture 0x2008 = 0 ∧ s.readAperture 0x2010 = 0 ∧
  s.readAperture 0x3000 = 0 ∧ s.readAperture 0x3008 = 0 ∧ s.readAperture 0x3010 = 0 ∧ s.readAperture 0x5020 = 0 ∧
  (∀ n, tabGet 0 s.tenureRows n = 0) ∧ s.win.status = 0 ∧ s.readAperture 0x100000 = 0 ∧ s.readAperture 0x100008 = 0 ∧
  s.readAperture 0x8000 = 0 ∧ s.readAperture 0x8008 = 0 ∧ s.readAperture 0x8010 = 0 ∧ CanonicalState s

/-- Every step keeps every memory of the machine in its one canonical form, rising addresses and no byte that an unlisted address reads as, and with it every table
that a statement here reads: equal memories are equal data (the model's own invariant, log 5). -/
def Obligations.CanonicalKept : Prop :=
  ∀ s t : State, CanonicalState s → step s = .next t → CanonicalState t
end

