-- ==== Sys2Proof/Laws/Store.lean ====
section
/-! SUPPORT. Tables and byte memories: what a read gives after a write, and that every operation keeps the canonical form. -/

namespace Sys2Proof.Machine

open Host (Cell)

/-! ## Tables -/

@[simp] theorem tabGet_nil {β : Type} (d : β) (k : Nat) : tabGet d [] k = d := rfl

/-- A write leaves every other key alone. -/
theorem tabGet_tabSet_ne {β : Type} [DecidableEq β] (d : β) (t : Tab β) (k k' : Nat) (v : β) (h : k' ≠ k) :
    tabGet d (tabSet d t k v) k' = tabGet d t k' := by
  have h' : k ≠ k' := h.symm
  induction t with
  | nil => simp only [tabSet]; split <;> simp [tabGet, h']
  | cons x t ih =>
    obtain ⟨j, u⟩ := x
    simp only [tabSet]
    split
    · simp only [tabGet, ih]
    · split
      · rename_i hjk
        subst hjk
        split <;> simp [tabGet, h']
      · split <;> simp [tabGet, h']

/-- A written value that is not the default is read back. -/
theorem tabGet_tabSet_of_ne {β : Type} [DecidableEq β] (d : β) (t : Tab β) (k : Nat) (v : β) (h : v ≠ d) :
    tabGet d (tabSet d t k v) k = v := by
  induction t with
  | nil => simp [tabSet, h, tabGet]
  | cons x t ih =>
    obtain ⟨j, u⟩ := x
    simp only [tabSet, h, if_false]
    split
    · rename_i hlt
      simp [tabGet, Nat.ne_of_lt hlt, ih]
    · split
      · rename_i hjk; subst hjk; simp [tabGet]
      · simp [tabGet]

/-- The first key of a canonical table with a tail is the least, and the tail is canonical. -/
theorem tabWf_cons {β : Type} [DecidableEq β] (d : β) (x : Nat × β) (t : Tab β) :
    tabWf d (x :: t) = true ↔ x.2 ≠ d ∧ (∀ y ∈ t, x.1 < y.1) ∧ tabWf d t = true := by
  induction t generalizing x with
  | nil => obtain ⟨j, v⟩ := x; simp [tabWf]
  | cons y t ih =>
    obtain ⟨j, v⟩ := x
    obtain ⟨k, u⟩ := y
    simp only [tabWf, Bool.and_eq_true, decide_eq_true_eq, List.mem_cons, forall_eq_or_imp, and_assoc]
    constructor
    · rintro ⟨hv, hjk, hw⟩
      exact ⟨hv, hjk, fun z hz => lt_trans hjk (((ih (k, u)).1 hw).2.1 z hz), hw⟩
    · rintro ⟨hv, hjk, -, hw⟩
      exact ⟨hv, hjk, hw⟩

/-- A key below every key of a table reads as the default. -/
theorem tabGet_of_lt {β : Type} (d : β) (t : Tab β) (k : Nat) (h : ∀ y ∈ t, k < y.1) : tabGet d t k = d := by
  induction t with
  | nil => rfl
  | cons x t ih =>
    obtain ⟨j, u⟩ := x
    have hj : k < j := h (j, u) (by simp)
    simp only [tabGet, (Nat.ne_of_lt hj).symm, if_false]
    exact ih (fun y hy => h y (by simp [hy]))

/-- A read after a write to the same key of a canonical table gives the value written. -/
theorem tabGet_tabSet_same {β : Type} [DecidableEq β] (d : β) (t : Tab β) (k : Nat) (v : β) (h : tabWf d t = true) :
    tabGet d (tabSet d t k v) k = v := by
  by_cases hv : v = d
  · subst hv
    induction t with
    | nil => simp [tabSet]
    | cons x t ih =>
      obtain ⟨j, u⟩ := x
      have ⟨_, hlt, hw⟩ := (tabWf_cons _ _ _).1 h
      simp only [tabSet, if_true]
      split
      · rename_i hjk; simp [tabGet, Nat.ne_of_lt hjk, ih hw]
      · split
        · rename_i hjk; subst hjk; exact tabGet_of_lt _ _ _ hlt
        · rename_i h1 h2
          have hkj : k < j := by omega
          exact tabGet_of_lt _ _ _ (by
            intro y hy
            rcases List.mem_cons.1 hy with rfl | hy
            · exact hkj
            · exact lt_trans hkj (hlt y hy))
  · exact tabGet_tabSet_of_ne d t k v hv

/-- Keys of a table after a write are old keys or the key written. -/
theorem mem_tabSet {β : Type} [DecidableEq β] (d : β) (t : Tab β) (k : Nat) (v : β) (y : Nat × β)
    (h : y ∈ tabSet d t k v) : y ∈ t ∨ y = (k, v) := by
  induction t with
  | nil =>
    simp only [tabSet] at h
    split at h <;> simp_all
  | cons x t ih =>
    obtain ⟨j, u⟩ := x
    simp only [tabSet] at h
    split at h
    · rcases List.mem_cons.1 h with rfl | h
      · simp
      · rcases ih h with h | h <;> simp [h]
    · split at h
      · split at h
        · simp [h]
        · rcases List.mem_cons.1 h with rfl | h <;> simp_all
      · split at h
        · exact .inl h
        · rcases List.mem_cons.1 h with rfl | h <;> simp_all

/-- A write keeps a table canonical. -/
theorem tabSet_wf {β : Type} [DecidableEq β] (d : β) (t : Tab β) (k : Nat) (v : β) (h : tabWf d t = true) :
    tabWf d (tabSet d t k v) = true := by
  induction t with
  | nil => simp only [tabSet]; split <;> simp_all [tabWf]
  | cons x t ih =>
    obtain ⟨j, u⟩ := x
    have ⟨hu, hlt, hw⟩ := (tabWf_cons _ _ _).1 h
    simp only [tabSet]
    split
    · rename_i hjk
      refine (tabWf_cons _ _ _).2 ⟨hu, fun y hy => ?_, ih hw⟩
      rcases mem_tabSet _ _ _ _ _ hy with hy | rfl
      · exact hlt y hy
      · exact hjk
    · split
      · rename_i hjk
        subst hjk
        split
        · exact hw
        · rename_i hv; exact (tabWf_cons _ _ _).2 ⟨hv, hlt, hw⟩
      · rename_i h1 h2
        split
        · exact h
        · rename_i hv
          refine (tabWf_cons _ _ _).2 ⟨hv, fun y hy => ?_, h⟩
          rcases List.mem_cons.1 hy with rfl | hy
          · change k < j; omega
          · have := hlt y hy; simp only at this; omega

/-- Entries dropped from a table leave it canonical. -/
theorem filter_tabWf {β : Type} [DecidableEq β] (d : β) (t : Tab β) (p : Nat × β → Bool) (h : tabWf d t = true) :
    tabWf d (t.filter p) = true := by
  induction t with
  | nil => exact h
  | cons x t ih =>
    have ⟨hu, hlt, hw⟩ := (tabWf_cons _ _ _).1 h
    simp only [List.filter_cons]
    split
    · exact (tabWf_cons _ _ _).2 ⟨hu, fun y hy => hlt y (List.mem_filter.1 hy).1, ih hw⟩
    · exact ih hw

/-- Two canonical tables of which the first lies below the second, one after the other. -/
theorem append_tabWf {β : Type} [DecidableEq β] (d : β) (t u : Tab β) (ht : tabWf d t = true) (hu : tabWf d u = true)
    (h : ∀ x ∈ t, ∀ y ∈ u, x.1 < y.1) : tabWf d (t ++ u) = true := by
  induction t with
  | nil => exact hu
  | cons x t ih =>
    have ⟨hx, hlt, hw⟩ := (tabWf_cons _ _ _).1 ht
    refine (tabWf_cons _ _ _).2 ⟨hx, fun y hy => ?_, ih hw (fun a ha => h a (by simp [ha]))⟩
    rcases List.mem_append.1 hy with hy | hy
    · exact hlt y hy
    · exact h x (by simp) y hy

/-! ## Byte memories -/

/-- The cells of a write lie in its range. -/
theorem mem_cellsOf (a v n : Nat) (c : Cell) (h : c ∈ cellsOf a v n) : a ≤ c.1 ∧ c.1 < a + n := by
  induction n generalizing a v with
  | zero => simp [cellsOf] at h
  | succ n ih =>
    simp only [cellsOf, List.mem_append] at h
    rcases h with h | h
    · split at h
      · simp at h
      · simp only [List.mem_singleton] at h; subst h; constructor <;> simp
    · have := ih _ _ h; omega

/-- The cells of a write are canonical. -/
theorem cellsOf_wf (a v n : Nat) : Memory.wf (cellsOf a v n) = true := by
  induction n generalizing a v with
  | zero => rfl
  | succ n ih =>
    simp only [cellsOf]
    split
    · simpa using ih (a + 1) (v >>> 8)
    · rename_i hb
      refine (tabWf_cons _ _ _).2 ⟨hb, fun y hy => ?_, ih _ _⟩
      have := (mem_cellsOf _ _ _ _ hy).1
      simp only; omega

/-- A write keeps a memory canonical. -/
theorem memWrite_wf (m : Memory) (a n v : Nat) (h : m.wf = true) : (memWrite m a n v).wf = true := by
  unfold memWrite Memory.wf
  refine append_tabWf _ _ _ (append_tabWf _ _ _ (filter_tabWf _ _ _ h) (cellsOf_wf a v n) ?_)
    (filter_tabWf _ _ _ h) ?_
  · intro x hx y hy
    have h1 := (List.mem_filter.1 hx).2
    have h2 := (mem_cellsOf _ _ _ _ hy).1
    simp only [decide_eq_true_eq] at h1
    omega
  · intro x hx y hy
    have h2 := (List.mem_filter.1 hy).2
    simp only [decide_eq_true_eq] at h2
    rcases List.mem_append.1 hx with hx | hx
    · have h1 := (List.mem_filter.1 hx).2
      simp only [decide_eq_true_eq] at h1
      omega
    · have h1 := (mem_cellsOf _ _ _ _ hx).2
      omega

/-- The empty memory is canonical. -/
@[simp] theorem nil_wf : Memory.wf [] = true := rfl

/-- What a read finds in two memories one after the other. -/
theorem memGet_append (m u : Memory) (a : Nat) (h : ∀ c ∈ m, c.1 ≠ a) : memGet (m ++ u) a = memGet u a := by
  unfold memGet
  induction m with
  | nil => rfl
  | cons x m ih =>
    obtain ⟨j, b⟩ := x
    have hj : j ≠ a := h (j, b) (by simp)
    simp only [List.cons_append, tabGet, hj, if_false]
    exact ih (fun c hc => h c (by simp [hc]))

/-- A read at an address that the first of two memories alone can list. -/
theorem memGet_append_left (m u : Memory) (a : Nat) (h : ∀ c ∈ u, c.1 ≠ a) : memGet (m ++ u) a = memGet m a := by
  unfold memGet
  induction m with
  | nil =>
    induction u with
    | nil => rfl
    | cons x u ih =>
      obtain ⟨j, b⟩ := x
      have hj : j ≠ a := h (j, b) (by simp)
      simp only [List.nil_append, tabGet, hj, if_false] at ih ⊢
      exact ih (fun c hc => h c (by simp [hc]))
  | cons x m ih =>
    obtain ⟨j, b⟩ := x
    simp only [List.cons_append, tabGet]
    split
    · rfl
    · exact ih

/-- A filter that keeps the cells of an address does not change what it reads as. -/
theorem memGet_filter (m : Memory) (p : Cell → Bool) (a : Nat) (h : ∀ b, p (a, b) = true) :
    memGet (m.filter p) a = memGet m a := by
  unfold memGet
  induction m with
  | nil => rfl
  | cons x m ih =>
    obtain ⟨j, b⟩ := x
    simp only [List.filter_cons]
    split
    · simp only [tabGet, ih]
    · rename_i hp
      have hj : j ≠ a := by rintro rfl; exact hp (h b)
      simp only [tabGet, hj, if_false, ih]

/-- A read outside the bytes that a write stores gives what it gave before. -/
theorem memGet_memWrite_out (m : Memory) (a n v x : Nat) (h : x < a ∨ a + n ≤ x) :
    memGet (memWrite m a n v) x = memGet m x := by
  unfold memWrite
  have hc : ∀ c ∈ cellsOf a v n, c.1 ≠ x := fun c hc => by
    have := mem_cellsOf _ _ _ _ hc; omega
  rcases h with h | h
  · rw [List.append_assoc, memGet_append_left]
    · exact memGet_filter _ _ _ (fun b => by simpa using h)
    · intro c hc'
      rcases List.mem_append.1 hc' with hc' | hc'
      · exact hc c hc'
      · have := (List.mem_filter.1 hc').2
        simp only [decide_eq_true_eq] at this
        omega
  · rw [memGet_append]
    · exact memGet_filter _ _ _ (fun b => by simpa using h)
    · intro c hc'
      rcases List.mem_append.1 hc' with hc' | hc'
      · have := (List.mem_filter.1 hc').2
        simp only [decide_eq_true_eq] at this
        omega
      · exact hc c hc'

/-- Byte `i` of a number. -/
theorem byteOf_shift (v i : Nat) : byteOf (v >>> 8) i = byteOf v (i + 1) := by
  unfold byteOf
  rw [← Nat.shiftRight_add]
  congr 2
  omega

/-- The cells of a write read as its bytes. -/
theorem memGet_cellsOf (a v n i : Nat) (h : i < n) : memGet (cellsOf a v n) (a + i) = byteOf v i := by
  induction n generalizing a v i with
  | zero => omega
  | succ n ih =>
    simp only [cellsOf]
    rcases i with _ | i
    · split
      · rename_i hb
        rw [memGet_append _ _ _ (by simp), hb]
        unfold memGet
        exact tabGet_of_lt _ _ _ (fun y hy => by have := (mem_cellsOf _ _ _ _ hy).1; omega)
      · simp [memGet, tabGet]
    · rw [memGet_append]
      · have := ih (a + 1) (v >>> 8) i (by omega)
        rw [show a + (i + 1) = a + 1 + i by omega, this, byteOf_shift]
      · intro c hc
        split at hc
        · simp at hc
        · simp only [List.mem_singleton] at hc; subst hc; simp

/-- A read inside the bytes that a write stores gives the byte stored: byte `i` of the value, little-endian. -/
theorem memGet_memWrite_in (m : Memory) (a n v i : Nat) (h : i < n) :
    memGet (memWrite m a n v) (a + i) = byteOf v i := by
  unfold memWrite
  rw [memGet_append_left, memGet_append, memGet_cellsOf _ _ _ _ h]
  · intro c hc
    have := (List.mem_filter.1 hc).2
    simp only [decide_eq_true_eq] at this
    omega
  · intro c hc
    have := (List.mem_filter.1 hc).2
    simp only [decide_eq_true_eq] at this
    omega

end Sys2Proof.Machine
end

