-- ==== Sys2Proof/Laws/State.lean ====
section
/-! SUPPORT. What each update of the state leaves unchanged: one lemma per field per update, and what a read gives after it. -/

namespace Sys2Proof.Machine

/-! ## Regions of the state -/

section
variable (s : State) (rid : Nat) (r : Region)

@[simp] theorem setRegion_regions : (s.setRegion rid r).regions = tabSet {} s.regions rid r := rfl
@[simp] theorem setRegion_mem : (s.setRegion rid r).mem = s.mem := rfl
@[simp] theorem setRegion_boot : (s.setRegion rid r).boot = s.boot := rfl
@[simp] theorem setRegion_power : (s.setRegion rid r).power = s.power := rfl
@[simp] theorem setRegion_time : (s.setRegion rid r).time = s.time := rfl
@[simp] theorem setRegion_links : (s.setRegion rid r).links = s.links := rfl
@[simp] theorem setRegion_spareFor : (s.setRegion rid r).spareFor = s.spareFor := rfl
@[simp] theorem setRegion_asids : (s.setRegion rid r).asids = s.asids := rfl
@[simp] theorem setRegion_slots : (s.setRegion rid r).slots = s.slots := rfl
@[simp] theorem setRegion_tenureRows : (s.setRegion rid r).tenureRows = s.tenureRows := rfl
@[simp] theorem setRegion_ring : (s.setRegion rid r).ring = s.ring := rfl
@[simp] theorem setRegion_win : (s.setRegion rid r).win = s.win := rfl
@[simp] theorem setRegion_port : (s.setRegion rid r).port = s.port := rfl
@[simp] theorem setRegion_reqLog : (s.setRegion rid r).reqLog = s.reqLog := rfl
@[simp] theorem setRegion_reqSeq : (s.setRegion rid r).reqSeq = s.reqSeq := rfl
@[simp] theorem setRegion_cel : (s.setRegion rid r).cel = s.cel := rfl
@[simp] theorem setRegion_att : (s.setRegion rid r).att = s.att := rfl
@[simp] theorem setRegion_cur : (s.setRegion rid r).cur = s.cur := rfl
@[simp] theorem setRegion_turns : (s.setRegion rid r).turns = s.turns := rfl
@[simp] theorem setRegion_got : (s.setRegion rid r).got = s.got := rfl
@[simp] theorem setRegion_free : (s.setRegion rid r).free = s.free := rfl

/-- A replaced region is read back where the table of regions is canonical. -/
theorem region_setRegion_same (h : tabWf {} s.regions = true) : (s.setRegion rid r).region rid = r :=
  tabGet_tabSet_same _ _ _ _ h

/-- A replaced region other than an empty one is read back. -/
theorem region_setRegion_of_ne (h : r ≠ {}) : (s.setRegion rid r).region rid = r := tabGet_tabSet_of_ne _ _ _ _ h

/-- Another region is left alone. -/
theorem region_setRegion_ne (rid' : Nat) (h : rid' ≠ rid) : (s.setRegion rid r).region rid' = s.region rid' :=
  tabGet_tabSet_ne _ _ _ _ _ h
end

/-! ## All regions changed -/

/-- A key that a table does not list reads as the default. -/
theorem tabGet_unlisted {β : Type} (d : β) (t : Tab β) (k : Nat) (h : ∀ y ∈ t, y.1 ≠ k) : tabGet d t k = d := by
  induction t with
  | nil => rfl
  | cons x t ih =>
    obtain ⟨j, u⟩ := x
    have hj : j ≠ k := h (j, u) (by simp)
    simp only [tabGet, if_neg hj]
    exact ih (fun y hy => h y (by simp [hy]))

section
variable (s : State) (f : Region → Region)

/-- Nothing but the regions changes. -/
theorem mapRegions_frame : s.mapRegions f = { s with regions := (s.mapRegions f).regions } := by
  unfold State.mapRegions
  generalize s.regions = l
  suffices h : ∀ acc : State, l.foldl (fun acc x => acc.setRegion x.1 (f x.2)) acc =
      { acc with regions := (l.foldl (fun acc x => acc.setRegion x.1 (f x.2)) acc).regions } from h s
  induction l with
  | nil => intro acc; rfl
  | cons x l ih => intro acc; rw [List.foldl_cons, ih]; rfl

@[simp] theorem mapRegions_mem : (s.mapRegions f).mem = s.mem := by rw [mapRegions_frame]

@[simp] theorem mapRegions_time : (s.mapRegions f).time = s.time := by rw [mapRegions_frame]

/-- What stands for a region after a list of them has been written: its own, where the list has it, once. -/
theorem foldl_setRegion_region (l : Tab Region) (hl : tabWf {} l = true) (rid : Nat) (acc : State) (ha : tabWf {} acc.regions = true) :
    (l.foldl (fun acc x => acc.setRegion x.1 (f x.2)) acc).region rid =
      if l.any (fun x => x.1 == rid) then f (tabGet {} l rid) else acc.region rid := by
  induction l generalizing acc with
  | nil => rfl
  | cons x l ih =>
    obtain ⟨-, hlt, hl'⟩ := (tabWf_cons _ _ _).1 hl
    rw [List.foldl_cons, ih hl' _ (tabSet_wf _ _ _ _ ha)]
    by_cases hx : x.1 = rid
    · have gone : l.any (fun y => y.1 == rid) = false := by
        rw [List.any_eq_false]
        intro y hy h
        have := hlt y hy
        simp only [beq_iff_eq] at h
        omega
      subst hx
      rw [gone, region_setRegion_same _ _ _ ha, List.any_cons, beq_self_eq_true]
      simp only [tabGet, Bool.true_or, if_true, Bool.false_eq_true, if_false]
    · have hb : (x.1 == rid) = false := by simpa using hx
      rw [region_setRegion_ne _ _ _ _ (Ne.symm hx), List.any_cons, hb, Bool.false_or]
      simp only [tabGet, if_neg hx]

/-- Every region that the state lists is changed; an unlisted one stays empty. -/
theorem region_mapRegions (h : tabWf {} s.regions = true) (rid : Nat) :
    (s.mapRegions f).region rid = if s.regions.any (fun x => x.1 == rid) then f (s.region rid) else {} := by
  unfold State.mapRegions
  rw [foldl_setRegion_region f _ h rid s h]
  split
  · rfl
  · rename_i hn
    exact tabGet_unlisted _ _ _ (fun y hy hk => hn (List.any_eq_true.2 ⟨y, hy, by simpa using hk⟩))
end

/-- Noting a line as it stands leaves every memory as it is. -/
@[simp] theorem keepLine_mem (s : State) (rid line : Nat) : (s.keepLine rid line).mem = s.mem := by
  unfold State.keepLine
  dsimp only
  split
  · rfl
  · split <;> rfl

/-! ## A tile of a region replaced -/

section
variable (r : Region) (i : Nat) (t : Tile)

@[simp] theorem setTile_st : (r.setTile i t).st = r.st := rfl
@[simp] theorem setTile_w : (r.setTile i t).w = r.w := rfl
@[simp] theorem setTile_h : (r.setTile i t).h = r.h := rfl
@[simp] theorem setTile_place : (r.setTile i t).place = r.place := rfl
@[simp] theorem setTile_holds : (r.setTile i t).holds = r.holds := rfl
@[simp] theorem setTile_saved : (r.setTile i t).saved = r.saved := rfl
@[simp] theorem setTile_k : (r.setTile i t).k = r.k := rfl
@[simp] theorem setTile_cs : (r.setTile i t).cs = r.cs := rfl
@[simp] theorem setTile_asid : (r.setTile i t).asid = r.asid := rfl
@[simp] theorem setTile_service : (r.setTile i t).service = r.service := rfl
@[simp] theorem setTile_shared : (r.setTile i t).shared = r.shared := rfl
@[simp] theorem setTile_slot : (r.setTile i t).slot = r.slot := rfl
@[simp] theorem setTile_rotmask : (r.setTile i t).rotmask = r.rotmask := rfl
@[simp] theorem setTile_seam : (r.setTile i t).seam = r.seam := rfl
@[simp] theorem setTile_descAddr : (r.setTile i t).descAddr = r.descAddr := rfl
@[simp] theorem setTile_startQ : (r.setTile i t).startQ = r.startQ := rfl
@[simp] theorem setTile_cmdQ : (r.setTile i t).cmdQ = r.cmdQ := rfl
@[simp] theorem setTile_ctrs : (r.setTile i t).ctrs = r.ctrs := rfl
@[simp] theorem setTile_graphs : (r.setTile i t).graphs = r.graphs := rfl
@[simp] theorem setTile_begun : (r.setTile i t).begun = r.begun := rfl
@[simp] theorem setTile_poolShared : (r.setTile i t).poolShared = r.poolShared := rfl
@[simp] theorem setTile_poolRes : (r.setTile i t).poolRes = r.poolRes := rfl
@[simp] theorem setTile_afterYield : (r.setTile i t).afterYield = r.afterYield := rfl
@[simp] theorem setTile_staging : (r.setTile i t).staging = r.staging := rfl
@[simp] theorem setTile_crc : (r.setTile i t).crc = r.crc := rfl
@[simp] theorem setTile_staged : (r.setTile i t).staged = r.staged := rfl
@[simp] theorem setTile_restage : (r.setTile i t).restage = r.restage := rfl
@[simp] theorem setTile_restaging : (r.setTile i t).restaging = r.restaging := rfl
@[simp] theorem setTile_stepPc : (r.setTile i t).stepPc = r.stepPc := rfl
@[simp] theorem setTile_stepWord : (r.setTile i t).stepWord = r.stepWord := rfl
@[simp] theorem setTile_run : (r.setTile i t).run = r.run := rfl
@[simp] theorem setTile_steps : (r.setTile i t).steps = r.steps := rfl
@[simp] theorem setTile_colls : (r.setTile i t).colls = r.colls := rfl
@[simp] theorem setTile_collCount : (r.setTile i t).collCount = r.collCount := rfl
@[simp] theorem setTile_seals : (r.setTile i t).seals = r.seals := rfl
@[simp] theorem setTile_admitted : (r.setTile i t).admitted = r.admitted := rfl
@[simp] theorem setTile_draining : (r.setTile i t).draining = r.draining := rfl
@[simp] theorem setTile_frames : (r.setTile i t).frames = r.frames := rfl
@[simp] theorem setTile_condFault : (r.setTile i t).condFault = r.condFault := rfl
@[simp] theorem setTile_restart : (r.setTile i t).restart = r.restart := rfl
@[simp] theorem setTile_sinceRecord : (r.setTile i t).sinceRecord = r.sinceRecord := rfl
@[simp] theorem setTile_measured : (r.setTile i t).measured = r.measured := rfl
@[simp] theorem setTile_kept : (r.setTile i t).kept = r.kept := rfl
@[simp] theorem setTile_grant : (r.setTile i t).grant = r.grant := rfl
@[simp] theorem setTile_nextGrant : (r.setTile i t).nextGrant = r.nextGrant := rfl
@[simp] theorem setTile_vd : (r.setTile i t).vd = r.vd := rfl
@[simp] theorem setTile_split : (r.setTile i t).split = r.split := rfl
@[simp] theorem setTile_grantWords : (r.setTile i t).grantWords = r.grantWords := rfl
@[simp] theorem setTile_awaits : (r.setTile i t).awaits = r.awaits := rfl
@[simp] theorem setTile_rmeas : (r.setTile i t).rmeas = r.rmeas := rfl
@[simp] theorem setTile_evSeq : (r.setTile i t).evSeq = r.evSeq := rfl
@[simp] theorem setTile_unpub : (r.setTile i t).unpub = r.unpub := rfl
@[simp] theorem setTile_shown : (r.setTile i t).shown = r.shown := rfl
@[simp] theorem setTile_log : (r.setTile i t).log = r.log := rfl
@[simp] theorem setTile_mark : (r.setTile i t).mark = r.mark := rfl
@[simp] theorem setTile_bars : (r.setTile i t).bars = r.bars := rfl
end

@[simp] theorem setTile_tiles (r : Region) (i : Nat) (t : Tile) : (r.setTile i t).tiles = r.tiles.set i t := rfl

/-! ## A tile of a region changed -/

section
variable (r : Region) (i : Nat) (f : Tile → Tile)

@[simp] theorem modTile_st : (r.modTile i f).st = r.st := by unfold Region.modTile; split <;> rfl
@[simp] theorem modTile_w : (r.modTile i f).w = r.w := by unfold Region.modTile; split <;> rfl
@[simp] theorem modTile_h : (r.modTile i f).h = r.h := by unfold Region.modTile; split <;> rfl
@[simp] theorem modTile_place : (r.modTile i f).place = r.place := by unfold Region.modTile; split <;> rfl
@[simp] theorem modTile_holds : (r.modTile i f).holds = r.holds := by unfold Region.modTile; split <;> rfl
@[simp] theorem modTile_saved : (r.modTile i f).saved = r.saved := by unfold Region.modTile; split <;> rfl
@[simp] theorem modTile_k : (r.modTile i f).k = r.k := by unfold Region.modTile; split <;> rfl
@[simp] theorem modTile_cs : (r.modTile i f).cs = r.cs := by unfold Region.modTile; split <;> rfl
@[simp] theorem modTile_asid : (r.modTile i f).asid = r.asid := by unfold Region.modTile; split <;> rfl
@[simp] theorem modTile_service : (r.modTile i f).service = r.service := by unfold Region.modTile; split <;> rfl
@[simp] theorem modTile_shared : (r.modTile i f).shared = r.shared := by unfold Region.modTile; split <;> rfl
@[simp] theorem modTile_slot : (r.modTile i f).slot = r.slot := by unfold Region.modTile; split <;> rfl
@[simp] theorem modTile_rotmask : (r.modTile i f).rotmask = r.rotmask := by unfold Region.modTile; split <;> rfl
@[simp] theorem modTile_seam : (r.modTile i f).seam = r.seam := by unfold Region.modTile; split <;> rfl
@[simp] theorem modTile_descAddr : (r.modTile i f).descAddr = r.descAddr := by unfold Region.modTile; split <;> rfl
@[simp] theorem modTile_startQ : (r.modTile i f).startQ = r.startQ := by unfold Region.modTile; split <;> rfl
@[simp] theorem modTile_cmdQ : (r.modTile i f).cmdQ = r.cmdQ := by unfold Region.modTile; split <;> rfl
@[simp] theorem modTile_ctrs : (r.modTile i f).ctrs = r.ctrs := by unfold Region.modTile; split <;> rfl
@[simp] theorem modTile_graphs : (r.modTile i f).graphs = r.graphs := by unfold Region.modTile; split <;> rfl
@[simp] theorem modTile_begun : (r.modTile i f).begun = r.begun := by unfold Region.modTile; split <;> rfl
@[simp] theorem modTile_poolShared : (r.modTile i f).poolShared = r.poolShared := by unfold Region.modTile; split <;> rfl
@[simp] theorem modTile_poolRes : (r.modTile i f).poolRes = r.poolRes := by unfold Region.modTile; split <;> rfl
@[simp] theorem modTile_afterYield : (r.modTile i f).afterYield = r.afterYield := by unfold Region.modTile; split <;> rfl
@[simp] theorem modTile_staging : (r.modTile i f).staging = r.staging := by unfold Region.modTile; split <;> rfl
@[simp] theorem modTile_crc : (r.modTile i f).crc = r.crc := by unfold Region.modTile; split <;> rfl
@[simp] theorem modTile_staged : (r.modTile i f).staged = r.staged := by unfold Region.modTile; split <;> rfl
@[simp] theorem modTile_restage : (r.modTile i f).restage = r.restage := by unfold Region.modTile; split <;> rfl
@[simp] theorem modTile_restaging : (r.modTile i f).restaging = r.restaging := by unfold Region.modTile; split <;> rfl
@[simp] theorem modTile_stepPc : (r.modTile i f).stepPc = r.stepPc := by unfold Region.modTile; split <;> rfl
@[simp] theorem modTile_stepWord : (r.modTile i f).stepWord = r.stepWord := by unfold Region.modTile; split <;> rfl
@[simp] theorem modTile_run : (r.modTile i f).run = r.run := by unfold Region.modTile; split <;> rfl
@[simp] theorem modTile_steps : (r.modTile i f).steps = r.steps := by unfold Region.modTile; split <;> rfl
@[simp] theorem modTile_colls : (r.modTile i f).colls = r.colls := by unfold Region.modTile; split <;> rfl
@[simp] theorem modTile_collCount : (r.modTile i f).collCount = r.collCount := by unfold Region.modTile; split <;> rfl
@[simp] theorem modTile_seals : (r.modTile i f).seals = r.seals := by unfold Region.modTile; split <;> rfl
@[simp] theorem modTile_admitted : (r.modTile i f).admitted = r.admitted := by unfold Region.modTile; split <;> rfl
@[simp] theorem modTile_draining : (r.modTile i f).draining = r.draining := by unfold Region.modTile; split <;> rfl
@[simp] theorem modTile_frames : (r.modTile i f).frames = r.frames := by unfold Region.modTile; split <;> rfl
@[simp] theorem modTile_condFault : (r.modTile i f).condFault = r.condFault := by unfold Region.modTile; split <;> rfl
@[simp] theorem modTile_restart : (r.modTile i f).restart = r.restart := by unfold Region.modTile; split <;> rfl
@[simp] theorem modTile_sinceRecord : (r.modTile i f).sinceRecord = r.sinceRecord := by unfold Region.modTile; split <;> rfl
@[simp] theorem modTile_measured : (r.modTile i f).measured = r.measured := by unfold Region.modTile; split <;> rfl
@[simp] theorem modTile_kept : (r.modTile i f).kept = r.kept := by unfold Region.modTile; split <;> rfl
@[simp] theorem modTile_grant : (r.modTile i f).grant = r.grant := by unfold Region.modTile; split <;> rfl
@[simp] theorem modTile_nextGrant : (r.modTile i f).nextGrant = r.nextGrant := by unfold Region.modTile; split <;> rfl
@[simp] theorem modTile_vd : (r.modTile i f).vd = r.vd := by unfold Region.modTile; split <;> rfl
@[simp] theorem modTile_split : (r.modTile i f).split = r.split := by unfold Region.modTile; split <;> rfl
@[simp] theorem modTile_grantWords : (r.modTile i f).grantWords = r.grantWords := by unfold Region.modTile; split <;> rfl
@[simp] theorem modTile_awaits : (r.modTile i f).awaits = r.awaits := by unfold Region.modTile; split <;> rfl
@[simp] theorem modTile_rmeas : (r.modTile i f).rmeas = r.rmeas := by unfold Region.modTile; split <;> rfl
@[simp] theorem modTile_evSeq : (r.modTile i f).evSeq = r.evSeq := by unfold Region.modTile; split <;> rfl
@[simp] theorem modTile_unpub : (r.modTile i f).unpub = r.unpub := by unfold Region.modTile; split <;> rfl
@[simp] theorem modTile_shown : (r.modTile i f).shown = r.shown := by unfold Region.modTile; split <;> rfl
@[simp] theorem modTile_log : (r.modTile i f).log = r.log := by unfold Region.modTile; split <;> rfl
@[simp] theorem modTile_mark : (r.modTile i f).mark = r.mark := by unfold Region.modTile; split <;> rfl
@[simp] theorem modTile_bars : (r.modTile i f).bars = r.bars := by unfold Region.modTile; split <;> rfl
end

/-- The changed tile. -/
theorem modTile_tile (r : Region) (i : Nat) (f : Tile → Tile) : (r.modTile i f).tiles[i]? = (r.tiles[i]?).map f := by
  unfold Region.modTile
  cases h : r.tiles[i]? with
  | none => simpa using h
  | some t =>
    have hi : i < r.tiles.length := (List.getElem?_eq_some_iff.1 h).1
    simp [hi]

/-- Another tile is left alone. -/
theorem modTile_tile_ne (r : Region) (i j : Nat) (f : Tile → Tile) (h : j ≠ i) : (r.modTile i f).tiles[j]? = r.tiles[j]? := by
  unfold Region.modTile
  split
  · simp [List.getElem?_set_ne h.symm]
  · rfl

/-- The number of tiles stays. -/
@[simp] theorem modTile_length (r : Region) (i : Nat) (f : Tile → Tile) : (r.modTile i f).tiles.length = r.tiles.length := by
  unfold Region.modTile
  split <;> simp

/-! ## The running step of a region changed -/

section
variable (r : Region) (f : Run → Run)

@[simp] theorem modRun_st : (r.modRun f).st = r.st := rfl
@[simp] theorem modRun_w : (r.modRun f).w = r.w := rfl
@[simp] theorem modRun_h : (r.modRun f).h = r.h := rfl
@[simp] theorem modRun_place : (r.modRun f).place = r.place := rfl
@[simp] theorem modRun_holds : (r.modRun f).holds = r.holds := rfl
@[simp] theorem modRun_saved : (r.modRun f).saved = r.saved := rfl
@[simp] theorem modRun_k : (r.modRun f).k = r.k := rfl
@[simp] theorem modRun_cs : (r.modRun f).cs = r.cs := rfl
@[simp] theorem modRun_asid : (r.modRun f).asid = r.asid := rfl
@[simp] theorem modRun_service : (r.modRun f).service = r.service := rfl
@[simp] theorem modRun_shared : (r.modRun f).shared = r.shared := rfl
@[simp] theorem modRun_slot : (r.modRun f).slot = r.slot := rfl
@[simp] theorem modRun_rotmask : (r.modRun f).rotmask = r.rotmask := rfl
@[simp] theorem modRun_seam : (r.modRun f).seam = r.seam := rfl
@[simp] theorem modRun_descAddr : (r.modRun f).descAddr = r.descAddr := rfl
@[simp] theorem modRun_startQ : (r.modRun f).startQ = r.startQ := rfl
@[simp] theorem modRun_cmdQ : (r.modRun f).cmdQ = r.cmdQ := rfl
@[simp] theorem modRun_ctrs : (r.modRun f).ctrs = r.ctrs := rfl
@[simp] theorem modRun_graphs : (r.modRun f).graphs = r.graphs := rfl
@[simp] theorem modRun_begun : (r.modRun f).begun = r.begun := rfl
@[simp] theorem modRun_poolShared : (r.modRun f).poolShared = r.poolShared := rfl
@[simp] theorem modRun_poolRes : (r.modRun f).poolRes = r.poolRes := rfl
@[simp] theorem modRun_afterYield : (r.modRun f).afterYield = r.afterYield := rfl
@[simp] theorem modRun_staging : (r.modRun f).staging = r.staging := rfl
@[simp] theorem modRun_crc : (r.modRun f).crc = r.crc := rfl
@[simp] theorem modRun_staged : (r.modRun f).staged = r.staged := rfl
@[simp] theorem modRun_restage : (r.modRun f).restage = r.restage := rfl
@[simp] theorem modRun_restaging : (r.modRun f).restaging = r.restaging := rfl
@[simp] theorem modRun_stepPc : (r.modRun f).stepPc = r.stepPc := rfl
@[simp] theorem modRun_stepWord : (r.modRun f).stepWord = r.stepWord := rfl
@[simp] theorem modRun_tiles : (r.modRun f).tiles = r.tiles := rfl
@[simp] theorem modRun_steps : (r.modRun f).steps = r.steps := rfl
@[simp] theorem modRun_colls : (r.modRun f).colls = r.colls := rfl
@[simp] theorem modRun_collCount : (r.modRun f).collCount = r.collCount := rfl
@[simp] theorem modRun_seals : (r.modRun f).seals = r.seals := rfl
@[simp] theorem modRun_admitted : (r.modRun f).admitted = r.admitted := rfl
@[simp] theorem modRun_draining : (r.modRun f).draining = r.draining := rfl
@[simp] theorem modRun_frames : (r.modRun f).frames = r.frames := rfl
@[simp] theorem modRun_condFault : (r.modRun f).condFault = r.condFault := rfl
@[simp] theorem modRun_restart : (r.modRun f).restart = r.restart := rfl
@[simp] theorem modRun_sinceRecord : (r.modRun f).sinceRecord = r.sinceRecord := rfl
@[simp] theorem modRun_measured : (r.modRun f).measured = r.measured := rfl
@[simp] theorem modRun_kept : (r.modRun f).kept = r.kept := rfl
@[simp] theorem modRun_grant : (r.modRun f).grant = r.grant := rfl
@[simp] theorem modRun_nextGrant : (r.modRun f).nextGrant = r.nextGrant := rfl
@[simp] theorem modRun_vd : (r.modRun f).vd = r.vd := rfl
@[simp] theorem modRun_split : (r.modRun f).split = r.split := rfl
@[simp] theorem modRun_grantWords : (r.modRun f).grantWords = r.grantWords := rfl
@[simp] theorem modRun_awaits : (r.modRun f).awaits = r.awaits := rfl
@[simp] theorem modRun_rmeas : (r.modRun f).rmeas = r.rmeas := rfl
@[simp] theorem modRun_evSeq : (r.modRun f).evSeq = r.evSeq := rfl
@[simp] theorem modRun_unpub : (r.modRun f).unpub = r.unpub := rfl
@[simp] theorem modRun_shown : (r.modRun f).shown = r.shown := rfl
@[simp] theorem modRun_log : (r.modRun f).log = r.log := rfl
@[simp] theorem modRun_mark : (r.modRun f).mark = r.mark := rfl
@[simp] theorem modRun_bars : (r.modRun f).bars = r.bars := rfl
end

@[simp] theorem modRun_run (r : Region) (f : Run → Run) : (r.modRun f).run = r.run.map f := rfl

/-! ## A counter of a region replaced -/

section
variable (r : Region) (c : Nat) (x : Ctr)

@[simp] theorem setCtr_st : (r.setCtr c x).st = r.st := rfl
@[simp] theorem setCtr_w : (r.setCtr c x).w = r.w := rfl
@[simp] theorem setCtr_h : (r.setCtr c x).h = r.h := rfl
@[simp] theorem setCtr_place : (r.setCtr c x).place = r.place := rfl
@[simp] theorem setCtr_holds : (r.setCtr c x).holds = r.holds := rfl
@[simp] theorem setCtr_saved : (r.setCtr c x).saved = r.saved := rfl
@[simp] theorem setCtr_k : (r.setCtr c x).k = r.k := rfl
@[simp] theorem setCtr_cs : (r.setCtr c x).cs = r.cs := rfl
@[simp] theorem setCtr_asid : (r.setCtr c x).asid = r.asid := rfl
@[simp] theorem setCtr_service : (r.setCtr c x).service = r.service := rfl
@[simp] theorem setCtr_shared : (r.setCtr c x).shared = r.shared := rfl
@[simp] theorem setCtr_slot : (r.setCtr c x).slot = r.slot := rfl
@[simp] theorem setCtr_rotmask : (r.setCtr c x).rotmask = r.rotmask := rfl
@[simp] theorem setCtr_seam : (r.setCtr c x).seam = r.seam := rfl
@[simp] theorem setCtr_descAddr : (r.setCtr c x).descAddr = r.descAddr := rfl
@[simp] theorem setCtr_startQ : (r.setCtr c x).startQ = r.startQ := rfl
@[simp] theorem setCtr_cmdQ : (r.setCtr c x).cmdQ = r.cmdQ := rfl
@[simp] theorem setCtr_graphs : (r.setCtr c x).graphs = r.graphs := rfl
@[simp] theorem setCtr_begun : (r.setCtr c x).begun = r.begun := rfl
@[simp] theorem setCtr_poolShared : (r.setCtr c x).poolShared = r.poolShared := rfl
@[simp] theorem setCtr_poolRes : (r.setCtr c x).poolRes = r.poolRes := rfl
@[simp] theorem setCtr_afterYield : (r.setCtr c x).afterYield = r.afterYield := rfl
@[simp] theorem setCtr_staging : (r.setCtr c x).staging = r.staging := rfl
@[simp] theorem setCtr_crc : (r.setCtr c x).crc = r.crc := rfl
@[simp] theorem setCtr_staged : (r.setCtr c x).staged = r.staged := rfl
@[simp] theorem setCtr_restage : (r.setCtr c x).restage = r.restage := rfl
@[simp] theorem setCtr_restaging : (r.setCtr c x).restaging = r.restaging := rfl
@[simp] theorem setCtr_stepPc : (r.setCtr c x).stepPc = r.stepPc := rfl
@[simp] theorem setCtr_stepWord : (r.setCtr c x).stepWord = r.stepWord := rfl
@[simp] theorem setCtr_run : (r.setCtr c x).run = r.run := rfl
@[simp] theorem setCtr_tiles : (r.setCtr c x).tiles = r.tiles := rfl
@[simp] theorem setCtr_steps : (r.setCtr c x).steps = r.steps := rfl
@[simp] theorem setCtr_colls : (r.setCtr c x).colls = r.colls := rfl
@[simp] theorem setCtr_collCount : (r.setCtr c x).collCount = r.collCount := rfl
@[simp] theorem setCtr_seals : (r.setCtr c x).seals = r.seals := rfl
@[simp] theorem setCtr_admitted : (r.setCtr c x).admitted = r.admitted := rfl
@[simp] theorem setCtr_draining : (r.setCtr c x).draining = r.draining := rfl
@[simp] theorem setCtr_frames : (r.setCtr c x).frames = r.frames := rfl
@[simp] theorem setCtr_condFault : (r.setCtr c x).condFault = r.condFault := rfl
@[simp] theorem setCtr_restart : (r.setCtr c x).restart = r.restart := rfl
@[simp] theorem setCtr_sinceRecord : (r.setCtr c x).sinceRecord = r.sinceRecord := rfl
@[simp] theorem setCtr_measured : (r.setCtr c x).measured = r.measured := rfl
@[simp] theorem setCtr_kept : (r.setCtr c x).kept = r.kept := rfl
@[simp] theorem setCtr_grant : (r.setCtr c x).grant = r.grant := rfl
@[simp] theorem setCtr_nextGrant : (r.setCtr c x).nextGrant = r.nextGrant := rfl
@[simp] theorem setCtr_vd : (r.setCtr c x).vd = r.vd := rfl
@[simp] theorem setCtr_split : (r.setCtr c x).split = r.split := rfl
@[simp] theorem setCtr_grantWords : (r.setCtr c x).grantWords = r.grantWords := rfl
@[simp] theorem setCtr_awaits : (r.setCtr c x).awaits = r.awaits := rfl
@[simp] theorem setCtr_rmeas : (r.setCtr c x).rmeas = r.rmeas := rfl
@[simp] theorem setCtr_evSeq : (r.setCtr c x).evSeq = r.evSeq := rfl
@[simp] theorem setCtr_unpub : (r.setCtr c x).unpub = r.unpub := rfl
@[simp] theorem setCtr_shown : (r.setCtr c x).shown = r.shown := rfl
@[simp] theorem setCtr_log : (r.setCtr c x).log = r.log := rfl
@[simp] theorem setCtr_mark : (r.setCtr c x).mark = r.mark := rfl
@[simp] theorem setCtr_bars : (r.setCtr c x).bars = r.bars := rfl
end

/-- Another counter is left alone. -/
theorem ctr_setCtr_ne (r : Region) (c c' : Nat) (x : Ctr) (h : c' ≠ c) : (r.setCtr c x).ctr c' = r.ctr c' :=
  tabGet_tabSet_ne _ _ _ _ _ h

/-- A replaced counter is read back where the table of counters is canonical. -/
theorem ctr_setCtr_same (r : Region) (c : Nat) (x : Ctr) (h : tabWf {} r.ctrs = true) : (r.setCtr c x).ctr c = x :=
  tabGet_tabSet_same _ _ _ _ h

/-! ## The running graph of a region replaced -/

section
variable (r : Region) (g : Graph)

@[simp] theorem setGraph_st : (r.setGraph g).st = r.st := by unfold Region.setGraph; split <;> rfl
@[simp] theorem setGraph_w : (r.setGraph g).w = r.w := by unfold Region.setGraph; split <;> rfl
@[simp] theorem setGraph_h : (r.setGraph g).h = r.h := by unfold Region.setGraph; split <;> rfl
@[simp] theorem setGraph_place : (r.setGraph g).place = r.place := by unfold Region.setGraph; split <;> rfl
@[simp] theorem setGraph_holds : (r.setGraph g).holds = r.holds := by unfold Region.setGraph; split <;> rfl
@[simp] theorem setGraph_saved : (r.setGraph g).saved = r.saved := by unfold Region.setGraph; split <;> rfl
@[simp] theorem setGraph_k : (r.setGraph g).k = r.k := by unfold Region.setGraph; split <;> rfl
@[simp] theorem setGraph_cs : (r.setGraph g).cs = r.cs := by unfold Region.setGraph; split <;> rfl
@[simp] theorem setGraph_asid : (r.setGraph g).asid = r.asid := by unfold Region.setGraph; split <;> rfl
@[simp] theorem setGraph_service : (r.setGraph g).service = r.service := by unfold Region.setGraph; split <;> rfl
@[simp] theorem setGraph_shared : (r.setGraph g).shared = r.shared := by unfold Region.setGraph; split <;> rfl
@[simp] theorem setGraph_slot : (r.setGraph g).slot = r.slot := by unfold Region.setGraph; split <;> rfl
@[simp] theorem setGraph_rotmask : (r.setGraph g).rotmask = r.rotmask := by unfold Region.setGraph; split <;> rfl
@[simp] theorem setGraph_seam : (r.setGraph g).seam = r.seam := by unfold Region.setGraph; split <;> rfl
@[simp] theorem setGraph_descAddr : (r.setGraph g).descAddr = r.descAddr := by unfold Region.setGraph; split <;> rfl
@[simp] theorem setGraph_startQ : (r.setGraph g).startQ = r.startQ := by unfold Region.setGraph; split <;> rfl
@[simp] theorem setGraph_cmdQ : (r.setGraph g).cmdQ = r.cmdQ := by unfold Region.setGraph; split <;> rfl
@[simp] theorem setGraph_ctrs : (r.setGraph g).ctrs = r.ctrs := by unfold Region.setGraph; split <;> rfl
@[simp] theorem setGraph_begun : (r.setGraph g).begun = r.begun := by unfold Region.setGraph; split <;> rfl
@[simp] theorem setGraph_poolShared : (r.setGraph g).poolShared = r.poolShared := by unfold Region.setGraph; split <;> rfl
@[simp] theorem setGraph_poolRes : (r.setGraph g).poolRes = r.poolRes := by unfold Region.setGraph; split <;> rfl
@[simp] theorem setGraph_afterYield : (r.setGraph g).afterYield = r.afterYield := by unfold Region.setGraph; split <;> rfl
@[simp] theorem setGraph_staging : (r.setGraph g).staging = r.staging := by unfold Region.setGraph; split <;> rfl
@[simp] theorem setGraph_crc : (r.setGraph g).crc = r.crc := by unfold Region.setGraph; split <;> rfl
@[simp] theorem setGraph_staged : (r.setGraph g).staged = r.staged := by unfold Region.setGraph; split <;> rfl
@[simp] theorem setGraph_restage : (r.setGraph g).restage = r.restage := by unfold Region.setGraph; split <;> rfl
@[simp] theorem setGraph_restaging : (r.setGraph g).restaging = r.restaging := by unfold Region.setGraph; split <;> rfl
@[simp] theorem setGraph_stepPc : (r.setGraph g).stepPc = r.stepPc := by unfold Region.setGraph; split <;> rfl
@[simp] theorem setGraph_stepWord : (r.setGraph g).stepWord = r.stepWord := by unfold Region.setGraph; split <;> rfl
@[simp] theorem setGraph_run : (r.setGraph g).run = r.run := by unfold Region.setGraph; split <;> rfl
@[simp] theorem setGraph_tiles : (r.setGraph g).tiles = r.tiles := by unfold Region.setGraph; split <;> rfl
@[simp] theorem setGraph_steps : (r.setGraph g).steps = r.steps := by unfold Region.setGraph; split <;> rfl
@[simp] theorem setGraph_colls : (r.setGraph g).colls = r.colls := by unfold Region.setGraph; split <;> rfl
@[simp] theorem setGraph_collCount : (r.setGraph g).collCount = r.collCount := by unfold Region.setGraph; split <;> rfl
@[simp] theorem setGraph_seals : (r.setGraph g).seals = r.seals := by unfold Region.setGraph; split <;> rfl
@[simp] theorem setGraph_admitted : (r.setGraph g).admitted = r.admitted := by unfold Region.setGraph; split <;> rfl
@[simp] theorem setGraph_draining : (r.setGraph g).draining = r.draining := by unfold Region.setGraph; split <;> rfl
@[simp] theorem setGraph_frames : (r.setGraph g).frames = r.frames := by unfold Region.setGraph; split <;> rfl
@[simp] theorem setGraph_condFault : (r.setGraph g).condFault = r.condFault := by unfold Region.setGraph; split <;> rfl
@[simp] theorem setGraph_restart : (r.setGraph g).restart = r.restart := by unfold Region.setGraph; split <;> rfl
@[simp] theorem setGraph_sinceRecord : (r.setGraph g).sinceRecord = r.sinceRecord := by unfold Region.setGraph; split <;> rfl
@[simp] theorem setGraph_measured : (r.setGraph g).measured = r.measured := by unfold Region.setGraph; split <;> rfl
@[simp] theorem setGraph_kept : (r.setGraph g).kept = r.kept := by unfold Region.setGraph; split <;> rfl
@[simp] theorem setGraph_grant : (r.setGraph g).grant = r.grant := by unfold Region.setGraph; split <;> rfl
@[simp] theorem setGraph_nextGrant : (r.setGraph g).nextGrant = r.nextGrant := by unfold Region.setGraph; split <;> rfl
@[simp] theorem setGraph_vd : (r.setGraph g).vd = r.vd := by unfold Region.setGraph; split <;> rfl
@[simp] theorem setGraph_split : (r.setGraph g).split = r.split := by unfold Region.setGraph; split <;> rfl
@[simp] theorem setGraph_grantWords : (r.setGraph g).grantWords = r.grantWords := by unfold Region.setGraph; split <;> rfl
@[simp] theorem setGraph_awaits : (r.setGraph g).awaits = r.awaits := by unfold Region.setGraph; split <;> rfl
@[simp] theorem setGraph_rmeas : (r.setGraph g).rmeas = r.rmeas := by unfold Region.setGraph; split <;> rfl
@[simp] theorem setGraph_evSeq : (r.setGraph g).evSeq = r.evSeq := by unfold Region.setGraph; split <;> rfl
@[simp] theorem setGraph_unpub : (r.setGraph g).unpub = r.unpub := by unfold Region.setGraph; split <;> rfl
@[simp] theorem setGraph_shown : (r.setGraph g).shown = r.shown := by unfold Region.setGraph; split <;> rfl
@[simp] theorem setGraph_log : (r.setGraph g).log = r.log := by unfold Region.setGraph; split <;> rfl
@[simp] theorem setGraph_mark : (r.setGraph g).mark = r.mark := by unfold Region.setGraph; split <;> rfl
@[simp] theorem setGraph_bars : (r.setGraph g).bars = r.bars := by unfold Region.setGraph; split <;> rfl
end

/-! ## Streams of a tile -/

section
variable (t : Tile) (k : SeqKind) (x : Stream)

@[simp] theorem setStream_tick : (t.setStream k x).tick = t.tick := by cases k <;> rfl
@[simp] theorem setStream_hold : (t.setStream k x).hold = t.hold := by cases k <;> rfl
@[simp] theorem setStream_rotb : (t.setStream k x).rotb = t.rotb := by cases k <;> rfl
@[simp] theorem setStream_driftw : (t.setStream k x).driftw = t.driftw := by cases k <;> rfl
@[simp] theorem setStream_key : (t.setStream k x).key = t.key := by cases k <;> rfl
@[simp] theorem setStream_drawCtr : (t.setStream k x).drawCtr = t.drawCtr := by cases k <;> rfl
@[simp] theorem setStream_drawId : (t.setStream k x).drawId = t.drawId := by cases k <;> rfl
@[simp] theorem setStream_spad : (t.setStream k x).spad = t.spad := by cases k <;> rfl
@[simp] theorem setStream_side : (t.setStream k x).side = t.side := by cases k <;> rfl
@[simp] theorem setStream_zflag : (t.setStream k x).zflag = t.zflag := by cases k <;> rfl
@[simp] theorem setStream_wflag : (t.setStream k x).wflag = t.wflag := by cases k <;> rfl
@[simp] theorem setStream_banks : (t.setStream k x).banks = t.banks := by cases k <;> rfl
@[simp] theorem setStream_queues : (t.setStream k x).queues = t.queues := by cases k <;> rfl
@[simp] theorem setStream_rows : (t.setStream k x).rows = t.rows := by cases k <;> rfl
@[simp] theorem setStream_sets : (t.setStream k x).sets = t.sets := by cases k <;> rfl
@[simp] theorem setStream_masks : (t.setStream k x).masks = t.masks := by cases k <;> rfl
@[simp] theorem setStream_acc : (t.setStream k x).acc = t.acc := by cases k <;> rfl
@[simp] theorem setStream_sat0 : (t.setStream k x).sat0 = t.sat0 := by cases k <;> rfl
@[simp] theorem setStream_sat1 : (t.setStream k x).sat1 = t.sat1 := by cases k <;> rfl
@[simp] theorem setStream_arrayBusy : (t.setStream k x).arrayBusy = t.arrayBusy := by cases k <;> rfl
@[simp] theorem setStream_outst : (t.setStream k x).outst = t.outst := by cases k <;> rfl
@[simp] theorem setStream_armed : (t.setStream k x).armed = t.armed := by cases k <;> rfl
@[simp] theorem setStream_virga : (t.setStream k x).virga = t.virga := by cases k <;> rfl
@[simp] theorem setStream_drift : (t.setStream k x).drift = t.drift := by cases k <;> rfl
@[simp] theorem setStream_soft : (t.setStream k x).soft = t.soft := by cases k <;> rfl
@[simp] theorem setStream_virgaSoft : (t.setStream k x).virgaSoft = t.virgaSoft := by cases k <;> rfl
@[simp] theorem setStream_before : (t.setStream k x).before = t.before := by cases k <;> rfl
@[simp] theorem stream_setStream : (t.setStream k x).stream k = x := by cases k <;> rfl

/-- Another stream is left alone. -/
theorem stream_setStream_ne (k' : SeqKind) (h : k'.isStream = true) (hk : k.isStream = true) (h' : k' ≠ k) :
    (t.setStream k x).stream k' = t.stream k' := by
  cases k <;> cases k' <;> simp_all [SeqKind.isStream, Tile.setStream, Tile.stream]
end

/-! ## Queues of a tile -/

section
variable (t : Tile) (q : Nat) (xs : List QSlot)

@[simp] theorem setQueue_tick : (t.setQueue q xs).tick = t.tick := rfl
@[simp] theorem setQueue_hold : (t.setQueue q xs).hold = t.hold := rfl
@[simp] theorem setQueue_ld : (t.setQueue q xs).ld = t.ld := rfl
@[simp] theorem setQueue_ex : (t.setQueue q xs).ex = t.ex := rfl
@[simp] theorem setQueue_st : (t.setQueue q xs).st = t.st := rfl
@[simp] theorem setQueue_ct : (t.setQueue q xs).ct = t.ct := rfl
@[simp] theorem setQueue_rotb : (t.setQueue q xs).rotb = t.rotb := rfl
@[simp] theorem setQueue_driftw : (t.setQueue q xs).driftw = t.driftw := rfl
@[simp] theorem setQueue_key : (t.setQueue q xs).key = t.key := rfl
@[simp] theorem setQueue_drawCtr : (t.setQueue q xs).drawCtr = t.drawCtr := rfl
@[simp] theorem setQueue_drawId : (t.setQueue q xs).drawId = t.drawId := rfl
@[simp] theorem setQueue_spad : (t.setQueue q xs).spad = t.spad := rfl
@[simp] theorem setQueue_side : (t.setQueue q xs).side = t.side := rfl
@[simp] theorem setQueue_zflag : (t.setQueue q xs).zflag = t.zflag := rfl
@[simp] theorem setQueue_wflag : (t.setQueue q xs).wflag = t.wflag := rfl
@[simp] theorem setQueue_banks : (t.setQueue q xs).banks = t.banks := rfl
@[simp] theorem setQueue_rows : (t.setQueue q xs).rows = t.rows := rfl
@[simp] theorem setQueue_sets : (t.setQueue q xs).sets = t.sets := rfl
@[simp] theorem setQueue_masks : (t.setQueue q xs).masks = t.masks := rfl
@[simp] theorem setQueue_acc : (t.setQueue q xs).acc = t.acc := rfl
@[simp] theorem setQueue_sat0 : (t.setQueue q xs).sat0 = t.sat0 := rfl
@[simp] theorem setQueue_sat1 : (t.setQueue q xs).sat1 = t.sat1 := rfl
@[simp] theorem setQueue_arrayBusy : (t.setQueue q xs).arrayBusy = t.arrayBusy := rfl
@[simp] theorem setQueue_outst : (t.setQueue q xs).outst = t.outst := rfl
@[simp] theorem setQueue_armed : (t.setQueue q xs).armed = t.armed := rfl
@[simp] theorem setQueue_virga : (t.setQueue q xs).virga = t.virga := rfl
@[simp] theorem setQueue_drift : (t.setQueue q xs).drift = t.drift := rfl
@[simp] theorem setQueue_soft : (t.setQueue q xs).soft = t.soft := rfl
@[simp] theorem setQueue_virgaSoft : (t.setQueue q xs).virgaSoft = t.virgaSoft := rfl
@[simp] theorem setQueue_before : (t.setQueue q xs).before = t.before := rfl
@[simp] theorem setQueue_stream (k : SeqKind) : (t.setQueue q xs).stream k = t.stream k := by cases k <;> rfl

/-- Another queue is left alone. -/
theorem queue_setQueue_ne (q' : Nat) (h : q' ≠ q) : (t.setQueue q xs).queue q' = t.queue q' := tabGet_tabSet_ne _ _ _ _ _ h

/-- A replaced queue is read back where the table of queues is canonical. -/
theorem queue_setQueue_same (h : tabWf [] t.queues = true) : (t.setQueue q xs).queue q = xs := tabGet_tabSet_same _ _ _ _ h
end

/-! ## Lines of a tile -/

section
variable (t : Tile) (l : Nat) (d : BitVec 512) (sb : BitVec 128)

@[simp] theorem setLine_tick : (t.setLine l d sb).tick = t.tick := rfl
@[simp] theorem setLine_hold : (t.setLine l d sb).hold = t.hold := rfl
@[simp] theorem setLine_ld : (t.setLine l d sb).ld = t.ld := rfl
@[simp] theorem setLine_ex : (t.setLine l d sb).ex = t.ex := rfl
@[simp] theorem setLine_st : (t.setLine l d sb).st = t.st := rfl
@[simp] theorem setLine_ct : (t.setLine l d sb).ct = t.ct := rfl
@[simp] theorem setLine_rotb : (t.setLine l d sb).rotb = t.rotb := rfl
@[simp] theorem setLine_driftw : (t.setLine l d sb).driftw = t.driftw := rfl
@[simp] theorem setLine_key : (t.setLine l d sb).key = t.key := rfl
@[simp] theorem setLine_drawCtr : (t.setLine l d sb).drawCtr = t.drawCtr := rfl
@[simp] theorem setLine_drawId : (t.setLine l d sb).drawId = t.drawId := rfl
@[simp] theorem setLine_banks : (t.setLine l d sb).banks = t.banks := rfl
@[simp] theorem setLine_queues : (t.setLine l d sb).queues = t.queues := rfl
@[simp] theorem setLine_rows : (t.setLine l d sb).rows = t.rows := rfl
@[simp] theorem setLine_sets : (t.setLine l d sb).sets = t.sets := rfl
@[simp] theorem setLine_masks : (t.setLine l d sb).masks = t.masks := rfl
@[simp] theorem setLine_acc : (t.setLine l d sb).acc = t.acc := rfl
@[simp] theorem setLine_sat0 : (t.setLine l d sb).sat0 = t.sat0 := rfl
@[simp] theorem setLine_sat1 : (t.setLine l d sb).sat1 = t.sat1 := rfl
@[simp] theorem setLine_arrayBusy : (t.setLine l d sb).arrayBusy = t.arrayBusy := rfl
@[simp] theorem setLine_outst : (t.setLine l d sb).outst = t.outst := rfl
@[simp] theorem setLine_armed : (t.setLine l d sb).armed = t.armed := rfl
@[simp] theorem setLine_virga : (t.setLine l d sb).virga = t.virga := rfl
@[simp] theorem setLine_drift : (t.setLine l d sb).drift = t.drift := rfl
@[simp] theorem setLine_virgaSoft : (t.setLine l d sb).virgaSoft = t.virgaSoft := rfl
@[simp] theorem setLine_before : (t.setLine l d sb).before = t.before := rfl

/-- A written line keeps the scratchpad canonical. -/
theorem setLine_spad_wf (h : t.spad.wf = true) : (t.setLine l d sb).spad.wf = true := memWrite_wf _ _ _ _ h

/-- A written line keeps the sidebands canonical. -/
theorem setLine_side_wf (h : t.side.wf = true) : (t.setLine l d sb).side.wf = true := memWrite_wf _ _ _ _ h
end

/-! ## Effects of a running step -/

section
variable (run : Run) (e : Eff)

@[simp] theorem add_img : (run.add e).img = run.img := rfl
@[simp] theorem add_epoch : (run.add e).epoch = run.epoch := rfl
@[simp] theorem add_effs : (run.add e).effs = effInsert e run.effs := rfl
@[simp] theorem add_reqs : (run.add e).reqs = run.reqs := rfl
@[simp] theorem add_nextReq : (run.add e).nextReq = run.nextReq := rfl
@[simp] theorem add_lastDep : (run.add e).lastDep = run.lastDep := rfl
@[simp] theorem add_ports : (run.add e).ports = run.ports := rfl
@[simp] theorem add_chans : (run.add e).chans = run.chans := rfl
@[simp] theorem add_faults : (run.add e).faults = run.faults := rfl
@[simp] theorem add_stop : (run.add e).stop = run.stop := rfl
@[simp] theorem add_f : (run.add e).f = run.f := rfl
@[simp] theorem add_copies : (run.add e).copies = run.copies := rfl
@[simp] theorem add_acqs : (run.add e).acqs = run.acqs := rfl
@[simp] theorem add_fronts : (run.add e).fronts = run.fronts := rfl
@[simp] theorem add_seals : (run.add e).seals = run.seals := rfl
@[simp] theorem add_sealed0 : (run.add e).sealed0 = run.sealed0 := rfl
@[simp] theorem add_undo : (run.add e).undo = run.undo := rfl
@[simp] theorem add_fresh : (run.add e).fresh = run.fresh := rfl
@[simp] theorem add_lost : (run.add e).lost = run.lost := rfl
@[simp] theorem add_badCarried : (run.add e).badCarried = run.badCarried := rfl
@[simp] theorem add_errs : (run.add e).errs = run.errs := rfl
@[simp] theorem add_reexec : (run.add e).reexec = run.reexec := rfl
@[simp] theorem add_fabric : (run.add e).fabric = run.fabric := rfl
@[simp] theorem add_collCount0 : (run.add e).collCount0 = run.collCount0 := rfl

/-- The effects in flight after one is added are those there were and that one. -/
theorem mem_effInsert (x : Eff) (es : List Eff) : x ∈ effInsert e es ↔ x = e ∨ x ∈ es := by
  induction es with
  | nil => simp [effInsert]
  | cons y es ih =>
    simp only [effInsert]
    split
    · simp
    · simp [ih, or_left_comm]

/-- The effects in flight after several are added. -/
theorem mem_addAll_effs (es : List Eff) (x : Eff) : x ∈ (run.addAll es).effs ↔ x ∈ es ∨ x ∈ run.effs := by
  induction es generalizing run with
  | nil => simp [Run.addAll]
  | cons y es ih =>
    have : run.addAll (y :: es) = (run.add y).addAll es := rfl
    rw [this, ih, add_effs, mem_effInsert]
    simp [or_left_comm, or_assoc]
end

/-! ## Scalar registers (05 R75) -/

/-- s0 reads as zero. -/
@[simp] theorem regGet_zero (x : Regs) : regGet x 0 = 0 := rfl

/-- A write to s0 is discarded. -/
@[simp] theorem regSet_zero (x : Regs) (v : Word) : regSet x 0 v = x := rfl

/-- A write to a register leaves the others alone. -/
theorem regGet_regSet_ne (x : Regs) (d r : BitVec 4) (v : Word) (h : r ≠ d) : regGet (regSet x d v) r = regGet x r := by
  unfold regGet regSet
  split
  · rfl
  · split
    · rfl
    · exact tabGet_tabSet_ne _ _ _ _ _ (fun hn => h (BitVec.eq_of_toNat_eq hn))

/-- A register but s0 holds what was written, where the registers are canonical. -/
theorem regGet_regSet_same (x : Regs) (d : BitVec 4) (v : Word) (hx : tabWf 0 x = true) (h : d ≠ 0) :
    regGet (regSet x d v) d = v := by
  unfold regGet regSet
  rw [if_neg h, if_neg h]
  exact tabGet_tabSet_same _ _ _ _ hx

end Sys2Proof.Machine
end

