-- ==== Sys2Proof/Laws/Issue.lean ====
section
/-! SUPPORT. What issuing a word, raising a fault and doing an effect can do: one lemma for each shared operation. -/

namespace Sys2Proof.Machine

/-! ## Issuing a word of a stream -/

/-- Everything that issuing a word can do: no sequencer, an illegal instruction, the word's own effect, or nothing but its
occupancy where its guard is false. -/
theorem issue_cases (i : Instr) (s : State) (f : Ctx → Iss) :
    (s.ctx = none ∧ issue i s f = .fault .noSequencer) ∨
    ∃ c, s.ctx = some c ∧
      ((∃ n, c.cause i = some n ∧ issue i s f = .next (c.finish (.stop s 1 n 0 0))) ∨
       (c.cause i = none ∧ c.guardOn = true ∧ issue i s f = .next (c.driftWatch (c.finish (f c)))) ∨
       (c.cause i = none ∧ c.guardOn = false ∧ issue i s f = .next (c.driftWatch (c.finish (skipped i s))))) := by
  cases h : s.ctx with
  | none => exact .inl ⟨rfl, by simp [issue, h]⟩
  | some c =>
    refine .inr ⟨c, rfl, ?_⟩
    cases hc : c.cause i with
    | some n => exact .inl ⟨n, rfl, by simp [issue, h, hc]⟩
    | none =>
      cases hg : c.guardOn with
      | true => exact .inr (.inl ⟨rfl, rfl, by simp [issue, h, hc, hg]⟩)
      | false => exact .inr (.inr ⟨rfl, rfl, by simp [issue, h, hc, hg]⟩)

/-- A word that is an instruction and whose guard is true has its own effect. -/
theorem issue_runs (i : Instr) (s : State) (f : Ctx → Iss) (c : Ctx) (h : s.ctx = some c) (hc : c.cause i = none)
    (hg : c.guardOn = true) : issue i s f = .next (c.driftWatch (c.finish (f c))) := by
  simp [issue, h, hc, hg]

/-- A word that breaks a rule of the running step is an illegal instruction. -/
theorem issue_illegal (i : Instr) (s : State) (f : Ctx → Iss) (c : Ctx) (n : Nat) (h : s.ctx = some c)
    (hc : c.cause i = some n) : issue i s f = .next (c.finish (.stop s 1 n 0 0)) := by
  simp [issue, h, hc]

/-- The context of a stream is that of the region, the running step and the tile that the cursor names. -/
theorem ctx_eq (s : State) (c : Ctx) (h : s.ctx = some c) :
    s.cur = .stream c.rid c.tile c.k ∧ c.r = s.region c.rid ∧ c.r.run = some c.run ∧ c.r.tiles[c.tile]? = some c.tl ∧
      c.x = c.tl.stream c.k ∧ c.t = c.tl.tick ∧ c.pc = c.x.pc ∧ c.word = c.x.wordAt c.x.pc := by
  unfold State.ctx at h
  split at h
  · rename_i rid tile k hcur
    simp only at h
    split at h
    · rename_i run tl hr ht
      cases h
      exact ⟨hcur, rfl, hr, ht, rfl, rfl, rfl, rfl⟩
    · cases h
  · cases h

/-- A cursor at a stream names no conductor. -/
theorem ctx_not_conductor (s : State) (c : Ctx) (h : s.ctx = some c) (rid : Nat) (w : BitVec 32) :
    s.cur ≠ .conductor rid w := by
  have := (ctx_eq s c h).1
  simp [this]

/-- A word that streams and conductors share, on a stream. -/
theorem issueShared_stream (i : Instr) (s : State) (f : (BitVec 4 → Word) → Nat → ROut) (c : Ctx) (h : s.ctx = some c) :
    issueShared i s f = issue i s (fun c => streamShared c s (f c.rd c.pc)) := by
  have hcur := (ctx_eq s c h).1
  simp [issueShared, hcur]

/-! ## Issuing a word of a conductor -/

/-- Everything that issuing a conductor's word can do. -/
theorem issueCond_cases (i : Instr) (s : State) (f : CCtx → Out) :
    (s.cctx = none ∧ issueCond i s f = .fault .noSequencer) ∨
    ∃ c, s.cctx = some c ∧
      ((i.wf c.kind = false ∧ issueCond i s f = .next (c.illegal s 2)) ∨ (i.wf c.kind = true ∧ issueCond i s f = f c)) := by
  cases h : s.cctx with
  | none => exact .inl ⟨rfl, by simp [issueCond, h]⟩
  | some c =>
    refine .inr ⟨c, rfl, ?_⟩
    cases hw : i.wf c.kind with
    | true => exact .inr ⟨rfl, by simp [issueCond, h, hw]⟩
    | false => exact .inl ⟨rfl, by simp [issueCond, h, hw]⟩

/-- The context of a conductor is that of the region that the cursor names and its running graph. -/
theorem cctx_eq (s : State) (c : CCtx) (h : s.cctx = some c) :
    s.cur = .conductor c.rid c.word ∧ c.r = s.region c.rid ∧ ∃ gs, c.r.graphs = c.g :: gs := by
  unfold State.cctx at h
  split at h
  · rename_i rid word hcur
    simp only at h
    split at h
    · rename_i g gs hg
      cases h
      exact ⟨hcur, rfl, gs, hg⟩
    · cases h
  · cases h

/-- A word that streams and conductors share, on a conductor. -/
theorem issueShared_conductor (i : Instr) (s : State) (f : (BitVec 4 → Word) → Nat → ROut) (c : CCtx) (h : s.cctx = some c) :
    issueShared i s f = issueCond i s (fun c => .next (condShared c s (f c.rd c.g.pc))) := by
  have hcur := (cctx_eq s c h).1
  simp [issueShared, hcur]

/-! ## Raising a fault (21 R319) -/

/-- Raising a fault changes a region's running step and tiles alone. -/
theorem raise_frame (r : Region) (f : FaultRec) (sub : Nat) :
    { r.raise f sub with run := r.run, tiles := r.tiles } = r := by
  unfold Region.raise
  split
  · rfl
  · simp only
    split
    · rfl
    · split
      · rename_i run hrun _ _ _
        simp only [← hrun]
      · unfold Region.modTile
        simp only
        split <;> rfl

/-- A fault at or after the stop tick is not raised. -/
theorem raise_late (r : Region) (f : FaultRec) (sub : Nat) (run : Run) (st : Nat) (h : r.run = some run)
    (hs : run.stop = some st) (hle : st ≤ f.tick) : r.raise f sub = r := by
  simp [Region.raise, h, hs, hle]

/-! ## Effects -/

/-- Everything that doing an effect can do: it is not due, or the effect leaves the list, the tiles come to its tick, and the rest
is its own. -/
theorem onEffect_cases (s : State) (rid : Nat) (want : Act → Bool) (f : State → Eff → Out) :
    onEffect s rid want f = .fault .notDue ∨
    ∃ u e, (s.region rid).pick = some (u, .eff e) ∧ want e.act = true ∧
      e.tile < (((s.region rid).advance u).modRun (fun run => { run with effs := run.effs.erase e })).tiles.length ∧
      onEffect s rid want f =
        f (s.setRegion rid (((s.region rid).advance u).modRun (fun run => { run with effs := run.effs.erase e }))) e := by
  unfold onEffect
  simp only
  split
  · rename_i u e hp
    split
    · rename_i hw
      split
      · rename_i hu
        exact .inr ⟨u, e, hp, hw, hu, rfl⟩
      · exact .inl rfl
    · exact .inl rfl
  · exact .inl rfl

/-- The ticks of a region's tiles go on, what is kept for going back may change, and nothing else does. -/
theorem advance_frame (r : Region) (u : Nat) :
    { r.advance u with tiles := r.tiles, mark := r.mark, bars := r.bars } = r := by
  unfold Region.advance
  split
  · rfl
  · simp only [Region.noteDue, Region.watch]
    repeat' split
    all_goals rfl

end Sys2Proof.Machine
end

