-- ==== Sys2Proof/Laws/Memory.lean ====
section
/-! SUPPORT. Every operation that writes a memory keeps its canonical form (log 5). -/

namespace Sys2Proof.Machine

/-- A property that every step of a fold keeps holds after the fold. -/
theorem foldl_keeps {α β : Type} (P : β → Prop) (f : β → α → β) (h : ∀ b a, P b → P (f b a)) (l : List α) (b : β) (hb : P b) :
    P (l.foldl f b) := by
  induction l generalizing b with
  | nil => exact hb
  | cons a l ih => exact ih _ (h b a hb)

/-! ## Device, table and host memory -/

/-- A write inside a line. -/
theorem setBytes_hbm_wf (m : Mem) (key n v : Nat) (h : m.hbm.wf = true) : (m.setBytes key n v).hbm.wf = true :=
  memWrite_wf _ _ _ _ h

/-- A line put back. -/
theorem putLine_hbm_wf (m : Mem) (l : Nat) (d : BitVec 512) (st : BitVec 32) (h : m.hbm.wf = true) :
    (m.putLine l d st).hbm.wf = true :=
  memWrite_wf _ _ _ _ h

/-- Lines put back at the end of a step. -/
theorem restore_hbm_wf (m : Mem) (us : List Undo) (h : m.hbm.wf = true) : (m.restore us).hbm.wf = true := by
  unfold Mem.restore
  refine foldl_keeps (fun m : Mem => m.hbm.wf = true) _ (fun m u hm => ?_) us m h
  split
  · exact putLine_hbm_wf _ _ _ _ hm
  · exact hm

/-- The lines of a step that is cut short. -/
theorem cutLines_hbm_wf (s : State) (us : List Undo) (w : Bool) (h : s.mem.hbm.wf = true) :
    (s.cutLines us w).mem.hbm.wf = true := by
  unfold State.cutLines
  refine foldl_keeps (fun s : State => s.mem.hbm.wf = true) _ (fun s u hs => ?_) us s h
  dsimp only
  split
  · exact hs
  · exact putLine_hbm_wf _ _ _ _ hs

/-- A lost granule. -/
theorem loseGranule_hbm_wf (m : Mem) (key : Nat) (h : m.hbm.wf = true) : (m.loseGranule key).hbm.wf = true :=
  memWrite_wf _ _ _ _ h

/-- A write through an address space. -/
theorem writeVa_hbm_wf (s : State) (rid : Nat) (va : Word) (n v : Nat) (h : s.mem.hbm.wf = true) :
    (s.writeVa rid va n v).mem.hbm.wf = true := by
  unfold State.writeVa
  refine foldl_keeps (fun s : State => s.mem.hbm.wf = true) _ (fun s p hs => ?_) _ s h
  dsimp only
  split
  · exact memWrite_wf _ _ _ _ hs
  · exact hs

/-- Cells moved to other addresses by one distance keep their order. -/
theorem shift_wf (m : Memory) (src dst : Nat) (h : m.wf = true) (hs : ∀ c ∈ m, src ≤ c.1) :
    Memory.wf (m.map (fun c => (c.1 - src + dst, c.2))) = true := by
  induction m with
  | nil => rfl
  | cons x m ih =>
    obtain ⟨hx, hlt, hm⟩ := (tabWf_cons _ _ _).1 h
    refine (tabWf_cons _ _ _).2 ⟨hx, ?_, ih hm (fun c hc => hs c (List.mem_cons_of_mem _ hc))⟩
    intro y hy
    obtain ⟨c, hc, rfl⟩ := List.mem_map.1 hy
    have h1 := hlt c hc
    have h2 := hs x List.mem_cons_self
    simp only
    omega

/-- One range of keys copied over another. -/
theorem memCopy_wf (m : Memory) (src dst n : Nat) (h : m.wf = true) : (memCopy m src dst n).wf = true := by
  have hf (p : Host.Cell → Bool) : Memory.wf (m.filter p) = true := filter_tabWf _ _ _ h
  unfold memCopy
  refine append_tabWf _ _ _ (append_tabWf _ _ _ (hf _) (shift_wf _ _ _ (hf _) ?_) ?_) (hf _) ?_
  · intro c hc
    have := (List.mem_filter.1 hc).2
    simp at this
    exact this.1
  · intro x hx y hy
    obtain ⟨c, hc, rfl⟩ := List.mem_map.1 hy
    have h1 := (List.mem_filter.1 hx).2
    have h2 := (List.mem_filter.1 hc).2
    simp at h1 h2 ⊢
    omega
  · intro x hx y hy
    have h2 := (List.mem_filter.1 hy).2
    simp at h2
    rcases List.mem_append.1 hx with hx | hx
    · have h1 := (List.mem_filter.1 hx).2
      simp at h1
      omega
    · obtain ⟨c, hc, rfl⟩ := List.mem_map.1 hx
      have h1 := (List.mem_filter.1 hc).2
      simp at h1 ⊢
      omega

/-- The replica frames of a page filled. -/
theorem fillReplica_hbm_wf (s : State) (rid : Nat) (e : Tlb) (h : s.mem.hbm.wf = true) :
    (s.fillReplica rid e).mem.hbm.wf = true :=
  foldl_keeps (fun m : Memory => m.wf = true) _ (fun _ _ hm => memCopy_wf _ _ _ _ hm) _ _ h

/-- An event's entry in host memory. -/
theorem writeEvent_host_wf (s : State) (e : Event) (h : s.mem.host.wf = true) : (s.writeEvent e).mem.host.wf = true := by
  have hf (bs : List Nat) (f g : Nat → Nat) (m : Memory) (hm : m.wf = true) :
      (bs.foldl (fun m i => memWrite m (f i) 1 (g i)) m).wf = true :=
    foldl_keeps (fun m : Memory => m.wf = true) _ (fun _ _ hm => memWrite_wf _ _ _ _ hm) bs m hm
  unfold State.writeEvent
  generalize List.range 32 = bs
  dsimp only
  split <;> exact hf bs _ _ _ h

/-! ## Scratchpads -/

/-- A scratchpad in canonical form, its sidebands too. -/
structure SpadWf (t : Tile) : Prop where
  spad : t.spad.wf = true
  side : t.side.wf = true

/-- A whole line written. -/
theorem setLine_wf (t : Tile) (l : Nat) (d : BitVec 512) (sb : BitVec 128) (h : SpadWf t) : SpadWf (t.setLine l d sb) :=
  ⟨memWrite_wf _ _ _ _ h.spad, memWrite_wf _ _ _ _ h.side⟩

/-- Bytes written inside a line. -/
theorem setBytes_wf (t : Tile) (off n v : Nat) (h : SpadWf t) : SpadWf (t.setBytes off n v) :=
  ⟨memWrite_wf _ _ _ _ h.spad, memWrite_wf _ _ _ _ h.side⟩

/-- A sideband written. -/
theorem setSide_wf (t : Tile) (l : Nat) (sb : BitVec 128) (h : SpadWf t) : SpadWf (t.setSide l sb) :=
  ⟨h.spad, memWrite_wf _ _ _ _ h.side⟩

/-- Stored bytes, their sidebands with them. -/
theorem put_wf (t : Tile) (fmt : BitVec 4) (off : Nat) (st : Stored) (h : SpadWf t) : SpadWf (t.put fmt off st) :=
  foldl_keeps SpadWf _ (fun _ _ ht => setSide_wf _ _ _ (setBytes_wf _ _ _ _ ht)) _ t h

/-- Payload bytes. -/
theorem putBytes_wf (t : Tile) (off n data : Nat) (h : SpadWf t) : SpadWf (t.putBytes off n data) :=
  foldl_keeps SpadWf _ (fun _ _ ht => setBytes_wf _ _ _ _ ht) _ t h

/-- Every bank write. -/
theorem bankWr_wf (w : BankWr) (t u : Tile) (h : SpadWf t) (hp : w.put t = some u) : SpadWf u := by
  cases w with
  | stq off ent =>
    simp only [BankWr.put] at hp
    split at hp
    · cases hp; exact put_wf _ _ _ _ h
    · cases hp
  | stt off stride ent =>
    simp only [BankWr.put] at hp
    split at hp
    · cases hp; exact foldl_keeps SpadWf _ (fun _ _ ht => put_wf _ _ _ _ ht) _ t h
    · cases hp
  | scat offs ent =>
    simp only [BankWr.put] at hp
    split at hp
    · cases hp; exact foldl_keeps SpadWf _ (fun _ _ ht => put_wf _ _ _ _ ht) _ t h
    · cases hp
  | stx off v => cases hp; exact setBytes_wf _ _ _ _ h
  | recv off line => cases hp; exact setLine_wf _ _ _ _ h

/-! ## Reset -/

/-- Every memory of the machine after reset is in canonical form. -/
theorem reset_memory_wf : State.reset.mem.hbm.wf = true ∧ State.reset.mem.table.wf = true ∧ State.reset.mem.host.wf = true ∧
    State.reset.boot.flash0.wf = true ∧ State.reset.boot.flash1.wf = true := by decide

end Sys2Proof.Machine
end

