-- ==== Sys2Proof/Laws/PerInstr.lean ====
section
/-! SUPPORT. Statements made of each instruction as syntax: the words that a conductor accepts have IDLE 0 and S 0
(11 R221). -/

namespace Sys2Proof

/-! ## The fields of an encoded word -/

/-- A field above the low part of a word lies in the high part. -/
theorem extract_above {v w : Nat} (x : BitVec v) (y : BitVec w) (lo len : Nat) :
    (x ++ y).extractLsb' (w + lo) len = x.extractLsb' lo len := by
  apply BitVec.eq_of_getLsbD_eq
  intro i hi
  simp [BitVec.getLsbD_append, hi, Nat.add_assoc]

/-- IDLE of a word of this format. -/
@[simp] theorem fIdle_mkR (h : Head) (op : BitVec 7) (d a b f : BitVec 4) : fIdle (mkR h op d a b f) = h.idle := by
  unfold fIdle mkR
  refine (extract_above _ (f) 25 3).trans ?_
  refine (extract_above _ (b) 21 3).trans ?_
  refine (extract_above _ (a) 17 3).trans ?_
  refine (extract_above _ (d) 13 3).trans ?_
  refine (extract_above _ (h.g) 10 3).trans ?_
  refine (extract_above _ (op) 3 3).trans ?_
  refine (extract_above _ (0#2) 1 3).trans ?_
  refine (extract_above _ (BitVec.ofBool h.sq) 0 3).trans ?_
  simp

/-- S of a word of this format. -/
@[simp] theorem fS_mkR (h : Head) (op : BitVec 7) (d a b f : BitVec 4) : fS (mkR h op d a b f) = h.sq := by
  have e : (mkR h op d a b f).extractLsb' 28 1 = BitVec.ofBool h.sq := by
    unfold mkR
    refine (extract_above _ (f) 24 1).trans ?_
    refine (extract_above _ (b) 20 1).trans ?_
    refine (extract_above _ (a) 16 1).trans ?_
    refine (extract_above _ (d) 12 1).trans ?_
    refine (extract_above _ (h.g) 9 1).trans ?_
    refine (extract_above _ (op) 2 1).trans ?_
    refine (extract_above _ (0#2) 0 1).trans ?_
    rw [BitVec.extractLsb'_append_eq_right]
  unfold fS
  rw [e]
  cases h.sq <;> rfl

/-- IDLE of a word of this format. -/
@[simp] theorem fIdle_mkR8 (h : Head) (op : BitVec 7) (d a : BitVec 4) (n : BitVec 8) : fIdle (mkR8 h op d a n) = h.idle := by
  unfold fIdle mkR8
  refine (extract_above _ (n) 21 3).trans ?_
  refine (extract_above _ (a) 17 3).trans ?_
  refine (extract_above _ (d) 13 3).trans ?_
  refine (extract_above _ (h.g) 10 3).trans ?_
  refine (extract_above _ (op) 3 3).trans ?_
  refine (extract_above _ (0#2) 1 3).trans ?_
  refine (extract_above _ (BitVec.ofBool h.sq) 0 3).trans ?_
  simp

/-- S of a word of this format. -/
@[simp] theorem fS_mkR8 (h : Head) (op : BitVec 7) (d a : BitVec 4) (n : BitVec 8) : fS (mkR8 h op d a n) = h.sq := by
  have e : (mkR8 h op d a n).extractLsb' 28 1 = BitVec.ofBool h.sq := by
    unfold mkR8
    refine (extract_above _ (n) 20 1).trans ?_
    refine (extract_above _ (a) 16 1).trans ?_
    refine (extract_above _ (d) 12 1).trans ?_
    refine (extract_above _ (h.g) 9 1).trans ?_
    refine (extract_above _ (op) 2 1).trans ?_
    refine (extract_above _ (0#2) 0 1).trans ?_
    rw [BitVec.extractLsb'_append_eq_right]
  unfold fS
  rw [e]
  cases h.sq <;> rfl

/-- IDLE of a word of this format. -/
@[simp] theorem fIdle_mkI (h : Head) (op : BitVec 5) (d a : BitVec 4) (imm : BitVec 10) : fIdle (mkI h op d a imm) = h.idle := by
  unfold fIdle mkI
  refine (extract_above _ (imm) 19 3).trans ?_
  refine (extract_above _ (a) 15 3).trans ?_
  refine (extract_above _ (d) 11 3).trans ?_
  refine (extract_above _ (h.g) 8 3).trans ?_
  refine (extract_above _ (op) 3 3).trans ?_
  refine (extract_above _ (1#2) 1 3).trans ?_
  refine (extract_above _ (BitVec.ofBool h.sq) 0 3).trans ?_
  simp

/-- S of a word of this format. -/
@[simp] theorem fS_mkI (h : Head) (op : BitVec 5) (d a : BitVec 4) (imm : BitVec 10) : fS (mkI h op d a imm) = h.sq := by
  have e : (mkI h op d a imm).extractLsb' 28 1 = BitVec.ofBool h.sq := by
    unfold mkI
    refine (extract_above _ (imm) 18 1).trans ?_
    refine (extract_above _ (a) 14 1).trans ?_
    refine (extract_above _ (d) 10 1).trans ?_
    refine (extract_above _ (h.g) 7 1).trans ?_
    refine (extract_above _ (op) 2 1).trans ?_
    refine (extract_above _ (1#2) 0 1).trans ?_
    rw [BitVec.extractLsb'_append_eq_right]
  unfold fS
  rw [e]
  cases h.sq <;> rfl

/-- IDLE of a word of this format. -/
@[simp] theorem fIdle_mkW (h : HeadW) (op : BitVec 3) (d : BitVec 4) (imm : BitVec 19) : fIdle (mkW h op d imm) = h.idle := by
  unfold fIdle mkW
  refine (extract_above _ (imm) 10 3).trans ?_
  refine (extract_above _ (d) 6 3).trans ?_
  refine (extract_above _ (op) 3 3).trans ?_
  refine (extract_above _ (2#2) 1 3).trans ?_
  refine (extract_above _ (BitVec.ofBool h.sq) 0 3).trans ?_
  simp

/-- S of a word of this format. -/
@[simp] theorem fS_mkW (h : HeadW) (op : BitVec 3) (d : BitVec 4) (imm : BitVec 19) : fS (mkW h op d imm) = h.sq := by
  have e : (mkW h op d imm).extractLsb' 28 1 = BitVec.ofBool h.sq := by
    unfold mkW
    refine (extract_above _ (imm) 9 1).trans ?_
    refine (extract_above _ (d) 5 1).trans ?_
    refine (extract_above _ (op) 2 1).trans ?_
    refine (extract_above _ (2#2) 0 1).trans ?_
    rw [BitVec.extractLsb'_append_eq_right]
  unfold fS
  rw [e]
  cases h.sq <;> rfl

end Sys2Proof

namespace Sys2Proof.Laws.ConductorPlain

/-- Of an instruction that is well-formed on a conductor, the word has IDLE 0 and S 0. -/
def Statement (i : Instr) : Prop :=
  ∀ k w, k.isStream = false → i.wf k = true → encode i = some w → fIdle w = 0 ∧ fS w = false

/-- An instruction that has no word. -/
theorem no_word {i : Instr} (h : encode i = none) : Statement i := by
  intro k w _ _ he
  rw [h] at he
  cases he

/-- An instruction of the streams alone. -/
theorem stream_only {i : Instr} (h : ∀ k, i.wf k = true → k.isStream = true) : Statement i := by
  intro k w hk hw _
  rw [h k hw] at hk
  cases hk

/-- A word of a conductor alone: its head is empty. -/
theorem bare {i : Instr} {op : BitVec 7} {d a b f : BitVec 4} (h : encode i = some (mkR hd0 op d a b f)) : Statement i := by
  intro k w _ _ he
  rw [h] at he
  cases he
  simp [hd0]

/-- A word of a conductor alone whose {B,F} is one field. -/
theorem bare8 {i : Instr} {op : BitVec 7} {d a : BitVec 4} {n : BitVec 8} (h : encode i = some (mkR8 hd0 op d a n)) :
    Statement i := by
  intro k w _ _ he
  rw [h] at he
  cases he
  simp [hd0]

/-- The first of two conditions. -/
theorem left {a b : Bool} (h : (a && b) = true) : a = true := (Bool.and_eq_true_iff.1 h).1

/-- The second of two conditions. -/
theorem right {a b : Bool} (h : (a && b) = true) : b = true := (Bool.and_eq_true_iff.1 h).2

/-- An instruction of the streams of one kind. -/
theorem one_kind {i : Instr} (K : SeqKind) (hK : K.isStream = true) (h : ∀ k, i.wf k = true → (k == K) = true) :
    Statement i :=
  stream_only (fun k hw => by rw [beq_iff_eq.1 (h k hw)]; exact hK)

/-- The head of a shared word on a conductor. -/
theorem head_plain {k : SeqKind} {h : Head} (hk : k.isStream = false) (hw : (k.isStream || (headPlain h && h.g == 0)) = true) :
    h.idle = 0 ∧ h.sq = false := by
  simp_all [headPlain]

/-- A word that streams and conductors share. -/
theorem shared {i : Instr} {h : Head} {op : BitVec 7} {d a b f : BitVec 4} (he : encode i = some (mkR h op d a b f))
    (hp : ∀ k, i.wf k = true → (k.isStream || (headPlain h && h.g == 0)) = true) : Statement i := by
  intro k w hk hw hi
  rw [he] at hi
  cases hi
  simpa using head_plain hk (hp k hw)

/-- The same, whose {B,F} is one field. -/
theorem shared8 {i : Instr} {h : Head} {op : BitVec 7} {d a : BitVec 4} {n : BitVec 8} (he : encode i = some (mkR8 h op d a n))
    (hp : ∀ k, i.wf k = true → (k.isStream || (headPlain h && h.g == 0)) = true) : Statement i := by
  intro k w hk hw hi
  rw [he] at hi
  cases hi
  simpa using head_plain hk (hp k hw)

/-- The same of the I format. -/
theorem sharedI {i : Instr} {h : Head} {op : BitVec 5} {d a : BitVec 4} {m : BitVec 10} (he : encode i = some (mkI h op d a m))
    (hp : ∀ k, i.wf k = true → (k.isStream || (headPlain h && h.g == 0)) = true) : Statement i := by
  intro k w hk hw hi
  rw [he] at hi
  cases hi
  simpa using head_plain hk (hp k hw)

/-- The same of the W format, which has no guard. -/
theorem sharedW {i : Instr} {h : HeadW} {op : BitVec 3} {d : BitVec 4} {m : BitVec 19} (he : encode i = some (mkW h op d m))
    (hp : ∀ k, i.wf k = true → (k.isStream || (h.idle == 0 && !h.sq)) = true) : Statement i := by
  intro k w hk hw hi
  rw [he] at hi
  cases hi
  have := hp k hw
  simp_all


theorem nop : ∀ x0, Statement (.nop x0) := fun _ => shared8 rfl (fun _ hw => hw)
theorem add : ∀ x0 x1 x2 x3, Statement (.add x0 x1 x2 x3) := fun _ _ _ _ => shared rfl (fun _ hw => hw)
theorem sub : ∀ x0 x1 x2 x3, Statement (.sub x0 x1 x2 x3) := fun _ _ _ _ => shared rfl (fun _ hw => hw)
theorem and : ∀ x0 x1 x2 x3, Statement (.and x0 x1 x2 x3) := fun _ _ _ _ => shared rfl (fun _ hw => hw)
theorem or : ∀ x0 x1 x2 x3, Statement (.or x0 x1 x2 x3) := fun _ _ _ _ => shared rfl (fun _ hw => hw)
theorem xor : ∀ x0 x1 x2 x3, Statement (.xor x0 x1 x2 x3) := fun _ _ _ _ => shared rfl (fun _ hw => hw)
theorem sll : ∀ x0 x1 x2 x3, Statement (.sll x0 x1 x2 x3) := fun _ _ _ _ => shared rfl (fun _ hw => hw)
theorem srl : ∀ x0 x1 x2 x3, Statement (.srl x0 x1 x2 x3) := fun _ _ _ _ => shared rfl (fun _ hw => hw)
theorem sra : ∀ x0 x1 x2 x3, Statement (.sra x0 x1 x2 x3) := fun _ _ _ _ => shared rfl (fun _ hw => hw)
theorem mul : ∀ x0 x1 x2 x3, Statement (.mul x0 x1 x2 x3) := fun _ _ _ _ => shared rfl (fun _ hw => hw)
theorem mulh : ∀ x0 x1 x2 x3, Statement (.mulh x0 x1 x2 x3) := fun _ _ _ _ => shared rfl (fun _ hw => hw)
theorem mulhu : ∀ x0 x1 x2 x3, Statement (.mulhu x0 x1 x2 x3) := fun _ _ _ _ => shared rfl (fun _ hw => hw)
theorem div : ∀ x0 x1 x2 x3, Statement (.div x0 x1 x2 x3) := fun _ _ _ _ => shared rfl (fun _ hw => hw)
theorem divu : ∀ x0 x1 x2 x3, Statement (.divu x0 x1 x2 x3) := fun _ _ _ _ => shared rfl (fun _ hw => hw)
theorem rem : ∀ x0 x1 x2 x3, Statement (.rem x0 x1 x2 x3) := fun _ _ _ _ => shared rfl (fun _ hw => hw)
theorem remu : ∀ x0 x1 x2 x3, Statement (.remu x0 x1 x2 x3) := fun _ _ _ _ => shared rfl (fun _ hw => hw)
theorem min : ∀ x0 x1 x2 x3, Statement (.min x0 x1 x2 x3) := fun _ _ _ _ => shared rfl (fun _ hw => hw)
theorem max : ∀ x0 x1 x2 x3, Statement (.max x0 x1 x2 x3) := fun _ _ _ _ => shared rfl (fun _ hw => hw)
theorem minu : ∀ x0 x1 x2 x3, Statement (.minu x0 x1 x2 x3) := fun _ _ _ _ => shared rfl (fun _ hw => hw)
theorem maxu : ∀ x0 x1 x2 x3, Statement (.maxu x0 x1 x2 x3) := fun _ _ _ _ => shared rfl (fun _ hw => hw)
theorem slt : ∀ x0 x1 x2 x3, Statement (.slt x0 x1 x2 x3) := fun _ _ _ _ => shared rfl (fun _ hw => hw)
theorem sltu : ∀ x0 x1 x2 x3, Statement (.sltu x0 x1 x2 x3) := fun _ _ _ _ => shared rfl (fun _ hw => hw)
theorem sel : ∀ x0 x1 x2 x3 x4, Statement (.sel x0 x1 x2 x3 x4) := fun _ _ _ _ _ => shared rfl (fun _ hw => hw)
theorem clz : ∀ x0 x1 x2, Statement (.clz x0 x1 x2) := fun _ _ _ => shared8 rfl (fun _ hw => hw)
theorem popc : ∀ x0 x1 x2, Statement (.popc x0 x1 x2) := fun _ _ _ => shared8 rfl (fun _ hw => hw)
theorem jr : ∀ x0 x1, Statement (.jr x0 x1) := fun _ _ => shared8 rfl (fun _ hw => hw)
theorem tick : ∀ x0 x1, Statement (.tick x0 x1) := fun _ _ => stream_only (fun _ hw => hw)
theorem idx : ∀ x0 x1 x2, Statement (.idx x0 x1 x2) := fun _ _ _ => stream_only (fun _ hw => (left hw))
theorem getc : ∀ x0 x1 x2, Statement (.getc x0 x1 x2) := fun _ _ _ => shared8 rfl (fun _ hw => (right hw))
theorem setc : ∀ x0 x1 x2, Statement (.setc x0 x1 x2) := fun _ _ _ => shared8 rfl (fun _ hw => (right hw))
theorem trap : ∀ x0 x1, Statement (.trap x0 x1) := fun _ _ => shared8 rfl (fun _ hw => hw)
theorem endStream : ∀ x0, Statement (.endStream x0) := fun _ => stream_only (fun _ hw => hw)
theorem ldq : ∀ x0 x1 x2, Statement (.ldq x0 x1 x2) :=
  fun _ _ _ => one_kind .load rfl (fun _ hw => (left hw))
theorem ldt : ∀ x0 x1 x2 x3, Statement (.ldt x0 x1 x2 x3) :=
  fun _ _ _ _ => one_kind .load rfl (fun _ hw => (left hw))
theorem ldb : ∀ x0 x1 x2, Statement (.ldb x0 x1 x2) :=
  fun _ _ _ => one_kind .load rfl (fun _ hw => (left hw))
theorem ldg : ∀ x0 x1 x2 x3, Statement (.ldg x0 x1 x2 x3) :=
  fun _ _ _ _ => one_kind .load rfl (fun _ hw => (left hw))
theorem ldm : ∀ x0 x1 x2 x3 x4, Statement (.ldm x0 x1 x2 x3 x4) :=
  fun _ _ _ _ _ => one_kind .load rfl (fun _ hw => (left (left (left hw))))
theorem ldx : ∀ x0 x1 x2, Statement (.ldx x0 x1 x2) :=
  fun _ _ _ => one_kind .load rfl (fun _ hw => hw)
theorem ldxm : ∀ x0 x1 x2, Statement (.ldxm x0 x1 x2) :=
  fun _ _ _ => one_kind .load rfl (fun _ hw => hw)
theorem recv : ∀ x0 x1 x2, Statement (.recv x0 x1 x2) :=
  fun _ _ _ => one_kind .load rfl (fun _ hw => hw)
theorem recvx : ∀ x0 x1 x2, Statement (.recvx x0 x1 x2) :=
  fun _ _ _ => one_kind .load rfl (fun _ hw => hw)
theorem lstop : ∀ x0 x1, Statement (.lstop x0 x1) :=
  fun _ _ => one_kind .load rfl (fun _ hw => (left hw))
theorem stq : ∀ x0 x1 x2, Statement (.stq x0 x1 x2) :=
  fun _ _ _ => one_kind .store rfl (fun _ hw => (left hw))
theorem stt : ∀ x0 x1 x2 x3, Statement (.stt x0 x1 x2 x3) :=
  fun _ _ _ _ => one_kind .store rfl (fun _ hw => (left hw))
theorem stm : ∀ x0 x1 x2 x3, Statement (.stm x0 x1 x2 x3) :=
  fun _ _ _ _ => one_kind .store rfl (fun _ hw => (left hw))
theorem stx : ∀ x0 x1 x2, Statement (.stx x0 x1 x2) :=
  fun _ _ _ => one_kind .store rfl (fun _ hw => hw)
theorem stxm : ∀ x0 x1 x2, Statement (.stxm x0 x1 x2) :=
  fun _ _ _ => one_kind .store rfl (fun _ hw => hw)
theorem send : ∀ x0 x1 x2, Statement (.send x0 x1 x2) :=
  fun _ _ _ => one_kind .store rfl (fun _ hw => hw)
theorem sendx : ∀ x0 x1 x2, Statement (.sendx x0 x1 x2) :=
  fun _ _ _ => one_kind .store rfl (fun _ hw => hw)
theorem scat : ∀ x0 x1 x2 x3, Statement (.scat x0 x1 x2 x3) :=
  fun _ _ _ _ => one_kind .store rfl (fun _ hw => (left hw))
theorem atom : ∀ x0 x1 x2 x3, Statement (.atom x0 x1 x2 x3) :=
  fun _ _ _ _ => one_kind .store rfl (fun _ hw => (left hw))
theorem atomf : ∀ x0 x1 x2 x3 x4, Statement (.atomf x0 x1 x2 x3 x4) :=
  fun _ _ _ _ _ => one_kind .store rfl (fun _ hw => (left hw))
theorem sstop : ∀ x0 x1 x2, Statement (.sstop x0 x1 x2) :=
  fun _ _ _ => one_kind .store rfl (fun _ hw => (left (left hw)))
theorem vadd : ∀ x0 x1 x2 x3 x4, Statement (.vadd x0 x1 x2 x3 x4) :=
  fun _ _ _ _ _ => one_kind .exec rfl (fun _ hw => (left hw))
theorem vsub : ∀ x0 x1 x2 x3 x4, Statement (.vsub x0 x1 x2 x3 x4) :=
  fun _ _ _ _ _ => one_kind .exec rfl (fun _ hw => (left hw))
theorem vmul : ∀ x0 x1 x2 x3 x4, Statement (.vmul x0 x1 x2 x3 x4) :=
  fun _ _ _ _ _ => one_kind .exec rfl (fun _ hw => (left hw))
theorem vfma : ∀ x0 x1 x2 x3 x4, Statement (.vfma x0 x1 x2 x3 x4) :=
  fun _ _ _ _ _ => one_kind .exec rfl (fun _ hw => (left hw))
theorem vfms : ∀ x0 x1 x2 x3 x4, Statement (.vfms x0 x1 x2 x3 x4) :=
  fun _ _ _ _ _ => one_kind .exec rfl (fun _ hw => (left hw))
theorem vmin : ∀ x0 x1 x2 x3 x4, Statement (.vmin x0 x1 x2 x3 x4) :=
  fun _ _ _ _ _ => one_kind .exec rfl (fun _ hw => (left hw))
theorem vmax : ∀ x0 x1 x2 x3 x4, Statement (.vmax x0 x1 x2 x3 x4) :=
  fun _ _ _ _ _ => one_kind .exec rfl (fun _ hw => (left hw))
theorem vabs : ∀ x0 x1 x2 x3, Statement (.vabs x0 x1 x2 x3) :=
  fun _ _ _ _ => one_kind .exec rfl (fun _ hw => (left hw))
theorem vneg : ∀ x0 x1 x2 x3, Statement (.vneg x0 x1 x2 x3) :=
  fun _ _ _ _ => one_kind .exec rfl (fun _ hw => (left hw))
theorem vrcp : ∀ x0 x1 x2 x3, Statement (.vrcp x0 x1 x2 x3) :=
  fun _ _ _ _ => one_kind .exec rfl (fun _ hw => (left hw))
theorem vsqrt : ∀ x0 x1 x2 x3, Statement (.vsqrt x0 x1 x2 x3) :=
  fun _ _ _ _ => one_kind .exec rfl (fun _ hw => (left hw))
theorem vrsq : ∀ x0 x1 x2 x3, Statement (.vrsq x0 x1 x2 x3) :=
  fun _ _ _ _ => one_kind .exec rfl (fun _ hw => (left hw))
theorem vexp : ∀ x0 x1 x2 x3, Statement (.vexp x0 x1 x2 x3) :=
  fun _ _ _ _ => one_kind .exec rfl (fun _ hw => (left hw))
theorem vlog : ∀ x0 x1 x2 x3, Statement (.vlog x0 x1 x2 x3) :=
  fun _ _ _ _ => one_kind .exec rfl (fun _ hw => (left hw))
theorem vtanh : ∀ x0 x1 x2 x3, Statement (.vtanh x0 x1 x2 x3) :=
  fun _ _ _ _ => one_kind .exec rfl (fun _ hw => (left hw))
theorem vsig : ∀ x0 x1 x2 x3, Statement (.vsig x0 x1 x2 x3) :=
  fun _ _ _ _ => one_kind .exec rfl (fun _ hw => (left hw))
theorem vand : ∀ x0 x1 x2 x3 x4, Statement (.vand x0 x1 x2 x3 x4) :=
  fun _ _ _ _ _ => one_kind .exec rfl (fun _ hw => hw)
theorem vor : ∀ x0 x1 x2 x3 x4, Statement (.vor x0 x1 x2 x3 x4) :=
  fun _ _ _ _ _ => one_kind .exec rfl (fun _ hw => hw)
theorem vxor : ∀ x0 x1 x2 x3 x4, Statement (.vxor x0 x1 x2 x3 x4) :=
  fun _ _ _ _ _ => one_kind .exec rfl (fun _ hw => hw)
theorem vshl : ∀ x0 x1 x2 x3 x4, Statement (.vshl x0 x1 x2 x3 x4) :=
  fun _ _ _ _ _ => one_kind .exec rfl (fun _ hw => (left hw))
theorem vshr : ∀ x0 x1 x2 x3 x4, Statement (.vshr x0 x1 x2 x3 x4) :=
  fun _ _ _ _ _ => one_kind .exec rfl (fun _ hw => (left hw))
theorem vsra : ∀ x0 x1 x2 x3 x4, Statement (.vsra x0 x1 x2 x3 x4) :=
  fun _ _ _ _ _ => one_kind .exec rfl (fun _ hw => (left hw))
theorem vcmp : ∀ x0 x1 x2 x3 x4, Statement (.vcmp x0 x1 x2 x3 x4) :=
  fun _ _ _ _ _ => one_kind .exec rfl (fun _ hw => (left hw))
theorem vselm : ∀ x0 x1 x2 x3 x4, Statement (.vselm x0 x1 x2 x3 x4) :=
  fun _ _ _ _ _ => one_kind .exec rfl (fun _ hw => hw)
theorem vcvt : ∀ x0 x1 x2 x3 x4 x5, Statement (.vcvt x0 x1 x2 x3 x4 x5) :=
  fun _ _ _ _ _ _ => one_kind .exec rfl (fun _ hw => (left hw))
theorem vmov : ∀ x0 x1 x2 x3, Statement (.vmov x0 x1 x2 x3) :=
  fun _ _ _ _ => one_kind .exec rfl (fun _ hw => hw)
theorem vbcast : ∀ x0 x1 x2 x3, Statement (.vbcast x0 x1 x2 x3) :=
  fun _ _ _ _ => one_kind .exec rfl (fun _ hw => (left hw))
theorem vrot : ∀ x0 x1 x2 x3 x4, Statement (.vrot x0 x1 x2 x3 x4) :=
  fun _ _ _ _ _ => one_kind .exec rfl (fun _ hw => hw)
theorem vshuf : ∀ x0 x1 x2 x3 x4, Statement (.vshuf x0 x1 x2 x3 x4) :=
  fun _ _ _ _ _ => one_kind .exec rfl (fun _ hw => (left hw))
theorem vtrn : ∀ x0 x1 x2 x3, Statement (.vtrn x0 x1 x2 x3) :=
  fun _ _ _ _ => one_kind .exec rfl (fun _ hw => hw)
theorem vscan : ∀ x0 x1 x2 x3 x4, Statement (.vscan x0 x1 x2 x3 x4) :=
  fun _ _ _ _ _ => one_kind .exec rfl (fun _ hw => (left hw))
theorem vred : ∀ x0 x1 x2 x3 x4, Statement (.vred x0 x1 x2 x3 x4) :=
  fun _ _ _ _ _ => one_kind .exec rfl (fun _ hw => (left hw))
theorem vmadw : ∀ x0 x1 x2 x3 x4, Statement (.vmadw x0 x1 x2 x3 x4) :=
  fun _ _ _ _ _ => one_kind .exec rfl (fun _ hw => (left hw))
theorem vaddw : ∀ x0 x1 x2 x3 x4, Statement (.vaddw x0 x1 x2 x3 x4) :=
  fun _ _ _ _ _ => one_kind .exec rfl (fun _ hw => (left hw))
theorem vpop : ∀ x0 x1 x2 x3, Statement (.vpop x0 x1 x2 x3) :=
  fun _ _ _ _ => one_kind .exec rfl (fun _ hw => (left (left hw)))
theorem vpush : ∀ x0 x1 x2 x3 x4, Statement (.vpush x0 x1 x2 x3 x4) :=
  fun _ _ _ _ _ => one_kind .exec rfl (fun _ hw => (left (left (left hw))))
theorem qdrop : ∀ x0 x1 x2, Statement (.qdrop x0 x1 x2) :=
  fun _ _ _ => one_kind .exec rfl (fun _ hw => (left (left hw)))
theorem vdraw : ∀ x0 x1 x2, Statement (.vdraw x0 x1 x2) :=
  fun _ _ _ => one_kind .exec rfl (fun _ hw => (left hw))
theorem vpopc : ∀ x0 x1 x2 x3, Statement (.vpopc x0 x1 x2 x3) :=
  fun _ _ _ _ => one_kind .exec rfl (fun _ hw => (left hw))
theorem vclass : ∀ x0 x1 x2 x3, Statement (.vclass x0 x1 x2 x3) :=
  fun _ _ _ _ => one_kind .exec rfl (fun _ hw => (left hw))
theorem pand : ∀ x0 x1 x2 x3, Statement (.pand x0 x1 x2 x3) :=
  fun _ _ _ _ => one_kind .exec rfl (fun _ hw => (left (left (left (left hw)))))
theorem por : ∀ x0 x1 x2 x3, Statement (.por x0 x1 x2 x3) :=
  fun _ _ _ _ => one_kind .exec rfl (fun _ hw => (left (left (left (left hw)))))
theorem pxor : ∀ x0 x1 x2 x3, Statement (.pxor x0 x1 x2 x3) :=
  fun _ _ _ _ => one_kind .exec rfl (fun _ hw => (left (left (left (left hw)))))
theorem pnot : ∀ x0 x1 x2, Statement (.pnot x0 x1 x2) :=
  fun _ _ _ => one_kind .exec rfl (fun _ hw => (left (left (left hw))))
theorem pset : ∀ x0 x1 x2 x3 x4, Statement (.pset x0 x1 x2 x3 x4) :=
  fun _ _ _ _ _ => one_kind .exec rfl (fun _ hw => (left (left (left hw))))
theorem pcnt : ∀ x0 x1 x2, Statement (.pcnt x0 x1 x2) :=
  fun _ _ _ => one_kind .exec rfl (fun _ hw => (left hw))
theorem pfirst : ∀ x0 x1 x2, Statement (.pfirst x0 x1 x2) :=
  fun _ _ _ => one_kind .exec rfl (fun _ hw => (left hw))
theorem vlane : ∀ x0 x1 x2 x3, Statement (.vlane x0 x1 x2 x3) :=
  fun _ _ _ _ => one_kind .exec rfl (fun _ hw => (left hw))
theorem mclr : ∀ x0 x1, Statement (.mclr x0 x1) :=
  fun _ _ => one_kind .exec rfl (fun _ hw => (left hw))
theorem mma : ∀ x0 x1 x2 x3 x4, Statement (.mma x0 x1 x2 x3 x4) :=
  fun _ _ _ _ _ => one_kind .exec rfl (fun _ hw => (left (left hw)))
theorem mread : ∀ x0 x1 x2 x3 x4, Statement (.mread x0 x1 x2 x3 x4) :=
  fun _ _ _ _ _ => one_kind .exec rfl (fun _ hw => (left (left (left hw))))
theorem maddw : ∀ x0 x1 x2 x3, Statement (.maddw x0 x1 x2 x3) :=
  fun _ _ _ _ => one_kind .exec rfl (fun _ hw => (left hw))
theorem mpush : ∀ x0 x1 x2 x3, Statement (.mpush x0 x1 x2 x3) :=
  fun _ _ _ _ => one_kind .exec rfl (fun _ hw => (left hw))
theorem mstat : ∀ x0 x1 x2 x3, Statement (.mstat x0 x1 x2 x3) :=
  fun _ _ _ _ => one_kind .exec rfl (fun _ hw => (left hw))
theorem cntw : ∀ x0 x1 x2, Statement (.cntw x0 x1 x2) :=
  fun _ _ _ => one_kind .ctl rfl (fun _ hw => (left hw))
theorem cnts : ∀ x0 x1 x2, Statement (.cnts x0 x1 x2) :=
  fun _ _ _ => one_kind .ctl rfl (fun _ hw => (left hw))
theorem cntr : ∀ x0 x1 x2, Statement (.cntr x0 x1 x2) :=
  fun _ _ _ => one_kind .ctl rfl (fun _ hw => (left hw))
theorem drift : ∀ x0 x1, Statement (.drift x0 x1) :=
  fun _ _ => one_kind .ctl rfl (fun _ hw => hw)
theorem sealR : ∀ x0 x1 x2, Statement (.sealR x0 x1 x2) :=
  fun _ _ _ => one_kind .ctl rfl (fun _ hw => hw)
theorem unsealR : ∀ x0 x1 x2, Statement (.unsealR x0 x1 x2) :=
  fun _ _ _ => one_kind .ctl rfl (fun _ hw => hw)
theorem bfmt : ∀ x0 x1 x2, Statement (.bfmt x0 x1 x2) :=
  fun _ _ _ => one_kind .ctl rfl (fun _ hw => (left hw))
theorem dkey : ∀ x0 x1, Statement (.dkey x0 x1) :=
  fun _ _ => one_kind .ctl rfl (fun _ hw => hw)
theorem addi : ∀ x0 x1 x2 x3, Statement (.addi x0 x1 x2 x3) := fun _ _ _ _ => sharedI rfl (fun _ hw => hw)
theorem andi : ∀ x0 x1 x2 x3, Statement (.andi x0 x1 x2 x3) := fun _ _ _ _ => sharedI rfl (fun _ hw => hw)
theorem ori : ∀ x0 x1 x2 x3, Statement (.ori x0 x1 x2 x3) := fun _ _ _ _ => sharedI rfl (fun _ hw => hw)
theorem xori : ∀ x0 x1 x2 x3, Statement (.xori x0 x1 x2 x3) := fun _ _ _ _ => sharedI rfl (fun _ hw => hw)
theorem slli : ∀ x0 x1 x2 x3, Statement (.slli x0 x1 x2 x3) := fun _ _ _ _ => sharedI rfl (fun _ hw => (right hw))
theorem srli : ∀ x0 x1 x2 x3, Statement (.srli x0 x1 x2 x3) := fun _ _ _ _ => sharedI rfl (fun _ hw => (right hw))
theorem srai : ∀ x0 x1 x2 x3, Statement (.srai x0 x1 x2 x3) := fun _ _ _ _ => sharedI rfl (fun _ hw => (right hw))
theorem slti : ∀ x0 x1 x2 x3, Statement (.slti x0 x1 x2 x3) := fun _ _ _ _ => sharedI rfl (fun _ hw => hw)
theorem beq : ∀ x0 x1 x2 x3, Statement (.beq x0 x1 x2 x3) := fun _ _ _ _ => sharedI rfl (fun _ hw => hw)
theorem bne : ∀ x0 x1 x2 x3, Statement (.bne x0 x1 x2 x3) := fun _ _ _ _ => sharedI rfl (fun _ hw => hw)
theorem blt : ∀ x0 x1 x2 x3, Statement (.blt x0 x1 x2 x3) := fun _ _ _ _ => sharedI rfl (fun _ hw => hw)
theorem bge : ∀ x0 x1 x2 x3, Statement (.bge x0 x1 x2 x3) := fun _ _ _ _ => sharedI rfl (fun _ hw => hw)
theorem bltu : ∀ x0 x1 x2 x3, Statement (.bltu x0 x1 x2 x3) := fun _ _ _ _ => sharedI rfl (fun _ hw => hw)
theorem bgeu : ∀ x0 x1 x2 x3, Statement (.bgeu x0 x1 x2 x3) := fun _ _ _ _ => sharedI rfl (fun _ hw => hw)
theorem loop : ∀ x0 x1 x2 x3 x4, Statement (.loop x0 x1 x2 x3 x4) := fun _ _ _ _ _ => stream_only (fun _ hw => (left (left (left (left hw)))))
theorem waitd : ∀ x0 x1 x2, Statement (.waitd x0 x1 x2) := fun _ _ _ => stream_only (fun _ hw => hw)
theorem formld : ∀ x0 x1 x2, Statement (.formld x0 x1 x2) := fun _ _ _ => stream_only (fun _ hw => (left hw))
theorem ldxo : ∀ x0 x1 x2 x3, Statement (.ldxo x0 x1 x2 x3) :=
  fun _ _ _ _ => one_kind .load rfl (fun _ hw => hw)
theorem stxo : ∀ x0 x1 x2 x3, Statement (.stxo x0 x1 x2 x3) :=
  fun _ _ _ _ => one_kind .store rfl (fun _ hw => hw)
theorem vbcasti : ∀ x0 x1 x2 x3, Statement (.vbcasti x0 x1 x2 x3) :=
  fun _ _ _ _ => one_kind .exec rfl (fun _ hw => hw)
theorem li : ∀ x0 x1 x2, Statement (.li x0 x1 x2) := fun _ _ _ => sharedW rfl (fun _ hw => hw)
theorem lih : ∀ x0 x1 x2, Statement (.lih x0 x1 x2) := fun _ _ _ => sharedW rfl (fun _ hw => hw)
theorem j : ∀ x0 x1, Statement (.j x0 x1) := fun _ _ => sharedW rfl (fun _ hw => hw)
theorem jal : ∀ x0 x1 x2, Statement (.jal x0 x1 x2) := fun _ _ _ => sharedW rfl (fun _ hw => hw)
theorem waitt : ∀ x0 x1 x2, Statement (.waitt x0 x1 x2) := fun _ _ _ => stream_only (fun _ hw => hw)
theorem lstrm : ∀ x0 x1 x2 x3 x4 x5, Statement (.lstrm x0 x1 x2 x3 x4 x5) :=
  fun _ _ _ _ _ _ => one_kind .load rfl (fun _ hw => (left (left hw)))
theorem gathp : ∀ x0 x1 x2 x3 x4, Statement (.gathp x0 x1 x2 x3 x4) :=
  fun _ _ _ _ _ => one_kind .load rfl (fun _ hw => hw)
theorem sstrm : ∀ x0 x1 x2 x3 x4 x5, Statement (.sstrm x0 x1 x2 x3 x4 x5) :=
  fun _ _ _ _ _ _ => one_kind .store rfl (fun _ hw => (left (left hw)))
theorem vtopk : ∀ x0 x1 x2 x3 x4 x5 x6 x7, Statement (.vtopk x0 x1 x2 x3 x4 x5 x6 x7) :=
  fun _ _ _ _ _ _ _ _ => one_kind .exec rfl (fun _ hw => (left (left (left (left hw)))))
theorem mmaForm : ∀ x0 x1 x2 x3 x4 x5 x6 x7 x8 x9, Statement (.mmaForm x0 x1 x2 x3 x4 x5 x6 x7 x8 x9) :=
  fun _ _ _ _ _ _ _ _ _ _ => one_kind .exec rfl (fun _ hw => (left (left hw)))
theorem mreadForm : ∀ x0 x1 x2 x3 x4 x5 x6 x7 x8 x9 x10, Statement (.mreadForm x0 x1 x2 x3 x4 x5 x6 x7 x8 x9 x10) :=
  fun _ _ _ _ _ _ _ _ _ _ _ => one_kind .exec rfl (fun _ hw => (left hw))
theorem dkeySplit : ∀ x0 x1 x2 x3, Statement (.dkeySplit x0 x1 x2 x3) :=
  fun _ _ _ _ => one_kind .ctl rfl (fun _ hw => hw)
theorem dkeySetCounter : ∀ x0 x1 x2 x3, Statement (.dkeySetCounter x0 x1 x2 x3) :=
  fun _ _ _ _ => one_kind .ctl rfl (fun _ hw => hw)
theorem copy : ∀ x0 x1 x2 x3 x4 x5 x6 x7 x8 x9 x10 x11 x12 x13 x14, Statement (.copy x0 x1 x2 x3 x4 x5 x6 x7 x8 x9 x10 x11 x12 x13 x14) :=
  fun _ _ _ _ _ _ _ _ _ _ _ _ _ _ _ => one_kind .ctl rfl (fun _ hw => (left hw))
theorem coll : ∀ x0 x1 x2 x3 x4 x5 x6 x7 x8 x9 x10 x11 x12 x13 x14 x15 x16, Statement (.coll x0 x1 x2 x3 x4 x5 x6 x7 x8 x9 x10 x11 x12 x13 x14 x15 x16) :=
  fun _ _ _ _ _ _ _ _ _ _ _ _ _ _ _ _ _ => one_kind .ctl rfl (fun _ hw => (left hw))
theorem condStep : ∀ x0 x1, Statement (.condStep x0 x1) := fun _ _ => bare rfl
theorem fence : ∀ x0 x1 x2, Statement (.fence x0 x1 x2) := fun _ _ _ => bare rfl
theorem signal : ∀ x0 x1, Statement (.signal x0 x1) := fun _ _ => bare8 rfl
theorem launch : ∀ x0 x1 x2, Statement (.launch x0 x1 x2) := fun _ _ _ => bare rfl
theorem joinc : ∀ x0, Statement (.joinc x0) := fun _ => bare8 rfl
theorem yieldp : Statement (.yieldp) := bare8 rfl
theorem hostn : ∀ x0 x1, Statement (.hostn x0 x1) := fun _ _ => bare8 rfl
theorem endConductor : Statement (.endConductor) := bare8 rfl
theorem cntwConductor : ∀ x0 x1, Statement (.cntwConductor x0 x1) := fun _ _ => bare8 rfl
theorem cntsConductor : ∀ x0 x1, Statement (.cntsConductor x0 x1) := fun _ _ => bare8 rfl
theorem cntrConductor : ∀ x0 x1, Statement (.cntrConductor x0 x1) := fun _ _ => bare8 rfl
theorem tlbia : ∀ x0 x1, Statement (.tlbia x0 x1) := fun _ _ => bare8 rfl
theorem tlbiv : ∀ x0 x1 x2, Statement (.tlbiv x0 x1 x2) := fun _ _ _ => bare rfl
theorem pgret : ∀ x0 x1, Statement (.pgret x0 x1) := fun _ _ => bare8 rfl
theorem celr : ∀ x0 x1, Statement (.celr x0 x1) := fun _ _ => bare8 rfl
theorem rmcmd : ∀ x0 x1, Statement (.rmcmd x0 x1) := fun _ _ => bare8 rfl
theorem place : ∀ x0, Statement (.place x0) := fun _ => no_word rfl
theorem start : ∀ x0, Statement (.start x0) := fun _ => no_word rfl
theorem yieldCmd : ∀ x0, Statement (.yieldCmd x0) := fun _ => no_word rfl
theorem freeze : ∀ x0, Statement (.freeze x0) := fun _ => no_word rfl
theorem resume : ∀ x0, Statement (.resume x0) := fun _ => no_word rfl
theorem release : ∀ x0, Statement (.release x0) := fun _ => no_word rfl
theorem zeroFillComplete : ∀ x0, Statement (.zeroFillComplete x0) := fun _ => no_word rfl
theorem graphRunBegin : ∀ x0, Statement (.graphRunBegin x0) := fun _ => no_word rfl
theorem stepStaged : ∀ x0, Statement (.stepStaged x0) := fun _ => no_word rfl
theorem stepRendezvous : ∀ x0, Statement (.stepRendezvous x0) := fun _ => no_word rfl
theorem planeSwap : ∀ x0, Statement (.planeSwap x0) := fun _ => no_word rfl
theorem resultWriteback : ∀ x0, Statement (.resultWriteback x0) := fun _ => no_word rfl
theorem bankAccess : ∀ x0, Statement (.bankAccess x0) := fun _ => no_word rfl
theorem queueAppend : ∀ x0, Statement (.queueAppend x0) := fun _ => no_word rfl
theorem runningFormStep : ∀ x0, Statement (.runningFormStep x0) := fun _ => no_word rfl
theorem mmaBlockAdd : ∀ x0, Statement (.mmaBlockAdd x0) := fun _ => no_word rfl
theorem channelAccess : ∀ x0, Statement (.channelAccess x0) := fun _ => no_word rfl
theorem memoryResponse : ∀ x0, Statement (.memoryResponse x0) := fun _ => no_word rfl
theorem wordDeparture : ∀ x0, Statement (.wordDeparture x0) := fun _ => no_word rfl
theorem wordDue : ∀ x0, Statement (.wordDue x0) := fun _ => no_word rfl
theorem physicalArrival : ∀ x0 x1, Statement (.physicalArrival x0 x1) := fun _ _ => no_word rfl
theorem linkHoldTimeout : ∀ x0, Statement (.linkHoldTimeout x0) := fun _ => no_word rfl
theorem waitEnd : ∀ x0, Statement (.waitEnd x0) := fun _ => no_word rfl
theorem tickBound : ∀ x0, Statement (.tickBound x0) := fun _ => no_word rfl
theorem counterHoldEnd : ∀ x0 x1, Statement (.counterHoldEnd x0 x1) := fun _ _ => no_word rfl
theorem contextHoldEnd : ∀ x0 x1, Statement (.contextHoldEnd x0 x1) := fun _ _ => no_word rfl
theorem cntsRelease : ∀ x0, Statement (.cntsRelease x0) := fun _ => no_word rfl
theorem copyOpStart : ∀ x0 x1 x2, Statement (.copyOpStart x0 x1 x2) := fun _ _ _ => no_word rfl
theorem copyOpComplete : ∀ x0 x1 x2, Statement (.copyOpComplete x0 x1 x2) := fun _ _ _ => no_word rfl
theorem collOpStart : ∀ x0 x1 x2, Statement (.collOpStart x0 x1 x2) := fun _ _ _ => no_word rfl
theorem collOpComplete : ∀ x0 x1, Statement (.collOpComplete x0 x1) := fun _ _ => no_word rfl
theorem stepStop : ∀ x0, Statement (.stepStop x0) := fun _ => no_word rfl
theorem stepReexecute : ∀ x0, Statement (.stepReexecute x0) := fun _ => no_word rfl
theorem runRestart : ∀ x0, Statement (.runRestart x0) := fun _ => no_word rfl
theorem freezePoint : ∀ x0, Statement (.freezePoint x0) := fun _ => no_word rfl
theorem virgaDrainDone : ∀ x0, Statement (.virgaDrainDone x0) := fun _ => no_word rfl
theorem contextSave : ∀ x0, Statement (.contextSave x0) := fun _ => no_word rfl
theorem resumeRestored : ∀ x0, Statement (.resumeRestored x0) := fun _ => no_word rfl
theorem regionFreed : ∀ x0, Statement (.regionFreed x0) := fun _ => no_word rfl
theorem quarantineSweepDone : ∀ x0 x1, Statement (.quarantineSweepDone x0 x1) := fun _ _ => no_word rfl
theorem tenureBoundary : Statement .tenureBoundary := no_word rfl
theorem tenureSample : Statement .tenureSample := no_word rfl
theorem grantWordArrival : ∀ x0 x1 x2, Statement (.grantWordArrival x0 x1 x2) := fun _ _ _ => no_word rfl
theorem tenureYieldTimeout : Statement .tenureYieldTimeout := no_word rfl
theorem boundaryBeatSend : Statement .boundaryBeatSend := no_word rfl
theorem boundaryBeatArrival : ∀ x0, Statement (.boundaryBeatArrival x0) := fun _ => no_word rfl
theorem boundaryBeatTimeout : Statement .boundaryBeatTimeout := no_word rfl
theorem firmamentBeatSend : Statement .firmamentBeatSend := no_word rfl
theorem firmamentBeatArrival : ∀ x0 x1, Statement (.firmamentBeatArrival x0 x1) := fun _ _ => no_word rfl
theorem ppsEdge : ∀ x0, Statement (.ppsEdge x0) := fun _ => no_word rfl
theorem ppsSecondCount : Statement .ppsSecondCount := no_word rfl
theorem linkTrainingDone : ∀ x0 x1, Statement (.linkTrainingDone x0 x1) := fun _ _ => no_word rfl
theorem linkLaneLoss : ∀ x0 x1, Statement (.linkLaneLoss x0 x1) := fun _ _ => no_word rfl
theorem hostTranslationResponse : ∀ x0 x1 x2 x3, Statement (.hostTranslationResponse x0 x1 x2 x3) := fun _ _ _ _ => no_word rfl
theorem counterWindowWrite : ∀ x0 x1 x2, Statement (.counterWindowWrite x0 x1 x2) := fun _ _ _ => no_word rfl
theorem memoryWindowRead : Statement .memoryWindowRead := no_word rfl
theorem memoryWindowWrite : Statement .memoryWindowWrite := no_word rfl
theorem memoryWindowDone : Statement .memoryWindowDone := no_word rfl
theorem tableStoreWrite : ∀ x0 x1 x2, Statement (.tableStoreWrite x0 x1 x2) := fun _ _ _ => no_word rfl
theorem vdRecordWrite : ∀ x0 x1, Statement (.vdRecordWrite x0 x1) := fun _ _ => no_word rfl
theorem eventRingHeadWrite : ∀ x0, Statement (.eventRingHeadWrite x0) := fun _ => no_word rfl
theorem eventPostResume : Statement .eventPostResume := no_word rfl
theorem eventRingConfigWrite : ∀ x0 x1, Statement (.eventRingConfigWrite x0 x1) := fun _ _ => no_word rfl
theorem bootFabric : ∀ x0, Statement (.bootFabric x0) := fun _ => no_word rfl
theorem firmwareStagingWrite : ∀ x0 x1, Statement (.firmwareStagingWrite x0 x1) := fun _ _ => no_word rfl
theorem pcapWrite : ∀ x0, Statement (.pcapWrite x0) := fun _ => no_word rfl
theorem attestationRequest : ∀ x0, Statement (.attestationRequest x0) := fun _ => no_word rfl
theorem celbaseWrite : ∀ x0, Statement (.celbaseWrite x0) := fun _ => no_word rfl
theorem registerWrite : ∀ x0 x1, Statement (.registerWrite x0 x1) := fun _ _ => no_word rfl
theorem retirementCopyDone : ∀ x0 x1, Statement (.retirementCopyDone x0 x1) := fun _ _ => no_word rfl
theorem illegalInstruction : ∀ x0, Statement (.illegalInstruction x0) := fun _ => no_word rfl
theorem powerGood : Statement .powerGood := no_word rfl
theorem moduleReset : Statement .moduleReset := no_word rfl
theorem bootRom : Statement .bootRom := no_word rfl
theorem bootFw : Statement .bootFw := no_word rfl
theorem bootReady : Statement .bootReady := no_word rfl
theorem firmwareCommit : Statement .firmwareCommit := no_word rfl
theorem attestationDone : Statement .attestationDone := no_word rfl
theorem thermalTrip : Statement .thermalTrip := no_word rfl
theorem ppsokClear : Statement .ppsokClear := no_word rfl

end Sys2Proof.Laws.ConductorPlain
end

