-- ==== Sys2Proof/Laws/Words.lean ====
section
/-! SUPPORT. Every word of a stream goes through the one operation that issues words. -/

namespace Sys2Proof.Machine

/-- GETC on a stream. -/
theorem getc_issues (hd : Head) (d : BitVec 4) (n : BitVec 8) (s : State) (c : Ctx) (h : s.ctx = some c) :
    execGetc hd d n s = issue (.getc hd d n) s (fun c => streamShared c s (.write 1 d (c.ctrl n))) := by
  have := (ctx_eq s c h).1
  simp [execGetc, this]

/-- SETC on a stream. -/
theorem setc_issues (hd : Head) (n : BitVec 8) (a : BitVec 4) (s : State) (c : Ctx) (h : s.ctx = some c) :
    execSetc hd n a s = issue (.setc hd n a) s (fun c => .done (c.emit s [c.eff 1 (.ctrl n (c.rd a))]) 1) := by
  have := (ctx_eq s c h).1
  simp [execSetc, this]

/-- J on a stream. -/
theorem j_issues (hd : HeadW) (off : BitVec 19) (s : State) (c : Ctx) (h : s.ctx = some c) :
    execJ hd off s = issue (.j hd off) s (fun c => streamShared c s (.jump ((c.pc : Int) + 4 * off.toInt) none)) :=
  issueShared_stream _ _ (fun _ pc => .jump ((pc : Int) + 4 * off.toInt) none) c h

/-- JAL on a stream. -/
theorem jal_issues (hd : HeadW) (d : BitVec 4) (off : BitVec 19) (s : State) (c : Ctx) (h : s.ctx = some c) :
    execJal hd d off s = issue (.jal hd d off) s (fun c => streamShared c s (.jump ((c.pc : Int) + 4 * off.toInt) (some d))) :=
  issueShared_stream _ _ (fun _ pc => .jump ((pc : Int) + 4 * off.toInt) (some d)) c h

/-- A word of two operands is of the shared set. -/
theorem alu2_shared (i : Instr) (lat : Nat) (d a b : BitVec 4) (op : Word → Word → Word) (s : State) :
    ∃ f, alu2 i lat d a b op s = issueShared i s f := ⟨_, rfl⟩

/-- A word of one operand is of the shared set. -/
theorem alu1_shared (i : Instr) (d a : BitVec 4) (op : Word → Word) (s : State) :
    ∃ f, alu1 i d a op s = issueShared i s f := ⟨_, rfl⟩

/-- A branch is of the shared set. -/
theorem branch_shared (i : Instr) (op : BrOp) (d a : BitVec 4) (off : BitVec 10) (s : State) :
    ∃ f, branch i op d a off s = issueShared i s f := ⟨_, rfl⟩

/-- A word of the shared set, on a stream. -/
theorem of_shared {i : Instr} {s : State} {c : Ctx} (o : Out) (h : s.ctx = some c)
    (e : ∃ f, o = issueShared i s f) : ∃ g, o = issue i s g :=
  e.elim fun f e => ⟨_, e.trans (issueShared_stream i s f c h)⟩

/-- A word that streams issue is issued by the shared operation, with an effect of its own. -/
theorem exec_issues (i : Instr) (s : State) (c : Ctx) (hw : i.isStreamWord = true) (h : s.ctx = some c) :
    ∃ f, exec i s = issue i s f :=
  match i, hw with
  | .nop x0, _ => of_shared (execNop x0 s) h ⟨_, rfl⟩
  | .add x0 x1 x2 x3, _ => of_shared (execAdd x0 x1 x2 x3 s) h (alu2_shared _ _ _ _ _ _ _)
  | .sub x0 x1 x2 x3, _ => of_shared (execSub x0 x1 x2 x3 s) h (alu2_shared _ _ _ _ _ _ _)
  | .and x0 x1 x2 x3, _ => of_shared (execAnd x0 x1 x2 x3 s) h (alu2_shared _ _ _ _ _ _ _)
  | .or x0 x1 x2 x3, _ => of_shared (execOr x0 x1 x2 x3 s) h (alu2_shared _ _ _ _ _ _ _)
  | .xor x0 x1 x2 x3, _ => of_shared (execXor x0 x1 x2 x3 s) h (alu2_shared _ _ _ _ _ _ _)
  | .sll x0 x1 x2 x3, _ => of_shared (execSll x0 x1 x2 x3 s) h (alu2_shared _ _ _ _ _ _ _)
  | .srl x0 x1 x2 x3, _ => of_shared (execSrl x0 x1 x2 x3 s) h (alu2_shared _ _ _ _ _ _ _)
  | .sra x0 x1 x2 x3, _ => of_shared (execSra x0 x1 x2 x3 s) h (alu2_shared _ _ _ _ _ _ _)
  | .mul x0 x1 x2 x3, _ => of_shared (execMul x0 x1 x2 x3 s) h (alu2_shared _ _ _ _ _ _ _)
  | .mulh x0 x1 x2 x3, _ => of_shared (execMulh x0 x1 x2 x3 s) h (alu2_shared _ _ _ _ _ _ _)
  | .mulhu x0 x1 x2 x3, _ => of_shared (execMulhu x0 x1 x2 x3 s) h (alu2_shared _ _ _ _ _ _ _)
  | .div x0 x1 x2 x3, _ => of_shared (execDiv x0 x1 x2 x3 s) h (alu2_shared _ _ _ _ _ _ _)
  | .divu x0 x1 x2 x3, _ => of_shared (execDivu x0 x1 x2 x3 s) h (alu2_shared _ _ _ _ _ _ _)
  | .rem x0 x1 x2 x3, _ => of_shared (execRem x0 x1 x2 x3 s) h (alu2_shared _ _ _ _ _ _ _)
  | .remu x0 x1 x2 x3, _ => of_shared (execRemu x0 x1 x2 x3 s) h (alu2_shared _ _ _ _ _ _ _)
  | .min x0 x1 x2 x3, _ => of_shared (execMin x0 x1 x2 x3 s) h (alu2_shared _ _ _ _ _ _ _)
  | .max x0 x1 x2 x3, _ => of_shared (execMax x0 x1 x2 x3 s) h (alu2_shared _ _ _ _ _ _ _)
  | .minu x0 x1 x2 x3, _ => of_shared (execMinu x0 x1 x2 x3 s) h (alu2_shared _ _ _ _ _ _ _)
  | .maxu x0 x1 x2 x3, _ => of_shared (execMaxu x0 x1 x2 x3 s) h (alu2_shared _ _ _ _ _ _ _)
  | .slt x0 x1 x2 x3, _ => of_shared (execSlt x0 x1 x2 x3 s) h (alu2_shared _ _ _ _ _ _ _)
  | .sltu x0 x1 x2 x3, _ => of_shared (execSltu x0 x1 x2 x3 s) h (alu2_shared _ _ _ _ _ _ _)
  | .sel x0 x1 x2 x3 x4, _ => of_shared (execSel x0 x1 x2 x3 x4 s) h ⟨_, rfl⟩
  | .clz x0 x1 x2, _ => of_shared (execClz x0 x1 x2 s) h (alu1_shared _ _ _ _ _)
  | .popc x0 x1 x2, _ => of_shared (execPopc x0 x1 x2 s) h (alu1_shared _ _ _ _ _)
  | .jr x0 x1, _ => of_shared (execJr x0 x1 s) h ⟨_, rfl⟩
  | .tick _ _, _ => ⟨_, rfl⟩
  | .idx _ _ _, _ => ⟨_, rfl⟩
  | .getc _ _ _, _ => ⟨_, getc_issues _ _ _ _ _ h⟩
  | .setc _ _ _, _ => ⟨_, setc_issues _ _ _ _ _ h⟩
  | .trap x0 x1, _ => of_shared (execTrap x0 x1 s) h ⟨_, rfl⟩
  | .endStream _, _ => ⟨_, rfl⟩
  | .ldq _ _ _, _ => ⟨_, rfl⟩
  | .ldt _ _ _ _, _ => ⟨_, rfl⟩
  | .ldb _ _ _, _ => ⟨_, rfl⟩
  | .ldg _ _ _ _, _ => ⟨_, rfl⟩
  | .ldm _ _ _ _ _, _ => ⟨_, rfl⟩
  | .ldx _ _ _, _ => ⟨_, rfl⟩
  | .ldxm _ _ _, _ => ⟨_, rfl⟩
  | .recv _ _ _, _ => ⟨_, rfl⟩
  | .recvx _ _ _, _ => ⟨_, rfl⟩
  | .lstop _ _, _ => ⟨_, rfl⟩
  | .stq _ _ _, _ => ⟨_, rfl⟩
  | .stt _ _ _ _, _ => ⟨_, rfl⟩
  | .stm _ _ _ _, _ => ⟨_, rfl⟩
  | .stx _ _ _, _ => ⟨_, rfl⟩
  | .stxm _ _ _, _ => ⟨_, rfl⟩
  | .send _ _ _, _ => ⟨_, rfl⟩
  | .sendx _ _ _, _ => ⟨_, rfl⟩
  | .scat _ _ _ _, _ => ⟨_, rfl⟩
  | .atom _ _ _ _, _ => ⟨_, rfl⟩
  | .atomf _ _ _ _ _, _ => ⟨_, rfl⟩
  | .sstop _ _ _, _ => ⟨_, rfl⟩
  | .vadd _ _ _ _ _, _ => ⟨_, rfl⟩
  | .vsub _ _ _ _ _, _ => ⟨_, rfl⟩
  | .vmul _ _ _ _ _, _ => ⟨_, rfl⟩
  | .vfma _ _ _ _ _, _ => ⟨_, rfl⟩
  | .vfms _ _ _ _ _, _ => ⟨_, rfl⟩
  | .vmin _ _ _ _ _, _ => ⟨_, rfl⟩
  | .vmax _ _ _ _ _, _ => ⟨_, rfl⟩
  | .vabs _ _ _ _, _ => ⟨_, rfl⟩
  | .vneg _ _ _ _, _ => ⟨_, rfl⟩
  | .vrcp _ _ _ _, _ => ⟨_, rfl⟩
  | .vsqrt _ _ _ _, _ => ⟨_, rfl⟩
  | .vrsq _ _ _ _, _ => ⟨_, rfl⟩
  | .vexp _ _ _ _, _ => ⟨_, rfl⟩
  | .vlog _ _ _ _, _ => ⟨_, rfl⟩
  | .vtanh _ _ _ _, _ => ⟨_, rfl⟩
  | .vsig _ _ _ _, _ => ⟨_, rfl⟩
  | .vand _ _ _ _ _, _ => ⟨_, rfl⟩
  | .vor _ _ _ _ _, _ => ⟨_, rfl⟩
  | .vxor _ _ _ _ _, _ => ⟨_, rfl⟩
  | .vshl _ _ _ _ _, _ => ⟨_, rfl⟩
  | .vshr _ _ _ _ _, _ => ⟨_, rfl⟩
  | .vsra _ _ _ _ _, _ => ⟨_, rfl⟩
  | .vcmp _ _ _ _ _, _ => ⟨_, rfl⟩
  | .vselm _ _ _ _ _, _ => ⟨_, rfl⟩
  | .vcvt _ _ _ _ _ _, _ => ⟨_, rfl⟩
  | .vmov _ _ _ _, _ => ⟨_, rfl⟩
  | .vbcast _ _ _ _, _ => ⟨_, rfl⟩
  | .vrot _ _ _ _ _, _ => ⟨_, rfl⟩
  | .vshuf _ _ _ _ _, _ => ⟨_, rfl⟩
  | .vtrn _ _ _ _, _ => ⟨_, rfl⟩
  | .vscan _ _ _ _ _, _ => ⟨_, rfl⟩
  | .vred _ _ _ _ _, _ => ⟨_, rfl⟩
  | .vmadw _ _ _ _ _, _ => ⟨_, rfl⟩
  | .vaddw _ _ _ _ _, _ => ⟨_, rfl⟩
  | .vpop _ _ _ _, _ => ⟨_, rfl⟩
  | .vpush _ _ _ _ _, _ => ⟨_, rfl⟩
  | .qdrop _ _ _, _ => ⟨_, rfl⟩
  | .vdraw _ _ _, _ => ⟨_, rfl⟩
  | .vpopc _ _ _ _, _ => ⟨_, rfl⟩
  | .vclass _ _ _ _, _ => ⟨_, rfl⟩
  | .pand _ _ _ _, _ => ⟨_, rfl⟩
  | .por _ _ _ _, _ => ⟨_, rfl⟩
  | .pxor _ _ _ _, _ => ⟨_, rfl⟩
  | .pnot _ _ _, _ => ⟨_, rfl⟩
  | .pset _ _ _ _ _, _ => ⟨_, rfl⟩
  | .pcnt _ _ _, _ => ⟨_, rfl⟩
  | .pfirst _ _ _, _ => ⟨_, rfl⟩
  | .vlane _ _ _ _, _ => ⟨_, rfl⟩
  | .mclr _ _, _ => ⟨_, rfl⟩
  | .mma _ _ _ _ _, _ => ⟨_, rfl⟩
  | .mread _ _ _ _ _, _ => ⟨_, rfl⟩
  | .maddw _ _ _ _, _ => ⟨_, rfl⟩
  | .mpush _ _ _ _, _ => ⟨_, rfl⟩
  | .mstat _ _ _ _, _ => ⟨_, rfl⟩
  | .cntw _ _ _, _ => ⟨_, rfl⟩
  | .cnts _ _ _, _ => ⟨_, rfl⟩
  | .cntr _ _ _, _ => ⟨_, rfl⟩
  | .drift _ _, _ => ⟨_, rfl⟩
  | .sealR _ _ _, _ => ⟨_, rfl⟩
  | .unsealR _ _ _, _ => ⟨_, rfl⟩
  | .bfmt _ _ _, _ => ⟨_, rfl⟩
  | .dkey _ _, _ => ⟨_, rfl⟩
  | .addi x0 x1 x2 x3, _ => of_shared (execAddi x0 x1 x2 x3 s) h (alu1_shared _ _ _ _ _)
  | .andi x0 x1 x2 x3, _ => of_shared (execAndi x0 x1 x2 x3 s) h (alu1_shared _ _ _ _ _)
  | .ori x0 x1 x2 x3, _ => of_shared (execOri x0 x1 x2 x3 s) h (alu1_shared _ _ _ _ _)
  | .xori x0 x1 x2 x3, _ => of_shared (execXori x0 x1 x2 x3 s) h (alu1_shared _ _ _ _ _)
  | .slli x0 x1 x2 x3, _ => of_shared (execSlli x0 x1 x2 x3 s) h (alu1_shared _ _ _ _ _)
  | .srli x0 x1 x2 x3, _ => of_shared (execSrli x0 x1 x2 x3 s) h (alu1_shared _ _ _ _ _)
  | .srai x0 x1 x2 x3, _ => of_shared (execSrai x0 x1 x2 x3 s) h (alu1_shared _ _ _ _ _)
  | .slti x0 x1 x2 x3, _ => of_shared (execSlti x0 x1 x2 x3 s) h (alu1_shared _ _ _ _ _)
  | .beq x0 x1 x2 x3, _ => of_shared (execBeq x0 x1 x2 x3 s) h (branch_shared _ _ _ _ _ _)
  | .bne x0 x1 x2 x3, _ => of_shared (execBne x0 x1 x2 x3 s) h (branch_shared _ _ _ _ _ _)
  | .blt x0 x1 x2 x3, _ => of_shared (execBlt x0 x1 x2 x3 s) h (branch_shared _ _ _ _ _ _)
  | .bge x0 x1 x2 x3, _ => of_shared (execBge x0 x1 x2 x3 s) h (branch_shared _ _ _ _ _ _)
  | .bltu x0 x1 x2 x3, _ => of_shared (execBltu x0 x1 x2 x3 s) h (branch_shared _ _ _ _ _ _)
  | .bgeu x0 x1 x2 x3, _ => of_shared (execBgeu x0 x1 x2 x3 s) h (branch_shared _ _ _ _ _ _)
  | .loop _ _ _ _ _, _ => ⟨_, rfl⟩
  | .waitd _ _ _, _ => ⟨_, rfl⟩
  | .formld _ _ _, _ => ⟨_, rfl⟩
  | .ldxo _ _ _ _, _ => ⟨_, rfl⟩
  | .stxo _ _ _ _, _ => ⟨_, rfl⟩
  | .vbcasti _ _ _ _, _ => ⟨_, rfl⟩
  | .li x0 x1 x2, _ => of_shared (execLi x0 x1 x2 s) h ⟨_, rfl⟩
  | .lih x0 x1 x2, _ => of_shared (execLih x0 x1 x2 s) h ⟨_, rfl⟩
  | .j hd off, _ => ⟨_, j_issues hd off s c h⟩
  | .jal hd d off, _ => ⟨_, jal_issues hd d off s c h⟩
  | .waitt _ _ _, _ => ⟨_, rfl⟩
  | .lstrm _ _ _ _ _ _, _ => ⟨_, rfl⟩
  | .gathp _ _ _ _ _, _ => ⟨_, rfl⟩
  | .sstrm _ _ _ _ _ _, _ => ⟨_, rfl⟩
  | .vtopk _ _ _ _ _ _ _ _, _ => ⟨_, rfl⟩
  | .mmaForm _ _ _ _ _ _ _ _ _ _, _ => ⟨_, rfl⟩
  | .mreadForm _ _ _ _ _ _ _ _ _ _ _, _ => ⟨_, rfl⟩
  | .dkeySplit _ _ _ _, _ => ⟨_, rfl⟩
  | .dkeySetCounter _ _ _ _, _ => ⟨_, rfl⟩
  | .copy _ _ _ _ _ _ _ _ _ _ _ _ _ _ _, _ => ⟨_, rfl⟩
  | .coll _ _ _ _ _ _ _ _ _ _ _ _ _ _ _ _ _, _ => ⟨_, rfl⟩
  | .condStep _ _, hw => Bool.noConfusion hw
  | .fence _ _ _, hw => Bool.noConfusion hw
  | .signal _ _, hw => Bool.noConfusion hw
  | .launch _ _ _, hw => Bool.noConfusion hw
  | .joinc _, hw => Bool.noConfusion hw
  | .yieldp, hw => Bool.noConfusion hw
  | .hostn _ _, hw => Bool.noConfusion hw
  | .endConductor, hw => Bool.noConfusion hw
  | .cntwConductor _ _, hw => Bool.noConfusion hw
  | .cntsConductor _ _, hw => Bool.noConfusion hw
  | .cntrConductor _ _, hw => Bool.noConfusion hw
  | .tlbia _ _, hw => Bool.noConfusion hw
  | .tlbiv _ _ _, hw => Bool.noConfusion hw
  | .pgret _ _, hw => Bool.noConfusion hw
  | .celr _ _, hw => Bool.noConfusion hw
  | .rmcmd _ _, hw => Bool.noConfusion hw
  | .place _, hw => Bool.noConfusion hw
  | .start _, hw => Bool.noConfusion hw
  | .yieldCmd _, hw => Bool.noConfusion hw
  | .freeze _, hw => Bool.noConfusion hw
  | .resume _, hw => Bool.noConfusion hw
  | .release _, hw => Bool.noConfusion hw
  | .zeroFillComplete _, hw => Bool.noConfusion hw
  | .graphRunBegin _, hw => Bool.noConfusion hw
  | .stepStaged _, hw => Bool.noConfusion hw
  | .stepRendezvous _, hw => Bool.noConfusion hw
  | .planeSwap _, hw => Bool.noConfusion hw
  | .resultWriteback _, hw => Bool.noConfusion hw
  | .bankAccess _, hw => Bool.noConfusion hw
  | .queueAppend _, hw => Bool.noConfusion hw
  | .runningFormStep _, hw => Bool.noConfusion hw
  | .mmaBlockAdd _, hw => Bool.noConfusion hw
  | .channelAccess _, hw => Bool.noConfusion hw
  | .memoryResponse _, hw => Bool.noConfusion hw
  | .wordDeparture _, hw => Bool.noConfusion hw
  | .wordDue _, hw => Bool.noConfusion hw
  | .physicalArrival _ _, hw => Bool.noConfusion hw
  | .linkHoldTimeout _, hw => Bool.noConfusion hw
  | .waitEnd _, hw => Bool.noConfusion hw
  | .tickBound _, hw => Bool.noConfusion hw
  | .counterHoldEnd _ _, hw => Bool.noConfusion hw
  | .contextHoldEnd _ _, hw => Bool.noConfusion hw
  | .cntsRelease _, hw => Bool.noConfusion hw
  | .copyOpStart _ _ _, hw => Bool.noConfusion hw
  | .copyOpComplete _ _ _, hw => Bool.noConfusion hw
  | .collOpStart _ _ _, hw => Bool.noConfusion hw
  | .collOpComplete _ _, hw => Bool.noConfusion hw
  | .stepStop _, hw => Bool.noConfusion hw
  | .stepReexecute _, hw => Bool.noConfusion hw
  | .runRestart _, hw => Bool.noConfusion hw
  | .freezePoint _, hw => Bool.noConfusion hw
  | .virgaDrainDone _, hw => Bool.noConfusion hw
  | .contextSave _, hw => Bool.noConfusion hw
  | .resumeRestored _, hw => Bool.noConfusion hw
  | .regionFreed _, hw => Bool.noConfusion hw
  | .quarantineSweepDone _ _, hw => Bool.noConfusion hw
  | .tenureBoundary, hw => Bool.noConfusion hw
  | .tenureSample, hw => Bool.noConfusion hw
  | .grantWordArrival _ _ _, hw => Bool.noConfusion hw
  | .tenureYieldTimeout, hw => Bool.noConfusion hw
  | .boundaryBeatSend, hw => Bool.noConfusion hw
  | .boundaryBeatArrival _, hw => Bool.noConfusion hw
  | .boundaryBeatTimeout, hw => Bool.noConfusion hw
  | .firmamentBeatSend, hw => Bool.noConfusion hw
  | .firmamentBeatArrival _ _, hw => Bool.noConfusion hw
  | .ppsEdge _, hw => Bool.noConfusion hw
  | .ppsSecondCount, hw => Bool.noConfusion hw
  | .linkTrainingDone _ _, hw => Bool.noConfusion hw
  | .linkLaneLoss _ _, hw => Bool.noConfusion hw
  | .hostTranslationResponse _ _ _ _, hw => Bool.noConfusion hw
  | .counterWindowWrite _ _ _, hw => Bool.noConfusion hw
  | .memoryWindowRead, hw => Bool.noConfusion hw
  | .memoryWindowWrite, hw => Bool.noConfusion hw
  | .memoryWindowDone, hw => Bool.noConfusion hw
  | .tableStoreWrite _ _ _, hw => Bool.noConfusion hw
  | .vdRecordWrite _ _, hw => Bool.noConfusion hw
  | .eventRingHeadWrite _, hw => Bool.noConfusion hw
  | .eventPostResume, hw => Bool.noConfusion hw
  | .eventRingConfigWrite _ _, hw => Bool.noConfusion hw
  | .bootFabric _, hw => Bool.noConfusion hw
  | .firmwareStagingWrite _ _, hw => Bool.noConfusion hw
  | .pcapWrite _, hw => Bool.noConfusion hw
  | .attestationRequest _, hw => Bool.noConfusion hw
  | .celbaseWrite _, hw => Bool.noConfusion hw
  | .registerWrite _ _, hw => Bool.noConfusion hw
  | .retirementCopyDone _ _, hw => Bool.noConfusion hw
  | .illegalInstruction _, hw => Bool.noConfusion hw
  | .powerGood, hw => Bool.noConfusion hw
  | .moduleReset, hw => Bool.noConfusion hw
  | .bootRom, hw => Bool.noConfusion hw
  | .bootFw, hw => Bool.noConfusion hw
  | .bootReady, hw => Bool.noConfusion hw
  | .firmwareCommit, hw => Bool.noConfusion hw
  | .attestationDone, hw => Bool.noConfusion hw
  | .thermalTrip, hw => Bool.noConfusion hw
  | .ppsokClear, hw => Bool.noConfusion hw

end Sys2Proof.Machine
end

