-- ==== Sys2Proof/Tests/Slice0.lean ====
section
/-! SUPPORT. Tests: words of the spec's encodings and what they decode to, ill-formed terms that are refused, single steps with
the results that the spec gives, and for every statement with hypotheses a state that meets them. -/

namespace Sys2Proof.Tests

set_option Elab.async false

open Sys2Proof Sys2Proof.Machine

/-! ## Decoding: each word is one of the spec's own examples, or is laid out from the match and fields of its row of
spec/opcode_table.json -/

/-- What the words of a list decode to on a sequencer. -/
def decoded (k : SeqKind) (l : List (BitVec 32 × Instr)) : List Dec := l.map (fun x => decode k 0 x.1)

/-- What the words of a list decode to beside their forms. -/
def decodedForms (k : SeqKind) (l : List (BitVec 128 × BitVec 32 × Instr)) : List Dec := l.map (fun x => decode k x.1 x.2.1)

/-- Every word of a list is an illegal instruction with a cause. -/
def refuses (k : SeqKind) (cause : Nat) (l : List (BitVec 32)) : Bool :=
  l.all (fun w => match decode k 0 w with
    | .ok _ => false
    | .error n => n == cause)

/-- Words of a execute sequencer: scalar. -/
def words_scalar_exec : List (BitVec 32 × Instr) := [
  (0x9002_0000, .nop ⟨4, true, 2⟩),
  (0x9011_EFA0, .sub ⟨4, true, 1⟩ 14 15 10),
  (0xE020_5770, .or ⟨7, false, 0⟩ 5 7 7),
  (0x6030_F8F0, .sll ⟨3, false, 0⟩ 15 8 15),
  (0x2042_8BF0, .sra ⟨1, false, 2⟩ 8 11 15),
  (0x1053_AAE0, .mulh ⟨0, true, 3⟩ 10 10 14),
  (0x3060_9980, .div ⟨1, true, 0⟩ 9 9 8),
  (0x7072_4220, .rem ⟨3, true, 2⟩ 4 2 2),
  (0x0081_A4F0, .min ⟨0, false, 1⟩ 10 4 15),
  (0xE093_FFE0, .minu ⟨7, false, 3⟩ 15 15 14),
  (0xA0A1_6D70, .slt ⟨5, false, 1⟩ 6 13 7),
  (0x50B0_0040, .sel ⟨2, true, 0⟩ 0 0 4 0),
  (0x30C0_DB00, .popc ⟨1, true, 0⟩ 13 11),
  (0x90D0_3000, .tick ⟨4, true, 0⟩ 3),
  (0xB0E3_3004, .getc ⟨5, true, 3⟩ 3 4),
  (0x60F3_0007, .trap ⟨3, false, 3⟩ 7)]

/-- Words of a store sequencer: scalar. -/
def words_scalar_store : List (BitVec 32 × Instr) := [
  (0xE00A_B2B0, .add ⟨7, false, 2⟩ 11 2 11),
  (0xB01A_DFE0, .and ⟨5, true, 2⟩ 13 15 14),
  (0x4028_8090, .xor ⟨2, false, 0⟩ 8 0 9),
  (0x9039_5F10, .srl ⟨4, true, 1⟩ 5 15 1),
  (0x204A_CD70, .mul ⟨1, false, 2⟩ 12 13 7),
  (0xE059_6040, .mulhu ⟨7, false, 1⟩ 6 0 4),
  (0x806A_64E0, .divu ⟨4, false, 2⟩ 6 4 14),
  (0x3079_D4F0, .remu ⟨1, true, 1⟩ 13 4 15),
  (0x3088_52B0, .max ⟨1, true, 0⟩ 5 2 11),
  (0x1099_2D90, .maxu ⟨0, true, 1⟩ 2 13 9),
  (0x70AA_8810, .sltu ⟨3, true, 2⟩ 8 8 1),
  (0x40BA_7C00, .clz ⟨2, false, 2⟩ 7 12),
  (0x40C8_0200, .jr ⟨2, false, 0⟩ 2),
  (0x00D9_3004, .idx ⟨0, false, 1⟩ 3 4),
  (0xA0EB_0202, .setc ⟨5, false, 3⟩ 2 2),
  (0x60FB_0000, .endStream ⟨3, false, 3⟩)]

/-- Words of a load sequencer: load stream. -/
def words_load_stream_load : List (BitVec 32 × Instr) := [
  (0x0100_1700, .ldq ⟨0, false, 0⟩ 1 7),
  (0x0108_0780, .ldt ⟨0, false, 0⟩ 0 7 8),
  (0x0110_2700, .ldb ⟨0, false, 0⟩ 2 7),
  (0x0118_0780, .ldg ⟨0, false, 0⟩ 0 7 8),
  (0x0120_29A3, .ldm ⟨0, false, 0⟩ 3 2 9 10),
  (0x0128_9700, .ldx ⟨0, false, 0⟩ 9 7),
  (0x0130_9700, .ldxm ⟨0, false, 0⟩ 9 7),
  (0x0138_0000, .recv ⟨0, false, 0⟩ 0 0),
  (0x0140_9003, .recvx ⟨0, false, 0⟩ 9 3),
  (0x0148_3000, .lstop ⟨0, false, 0⟩ 3)]

/-- Words of a store sequencer: store stream. -/
def words_store_stream_store : List (BitVec 32 × Instr) := [
  (0x0180_0700, .stq ⟨0, false, 0⟩ 0 7),
  (0x0188_1780, .stt ⟨0, false, 0⟩ 1 7 8),
  (0x0190_09A0, .stm ⟨0, false, 0⟩ 0 9 10),
  (0x0198_8700, .stx ⟨0, false, 0⟩ 8 7),
  (0x01A0_8700, .stxm ⟨0, false, 0⟩ 8 7),
  (0x01A8_0000, .send ⟨0, false, 0⟩ 0 0),
  (0x01B0_0903, .sendx ⟨0, false, 0⟩ 3 9),
  (0x01B8_2780, .scat ⟨0, false, 0⟩ 2 7 8),
  (0x01C0_0780, .atom ⟨0, false, 0⟩ .add64 7 8),
  (0x01C8_97A2, .atomf ⟨0, false, 0⟩ .cas64 9 7 10),
  (0x01D0_1000, .sstop ⟨0, false, 0⟩ 1 0)]

/-- Words of a execute sequencer: vector. -/
def words_vector_exec : List (BitVec 32 × Instr) := [
  (0x3202_3210, .vadd ⟨1, true, 2⟩ .f32 3 2 1),
  (0x4209_3210, .vsub ⟨2, false, 1⟩ .f32 3 2 1),
  (0xF212_3210, .vmul ⟨7, true, 2⟩ .f32 3 2 1),
  (0x0218_5671, .vfma ⟨0, false, 0⟩ .bf16 5 6 7),
  (0x4222_3211, .vfms ⟨2, false, 2⟩ .bf16 3 2 1),
  (0xD229_3210, .vmin ⟨6, true, 1⟩ .f32 3 2 1),
  (0xE230_3210, .vmax ⟨7, false, 0⟩ .f32 3 2 1),
  (0x0238_3209, .vabs ⟨0, false, 0⟩ .i32 3 2),
  (0xF242_3200, .vneg ⟨7, true, 2⟩ .f32 3 2),
  (0x524B_3201, .vrcp ⟨2, true, 3⟩ .bf16 3 2),
  (0xC253_3202, .vsqrt ⟨6, false, 3⟩ .f16 3 2),
  (0xB25B_3201, .vrsq ⟨5, true, 3⟩ .bf16 3 2),
  (0xA261_3200, .vexp ⟨5, false, 1⟩ .f32 3 2),
  (0x7268_3201, .vlog ⟨3, true, 0⟩ .bf16 3 2),
  (0xB272_3202, .vtanh ⟨5, true, 2⟩ .f16 3 2),
  (0x0278_3201, .vsig ⟨0, false, 0⟩ .bf16 3 2),
  (0x6282_3210, .vand ⟨3, false, 2⟩ .f32 3 2 1),
  (0x1288_3210, .vor ⟨0, true, 0⟩ .f32 3 2 1),
  (0x9290_3210, .vxor ⟨4, true, 0⟩ .f32 3 2 1),
  (0x3298_3219, .vshl ⟨1, true, 0⟩ .i32 3 2 1),
  (0x02A0_123C, .vshr ⟨0, false, 0⟩ .u32 1 2 3),
  (0xF2AA_3218, .vsra ⟨7, true, 2⟩ .i16 3 2 1),
  (0x02B0_3241, .vcmp ⟨0, false, 0⟩ .lt .bf16 3 4),
  (0x02B8_5123, .vselm ⟨0, false, 0⟩ 5 1 2 3),
  (0x02C0_2141, .vcvt ⟨0, false, 0⟩ false .sr .bf16 2 1),
  (0xD2C8_3200, .vmov ⟨6, true, 0⟩ .f32 3 2),
  (0x02D0_0700, .vbcast ⟨0, false, 0⟩ .f32 0 7),
  (0x02D8_107B, .vrot ⟨0, false, 0⟩ .u8 1 0 7),
  (0x02E0_6540, .vshuf ⟨0, false, 0⟩ .f32 6 5 4),
  (0x02E8_6507, .vtrn ⟨0, false, 0⟩ .i8 6 5),
  (0x02F0_540C, .vscan ⟨0, false, 0⟩ .add .u32 5 4),
  (0x02F8_6410, .vred ⟨0, false, 0⟩ .max .f32 6 4)]

/-- Words of a execute sequencer: rows and masks. -/
def words_rows_and_masks_exec : List (BitVec 32 × Instr) := [
  (0xE300_3218, .vmadw ⟨7, false, 0⟩ .i16 3 2 1),
  (0x0308_801B, .vaddw ⟨0, false, 0⟩ .u8 8 0 1),
  (0x0310_2000, .vpop ⟨0, false, 0⟩ 2 0 0),
  (0x0318_1430, .vpush ⟨0, false, 0⟩ .f32 1 4 3),
  (0x0320_0200, .qdrop ⟨0, false, 0⟩ 2 0),
  (0x0328_7000, .vdraw ⟨0, false, 0⟩ .f32 7),
  (0xE332_3207, .vpopc ⟨7, false, 2⟩ .i8 3 2),
  (0x0338_6503, .vclass ⟨0, false, 0⟩ .e4m3 6 5),
  (0x0340_3120, .pand ⟨0, false, 0⟩ 3 1 2),
  (0x534B_3210, .por ⟨2, true, 3⟩ 3 2 1),
  (0x0351_3210, .pxor ⟨0, false, 1⟩ 3 2 1),
  (0x0358_4100, .pnot ⟨0, false, 0⟩ 4 1),
  (0x0360_2300, .pset ⟨0, false, 0⟩ .f32 2 3 0),
  (0x0368_7200, .pcnt ⟨0, false, 0⟩ 7 2),
  (0x0370_8200, .pfirst ⟨0, false, 0⟩ 8 2),
  (0x0378_1009, .vlane ⟨0, false, 0⟩ .i32 1 0)]

/-- Words of a execute sequencer: matrix. -/
def words_matrix_exec : List (BitVec 32 × Instr) := [
  (0x0380_1000, .mclr ⟨0, false, 0⟩ 1),
  (0x0388_0123, .mma ⟨0, false, 0⟩ .e4m3 0 1 2),
  (0x0390_6131, .mread ⟨0, false, 0⟩ .bf16 6 1 3),
  (0x0398_1850, .maddw ⟨0, false, 0⟩ 1 8 5),
  (0x03A0_8000, .mpush ⟨0, false, 0⟩ 8 0 0),
  (0x03A8_7001, .mstat ⟨0, false, 0⟩ 7 0 true)]

/-- Words of a control sequencer: control stream. -/
def words_control_stream_ctl : List (BitVec 32 × Instr) := [
  (0x03C0_0E04, .cntw ⟨0, false, 0⟩ 4 14),
  (0x03C8_0805, .cnts ⟨0, false, 0⟩ 5 8),
  (0x03D0_E004, .cntr ⟨0, false, 0⟩ 14 4),
  (0x03D8_0700, .drift ⟨0, false, 0⟩ 7),
  (0x03E0_0780, .sealR ⟨0, false, 0⟩ 7 8),
  (0x03E8_0780, .unsealR ⟨0, false, 0⟩ 7 8),
  (0x03F0_0700, .bfmt ⟨0, false, 0⟩ 0 7),
  (0x03F8_0700, .dkey ⟨0, false, 0⟩ 7)]

/-- Words of a control sequencer: immediates. -/
def words_immediates_ctl : List (BitVec 32 × Instr) := [
  (0x3404_CB43, .addi ⟨1, true, 1⟩ 3 2 0x343),
  (0xF420_CB27, .andi ⟨7, true, 0⟩ 3 2 0x327),
  (0xE440_C97C, .ori ⟨7, false, 0⟩ 3 2 0x17C),
  (0x546C_CA73, .xori ⟨2, true, 3⟩ 3 2 0x273),
  (0xB48C_C812, .slli ⟨5, true, 3⟩ 3 2 18),
  (0xE4A0_C812, .srli ⟨7, false, 0⟩ 3 2 18),
  (0x54C0_C812, .srai ⟨2, true, 0⟩ 3 2 18),
  (0x84E8_C83E, .slti ⟨4, false, 2⟩ 3 2 62),
  (0x8504_C80D, .beq ⟨4, false, 1⟩ 3 2 13),
  (0x4528_C8B9, .bne ⟨2, false, 2⟩ 3 2 0xB9),
  (0x4544_CBC7, .blt ⟨2, false, 1⟩ 3 2 0x3C7),
  (0x7568_CB36, .bge ⟨3, true, 2⟩ 3 2 0x336),
  (0x2584_CB51, .bltu ⟨1, false, 1⟩ 3 2 0x351),
  (0x05A8_C917, .bgeu ⟨0, false, 2⟩ 3 2 0x117),
  (0xD5C8_C805, .loop ⟨6, true, 2⟩ 3 false 2 5),
  (0x15EC_0812, .waitd ⟨0, true, 3⟩ 2 18),
  (0xC60C_0809, .formld ⟨6, false, 3⟩ 9 2)]

/-- Words of a load sequencer: immediates. -/
def words_immediates_load : List (BitVec 32 × Instr) := [
  (0x0622_1C02, .ldxo ⟨0, false, 0⟩ 8 7 2)]

/-- Words of a store sequencer: immediates. -/
def words_immediates_store : List (BitVec 32 × Instr) := [
  (0x0642_1FFF, .stxo ⟨0, false, 0⟩ 8 7 0x3FF)]

/-- Words of a execute sequencer: immediates. -/
def words_immediates_exec : List (BitVec 32 × Instr) := [
  (0x4660_E74E, .vbcasti ⟨2, false, 0⟩ .i32 3 0x34E)]

/-- Words of a load sequencer: wide. -/
def words_wide_load : List (BitVec 32 × Instr) := [
  (0x1818_265D, .li ⟨0, true⟩ 3 0x265D),
  (0x489D_9B42, .lih ⟨2, false⟩ 3 0x59B42),
  (0x7900_8C37, .j ⟨3, true⟩ 0x8C37),
  (0x2999_5022, .jal ⟨1, false⟩ 3 0x15022),
  (0x9A19_1B35, .waitt ⟨4, true⟩ 3 0x11B35)]

/-- Words of a conductor sequencer: conductor. -/
def words_conductor_conductor : List (BitVec 32 × Instr) := [
  (0x0100_0780, .condStep 7 8),
  (0x0108_0783, .fence 7 8 3),
  (0x0110_0705, .signal 5 7),
  (0x0118_9780, .launch 9 7 8),
  (0x0120_9000, .joinc 9),
  (0x0128_0000, .yieldp),
  (0x0130_0721, .hostn 7 33),
  (0x00F8_0000, .endConductor),
  (0x03C0_0207, .cntwConductor 7 2),
  (0x03C8_0207, .cntsConductor 7 2),
  (0x03D0_3007, .cntrConductor 3 7)]

/-- Words of a service sequencer: service. -/
def words_service_service : List (BitVec 32 × Instr) := [
  (0x0180_9700, .tlbia 9 7),
  (0x0188_9780, .tlbiv 9 7 8),
  (0x0190_9800, .pgret 9 8),
  (0x0198_9700, .celr 9 7),
  (0x01A0_9700, .rmcmd 9 7)]

theorem test_decode_scalar_exec : decoded .exec words_scalar_exec = words_scalar_exec.map (fun x => .ok x.2) := by rfl

theorem test_decode_scalar_store : decoded .store words_scalar_store = words_scalar_store.map (fun x => .ok x.2) := by rfl

theorem test_decode_load_stream : decoded .load words_load_stream_load = words_load_stream_load.map (fun x => .ok x.2) := by rfl

theorem test_decode_store_stream : decoded .store words_store_stream_store = words_store_stream_store.map (fun x => .ok x.2) := by rfl

theorem test_decode_vector : decoded .exec words_vector_exec = words_vector_exec.map (fun x => .ok x.2) := by rfl

theorem test_decode_rows_and_masks : decoded .exec words_rows_and_masks_exec = words_rows_and_masks_exec.map (fun x => .ok x.2) := by rfl

theorem test_decode_matrix : decoded .exec words_matrix_exec = words_matrix_exec.map (fun x => .ok x.2) := by rfl

theorem test_decode_control_stream : decoded .ctl words_control_stream_ctl = words_control_stream_ctl.map (fun x => .ok x.2) := by rfl

theorem test_decode_immediates_ctl : decoded .ctl words_immediates_ctl = words_immediates_ctl.map (fun x => .ok x.2) := by rfl

theorem test_decode_immediates_load : decoded .load words_immediates_load = words_immediates_load.map (fun x => .ok x.2) := by rfl

theorem test_decode_immediates_store : decoded .store words_immediates_store = words_immediates_store.map (fun x => .ok x.2) := by rfl

theorem test_decode_immediates_exec : decoded .exec words_immediates_exec = words_immediates_exec.map (fun x => .ok x.2) := by rfl

theorem test_decode_wide : decoded .load words_wide_load = words_wide_load.map (fun x => .ok x.2) := by rfl

theorem test_decode_conductor : decoded .conductor words_conductor_conductor = words_conductor_conductor.map (fun x => .ok x.2) := by rfl

theorem test_decode_service : decoded .service words_service_service = words_service_service.map (fun x => .ok x.2) := by rfl

/-- P words: the forms are examples of 04 R67, 06 R122, 07 R159, 08 R171, R173, 12, 13 and 19, or are laid out from the field tables. -/
def forms_load : List (BitVec 128 × BitVec 32 × Instr) := [
  (0x0101_0000_0000_0000_0000_0002_0010_0008, 0x0C1F_0000, .lstrm ⟨0, false, 1, 15, 0⟩ 0 1 8 16 2),
  (0x0923_0000_0000_0000_0000_0000_0008_0007, 0x0FFF_0000, .gathp ⟨0, false, 63, 15, 0⟩ 1 3 7 8)]

def forms_store : List (BitVec 128 × BitVec 32 × Instr) := [
  (0x0202_0000_0000_0000_0000_0001_FFF0_000C, 0x0C52_0010, .sstrm ⟨0, false, 5, 2, 0x10⟩ 0 2 12 0xFFF0 16)]

def forms_exec : List (BitVec 128 × BitVec 32 × Instr) := [
  (0x0700_0000_0000_0000_0000_0000_0003_7654, 0x0C0F_0000, .vtopk ⟨0, false, 0, 15, 0⟩ 0 .f32 3 4 5 6 7),
  (0x0300_0000_0000_0000_0000_0002_0000_3321, 0x0C0F_0000, .mmaForm ⟨0, false, 0, 15, 0⟩ 0 false 2 0 0 .e4m3 .e4m3 2 1),
  (0x0300_0000_0000_0000_0000_0002_0000_3321, 0x0C02_0001, .mmaForm ⟨0, false, 0, 2, 1⟩ 0 false 1 0 0 .e4m3 .e4m3 2 1),
  (0x0400_0000_0000_0000_C000_3F80_3F00_0014, 0x0C10_0114,
    .mreadForm ⟨0, false, 1, 0, 0x114⟩ 0 .rne false 0 0xC000 0x3F80 0x3F00 1 .bf16 4),
  (0x0408_0000_0000_0000_3F80_3F80_3F00_0017, 0x0C1F_0000,
    .mreadForm ⟨0, false, 1, 15, 0⟩ 0 .sr false 0 0x3F80 0x3F80 0x3F00 0 .bf16 7)]

def forms_ctl : List (BitVec 128 × BitVec 32 × Instr) := [
  (0x0800_0000_0000_0000_0000_0000_0000_0087, 0x0C5F_0000, .dkeySplit ⟨0, false, 5, 15, 0⟩ 0 7 8),
  (0x0800_0000_0000_0000_0000_0000_0000_0087, 0x0C50_0098, .dkeySplit ⟨0, false, 5, 0, 0x98⟩ 0 8 9),
  (0x0801_0000_0000_0000_0000_0000_0000_0080, 0x0C5F_0000, .dkeySetCounter ⟨0, false, 5, 15, 0⟩ 0 0 8),
  (0x0501_0000_0000_0000_0000_0A42_0044_DCB8, 0x0C1F_0000,
    .copy ⟨0, false, 1, 15, 0⟩ 0 false false false true 10 true 2 true 4 13 12 11 8),
  (0x0600_0000_0002_0004_0000_0000_0006_A987, 0x0C3F_0000,
    .coll ⟨0, false, 3, 15, 0⟩ 0 .die 0 2 4 .f32 .sum .allreduce 0 false 0 6 10 9 8 7),
  (0x0602_0000_0000_0004_0000_0B43_0004_A987, 0x0C1F_0000,
    .coll ⟨0, false, 1, 15, 0⟩ 0 .fabric 0 0 4 .f32 .sum .allreduce 11 true 3 4 10 9 8 7)]

theorem test_decode_forms : decodedForms .load forms_load = forms_load.map (fun x => .ok x.2.2) ∧
    decodedForms .store forms_store = forms_store.map (fun x => .ok x.2.2) ∧
    decodedForms .exec forms_exec = forms_exec.map (fun x => .ok x.2.2) ∧ decodedForms .ctl forms_ctl = forms_ctl.map (fun x => .ok x.2.2) :=
  ⟨rfl, rfl, rfl, rfl⟩

/-- Causes of R47, the lowest of those that a word breaks: a reserved OP (1), another kind's OP (2), a reserved field, level or
immediate bit (3), a type (4), a register that the sequencer lacks (5), a patch (7), a form (8). -/
theorem test_decode_refuses :
    refuses .load 1 [0x0150_0000, 0x0680_0000, 0x0A80_0000] = true ∧
    refuses .exec 2 [0x0100_1300, 0x0622_1C02, 0x0138_0000] = true ∧
    refuses .conductor 2 [0x00D0_3000, 0x0C7F_0000, 0x0A00_0000] = true ∧
    refuses .ctl 3 [0x0000_0001, 0x0008_BA71, 0x00D8_1006, 0x0480_0040, 0x05C0_0005, 0x05C0_4000] = true ∧
    refuses .exec 4 [0x0218_5679, 0x02B0_3246, 0x02C0_2140, 0x02C0_2151, 0x0388_0028] = true ∧
    refuses .load 5 [0x0100_4700] = true ∧ refuses .exec 5 [0x0340_8120, 0x0380_2000] = true ∧
    refuses .store 4 [0x01C0_0789, 0x01C8_97A3] = true ∧
    refuses .ctl 7 [0x0C08_0000, 0x0C0F_0001] = true ∧ refuses .ctl 8 [0x0C0F_0000] = true := by decide +kernel

/-- The words decode through the interface too, as the opcode table numbers their bits. -/
theorem test_table_word : decodeTableWord 32 0x0008_BA70 = some (.add ⟨0, false, 0⟩ 11 10 7) ∧
    decodeTableWord 32 0x0108_0783 = some (.fence 7 8 3) ∧ decodeTableWord 32 0x0150_0000 = none :=
  ⟨rfl, rfl, rfl⟩

/-! ## Well-formed instructions: for each check a term that fails it -/

/-- A head with nothing set. -/
abbrev h0 : Head := ⟨0, false, 0⟩

/-- The head of a P word without a patch. -/
abbrev p0 : HeadP := ⟨0, false, 0, 15, 0⟩

/-- A command whose descriptor is a number. -/
abbrev cmdOf (n : BitVec 512) : Cmd := ⟨.host, 0, n⟩

/-- Terms that fail a check of `Instr.wf`: shared. -/
def ill_shared : List (SeqKind × Instr) :=
  [(.conductor, .nop ⟨1, false, 0⟩), (.conductor, .add ⟨0, true, 0⟩ 1 2 3), (.service, .trap ⟨0, false, 1⟩ 0), (.conductor, .jr ⟨0, true, 0⟩ 1),
   (.conductor, .endStream h0), (.conductor, .tick h0 1), (.load, .idx h0 1 6), (.conductor, .idx h0 1 0), (.load, .getc h0 1 0x05),
   (.exec, .getc h0 1 0x07), (.conductor, .setc h0 0x01 1), (.exec, .setc h0 0x20 1), (.service, .setc ⟨2, false, 0⟩ 0x20 1)]

/-- Terms that fail a check of `Instr.wf`: streams. -/
def ill_streams : List (SeqKind × Instr) :=
  [(.load, .ldq h0 4 1), (.exec, .ldb h0 0 1), (.load, .lstop h0 15), (.load, .ldt h0 4 1 2), (.store, .ldg h0 0 1 2), (.load, .ldm h0 6 0 1 2),
   (.load, .ldm h0 0 0 1 2), (.load, .ldm h0 3 4 1 2), (.store, .ldx h0 1 2), (.ctl, .recvx h0 1 2), (.load, .stq h0 0 1), (.store, .stt h0 4 1 2),
   (.store, .scat h0 5 1 2), (.load, .stx h0 1 2), (.ctl, .send h0 0 1), (.store, .atom h0 .add128 1 3), (.store, .atomf h0 .cas64 1 2 3),
   (.load, .atom h0 .add64 1 2), (.store, .sstop h0 4 0), (.store, .sstop h0 0 17)]

/-- Terms that fail a check of `Instr.wf`: vector. -/
def ill_vector : List (SeqKind × Instr) :=
  [(.exec, .vadd h0 .i4 1 2 3), (.exec, .vsub h0 .e4m3 1 2 3), (.load, .vmul h0 .f32 1 2 3), (.exec, .vfma h0 .i32 1 2 3), (.exec, .vabs h0 .w96 1 2),
   (.exec, .vexp h0 .i32 1 2), (.store, .vand h0 .f32 1 2 3), (.exec, .vshl h0 .f32 1 2 3), (.exec, .vcmp h0 .eq .e5m2 1 2), (.ctl, .vselm h0 1 2 3 4),
   (.exec, .vcvt h0 true .rne .f32 1 2), (.ctl, .vmov h0 .f32 1 2), (.exec, .vbcast h0 .w96 1 2), (.exec, .vshuf h0 .i4 1 2 3),
   (.exec, .vscan h0 .add .w96 1 2), (.exec, .vmadw h0 .i32 1 2 3), (.exec, .vaddw h0 .u8 1 2 4), (.exec, .vaddw h0 .i16 1 2 2),
   (.exec, .vaddw h0 .u32 1 2 0), (.exec, .vpop h0 1 4 0), (.exec, .vpop h0 1 0 8), (.exec, .vpush h0 .i16 0 1 0), (.exec, .vpush h0 .f32 4 1 0),
   (.exec, .qdrop h0 4 0), (.exec, .qdrop h0 0 17), (.exec, .vdraw h0 .bf16 1), (.exec, .vpopc h0 .f32 1 2), (.exec, .vclass h0 .i32 1 2),
   (.exec, .pand h0 0 1 2), (.exec, .por h0 8 1 2), (.exec, .pxor h0 1 8 2), (.exec, .pnot h0 1 8), (.exec, .pset h0 .i4 1 2 3), (.exec, .pset h0 .f32 0 2 3),
   (.exec, .pcnt h0 1 8), (.exec, .vlane h0 .f16 1 2)]

/-- Terms that fail a check of `Instr.wf`: array. -/
def ill_array : List (SeqKind × Instr) :=
  [(.exec, .mclr h0 2), (.exec, .mma h0 .f32 0 1 2), (.exec, .mma h0 .i8 2 1 2), (.exec, .mread h0 .i8 1 0 0), (.exec, .mread h0 .f32 1 2 0),
   (.exec, .mread h0 .f32 1 0 4), (.exec, .maddw h0 2 1 0), (.exec, .mpush h0 1 2 0), (.load, .mstat h0 1 0 false), (.ctl, .cntw h0 64 1),
   (.exec, .cnts h0 0 1), (.ctl, .cntr h0 1 255), (.load, .drift h0 1), (.store, .sealR h0 1 2), (.ctl, .bfmt h0 6 1), (.conductor, .addi ⟨1, false, 0⟩ 1 2 0),
   (.load, .slli h0 1 2 64), (.conductor, .srai ⟨0, false, 3⟩ 1 2 0), (.load, .loop h0 0 false 1 1), (.load, .loop h0 1 false 1 0),
   (.load, .loop h0 1 false 1 512), (.load, .loop h0 1 true 1 1), (.conductor, .waitd h0 1 0), (.exec, .formld h0 64 1), (.store, .ldxo h0 1 2 0),
   (.load, .stxo h0 1 2 0), (.load, .vbcasti h0 .f32 1 0), (.conductor, .li ⟨1, false⟩ 1 0), (.conductor, .waitt ⟨0, false⟩ 1 0)]

/-- Terms that fail a check of `Instr.wf`: forms. -/
def ill_forms : List (SeqKind × Instr) :=
  [(.load, .lstrm p0 0 0 1 1 0), (.load, .lstrm p0 0 0 1 1 17), (.store, .gathp p0 0 0 1 2), (.store, .sstrm p0 0 0 1 1 0), (.exec, .vtopk p0 0 .i8 1 1 2 3 4),
   (.exec, .vtopk p0 0 .f32 0 1 2 3 4), (.exec, .vtopk p0 0 .f32 129 1 2 3 4), (.exec, .vtopk p0 0 .f32 1 1 2 3 3),
   (.exec, .mmaForm p0 0 false 0 0 0 .i8 .i8 1 2), (.exec, .mmaForm p0 0 false 17 0 0 .i8 .i8 1 2), (.exec, .mmaForm p0 0 false 2 7 0 .i8 .i8 1 2),
   (.exec, .mmaForm p0 0 false 2 0 15 .i8 .i8 1 2), (.exec, .mmaForm p0 0 false 1 7 0 .i4 .i4 1 2), (.exec, .mmaForm p0 0 false 1 0 0 .i8 .i4 1 2),
   (.exec, .mreadForm p0 0 .rne false 0 0 0 0 0 .e4m3 1), (.load, .dkeySplit p0 0 1 2),
   (.ctl, .copy p0 0 false false false false 0 true 3 true 3 0 1 2 3), (.ctl, .coll p0 0 .die 0 0 0 .f32 .sum .allreduce 0 false 0 1 0 1 2 3),
   (.ctl, .coll p0 0 .die 0 0 129 .f32 .sum .allreduce 0 false 0 1 0 1 2 3), (.ctl, .coll p0 0 .die 0 1 2 .f32 .sum .allreduce 0 false 0 1 0 1 2 3),
   (.ctl, .coll p0 0 .die 2 0 2 .f32 .sum .reduce 0 false 0 1 0 1 2 3), (.ctl, .coll p0 0 .die 1 0 2 .f32 .sum .allgather 0 false 0 1 0 1 2 3),
   (.ctl, .coll p0 0 .die 0 0 2 .bf16 .topk .allreduce 0 false 0 1 0 1 2 3), (.ctl, .coll p0 0 .die 0 0 2 .i8 .sum .allreduce 0 false 0 1 0 1 2 3),
   (.ctl, .coll p0 0 .die 0 0 2 .f32 .max .broadcast 0 false 0 1 0 1 2 3), (.ctl, .coll p0 0 .die 0 0 2 .f32 .sum .allreduce 0 true 1 1 0 1 2 3)]

/-- Terms that fail a check of `Instr.wf`: rest. -/
def ill_rest : List (SeqKind × Instr) :=
  [(.load, .condStep 1 2), (.conductor, .fence 1 2 0), (.conductor, .fence 1 2 13), (.conductor, .signal 64 1), (.conductor, .tlbia 1 2),
   (.service, .pgret 1 3), (.conductor, .rmcmd 1 2), (.load, .place (cmdOf 2)), (.load, .start (cmdOf 1)), (.load, .release (cmdOf 7)),
   (.load, .planeSwap 32), (.load, .counterHoldEnd 0 128), (.load, .copyOpStart 0 0 2), (.load, .linkHoldTimeout 489),
   (.load, .quarantineSweepDone 2 0), (.load, .quarantineSweepDone 0 1024), (.load, .grantWordArrival 0 64 0), (.load, .firmamentBeatArrival 64 0),
   (.load, .hostTranslationResponse 0 0 2 none), (.load, .counterWindowWrite 0 64 0), (.load, .tableStoreWrite 0 4 0), (.load, .vdRecordWrite 32 0),
   (.load, .retirementCopyDone 256 0), (.load, .illegalInstruction 0), (.load, .illegalInstruction 10), (.load, .collOpStart 32 .die [])]

theorem test_ill_formed_shared : ill_shared.all (fun x => !x.2.wf x.1) = true := by decide +kernel

theorem test_ill_formed_streams : ill_streams.all (fun x => !x.2.wf x.1) = true := by decide +kernel

theorem test_ill_formed_vector : ill_vector.all (fun x => !x.2.wf x.1) = true := by decide +kernel

theorem test_ill_formed_array : ill_array.all (fun x => !x.2.wf x.1) = true := by decide +kernel

theorem test_ill_formed_forms : ill_forms.all (fun x => !x.2.wf x.1) = true := by decide +kernel

theorem test_ill_formed_rest : ill_rest.all (fun x => !x.2.wf x.1) = true := by decide +kernel

/-! ## Small states -/

/-- A state in which word `w` is the next of stream `k` of the one tile of region 0, at region tick 0, with changes to the tile and
the region. -/
def onWord (k : SeqKind) (w : BitVec 32) (f : Tile → Tile := id) (g : Region → Region := id) : State :=
  let s := State.reset.seed k w
  let r := s.region 0
  { s.setRegion 0 (g { r with tiles := r.tiles.map f }) with cur := .stream 0 0 k }

/-- Registers of a stream. -/
def withRegs (k : SeqKind) (regs : Regs) (t : Tile) : Tile := t.setStream k { t.stream k with s := regs }

/-- Entry 0 of a stream's form file. -/
def withForm (k : SeqKind) (form : BitVec 128) (t : Tile) : Tile := t.setStream k { t.stream k with forms := [(0, form)] }

/-- A stream inside loops. -/
def withLoops (k : SeqKind) (ls : List Loop) (t : Tile) : Tile := t.setStream k { t.stream k with loops := ls }

/-- A change of the region's running step. -/
def withRun (f : Run → Run) (r : Region) : Region := r.modRun f

/-- The word of `i` issues in `s`, and what it sees meets `p`. -/
def issuing (s : State) (i : Instr) (p : Ctx → Bool := fun _ => true) : Bool :=
  match s.ctx with
  | some c => c.cause i == none && c.guardOn && p c
  | none => false

theorem issues_of (s : State) (i : Instr) (p : Ctx → Bool) (h : issuing s i p = true) : ∃ c, Issues s c i ∧ p c = true := by
  unfold issuing at h
  split at h
  · rename_i c hc
    simp only [Bool.and_eq_true, beq_iff_eq] at h
    exact ⟨c, ⟨hc, h.1.1, h.1.2⟩, h.2⟩
  · cases h

/-- A state in which the conductor of region 0 issues `w` at the start of a graph's code, with changes to the graph and the region. -/
def onCond (k : SeqKind) (w : BitVec 32) (f : Graph → Graph := id) (g : Region → Region := id) : State :=
  let s := State.reset.seed k w
  let r := s.region 0
  { s.setRegion 0 (g { r with graphs := r.graphs.map f }) with cur := .conductor 0 w }

/-- The word of `i` issues on a conductor in `s`, and what it sees meets `p`. -/
def condIssuing (s : State) (i : Instr) (p : CCtx → Bool := fun _ => true) : Bool :=
  match s.cctx with
  | some c => i.wf c.kind && p c
  | none => false

theorem condIssues_of (s : State) (i : Instr) (p : CCtx → Bool) (h : condIssuing s i p = true) :
    ∃ c, CondIssues s c i ∧ p c = true := by
  unfold condIssuing at h
  split at h
  · rename_i c hc
    simp only [Bool.and_eq_true] at h
    exact ⟨c, ⟨hc, h.1⟩, h.2⟩
  · cases h

/-- An effect of a word of a stream of tile 0 that issued at tick 0, due at tick 5. -/
def dueAt5 (k : SeqKind) (act : Act) : Eff := mkEff ⟨0, k, 0, 0, 0, false⟩ 5 0 act

/-- A state whose region 0 has one tile, whose streams have ended, and a running step with one effect, of stream `k`, due at tick 5. -/
def onEff (k : SeqKind) (act : Act) (f : Tile → Tile := id) (g : Region → Region := id) : State :=
  let s := State.reset.seed k 0
  let r := s.region 0
  let t : Tile := { ld := seedEnded, ex := seedEnded, st := seedEnded, ct := seedEnded }
  s.setRegion 0 (g { r with tiles := [f t], run := some { img := seedImg, epoch := 1, effs := [dueAt5 k act] } })

/-- The effect falls due in the state. -/
def fallsDue (s : State) (e : Eff) (u : Nat) : Bool :=
  decide ((s.region 0).pick = some (u, .eff e)) &&
    decide (e.tile < (s.region 0).tiles.length)

theorem falls_of (s : State) (e : Eff) (u : Nat) (h : fallsDue s e u = true) : Falls s 0 e u := by
  simp only [fallsDue, Bool.and_eq_true, decide_eq_true_eq] at h
  exact ⟨h.1, h.2⟩

/-! ## Every word issues somewhere -/

/-- Every word of a list issues on stream `k`. -/
def allIssue (k : SeqKind) (l : List (BitVec 32 × Instr)) : Bool := l.all (fun x => issuing (onWord k x.1) x.2)

/-- Every form of a list issues on stream `k`. -/
def allFormsIssue (k : SeqKind) (l : List (BitVec 128 × BitVec 32 × Instr)) : Bool :=
  l.all (fun x => issuing (onWord k x.2.1 (fun t => t.setStream k { t.stream k with forms := [((pForm x.2.1).toNat, x.1)] })) x.2.2)

theorem test_words_issue_scalar : allIssue .exec words_scalar_exec = true ∧ allIssue .store words_scalar_store = true := by decide +kernel

theorem test_words_issue_memory : allIssue .load words_load_stream_load = true ∧ allIssue .store words_store_stream_store = true := by
  decide +kernel

theorem test_words_issue_vector : allIssue .exec words_vector_exec = true ∧ allIssue .exec words_rows_and_masks_exec = true ∧
    allIssue .exec words_matrix_exec = true := by decide +kernel

theorem test_words_issue_rest : allIssue .ctl words_control_stream_ctl = true ∧ allIssue .ctl words_immediates_ctl = true ∧
    allIssue .load words_immediates_load = true ∧ allIssue .store words_immediates_store = true ∧
    allIssue .exec words_immediates_exec = true ∧ allIssue .load words_wide_load = true := by decide +kernel

theorem test_forms_issue : allFormsIssue .exec forms_exec = true ∧ allFormsIssue .ctl forms_ctl = true ∧
    allFormsIssue .store forms_store = true ∧ allFormsIssue .load (forms_load.take 1) = true := by decide +kernel

theorem test_words_issue_conductor :
    words_conductor_conductor.all (fun x => condIssuing (onCond .conductor x.1) x.2) = true ∧
    words_service_service.all (fun x => condIssuing (onCond .service x.1) x.2) = true := by decide +kernel

/-- Words that every sequencer has, on a conductor. -/
def words_shared_conductor : List (BitVec 32 × Instr) := [
  (0x0000_0000, .nop ⟨0, false, 0⟩), (0x0008_BA70, .add ⟨0, false, 0⟩ 11 10 7), (0x00B8_6E00, .clz ⟨0, false, 0⟩ 6 14),
  (0x00C8_0200, .jr ⟨0, false, 0⟩ 2), (0x00E0_3020, .getc ⟨0, false, 0⟩ 3 0x20), (0x00E8_0225, .setc ⟨0, false, 0⟩ 0x25 2),
  (0x00F0_0007, .trap ⟨0, false, 0⟩ 7), (0x0402_C001, .addi ⟨0, false, 0⟩ 11 0 1), (0x0502_8002, .beq ⟨0, false, 0⟩ 10 0 2),
  (0x0820_0007, .li ⟨0, false⟩ 4 7), (0x09A0_0003, .jal ⟨0, false⟩ 4 3), (0x0900_0003, .j ⟨0, false⟩ 3)]

theorem test_decode_shared_conductor : decoded .conductor words_shared_conductor = words_shared_conductor.map (fun x => .ok x.2) := by rfl

theorem test_words_issue_shared_conductor :
    words_shared_conductor.all (fun x => condIssuing (onCond .conductor x.1) x.2) = true := by decide +kernel

/-! ## Witnesses: encoding, a step, issue -/

/-- The premises of DecodeEncode: well formed, its patch holds, its word. -/
def encodable (k : SeqKind) (l : List (BitVec 32 × Instr)) : Bool :=
  l.all (fun x => x.2.wf k && patchOk x.2 && decide (encode x.2 = some x.1))

theorem test_witness_DecodeEncode : encodable .exec words_scalar_exec = true ∧ encodable .load words_load_stream_load = true ∧
    encodable .store words_store_stream_store = true ∧ encodable .exec words_vector_exec = true ∧
    encodable .exec words_rows_and_masks_exec = true ∧ encodable .exec words_matrix_exec = true ∧
    encodable .ctl words_control_stream_ctl = true ∧ encodable .ctl words_immediates_ctl = true ∧ encodable .load words_wide_load = true ∧
    encodable .conductor words_conductor_conductor = true ∧ encodable .service words_service_service = true ∧
    forms_ctl.all (fun x => encodable .ctl [x.2]) = true ∧ forms_exec.all (fun x => encodable .exec [x.2]) = true := by decide +kernel

theorem test_witness_DecodeSound : decode .load 0x0101_0000_0000_0000_0000_0002_0010_0008 0x0C12_0001 =
    .ok (.lstrm ⟨0, false, 1, 2, 1⟩ 0 1 8 16 1) := rfl

theorem test_witness_ReservedCodes : opAccepts .exec 0x0100_1700 = false ∧ opAccepts .load 0x0100_1700 = true ∧
    (∀ k, opAccepts k 0x0150_0000 = false) ∧ opAccepts .conductor 0x0C7F_0000 = false ∧ opAccepts .ctl 0x0C7F_0000 = true :=
  ⟨rfl, rfl, fun k => by cases k <;> rfl, rfl, rfl⟩

theorem test_witness_StepRuns_word :
    let s := State.reset.seed .load 0x0100_1700
    s.turns = [.region 0] ∧ OnlyStep { s with turns := [] } 0 ∧ (s.region 0).pick = some (0, .issue 0 .load) ∧
      ((s.region 0).tiles[0]?).isSome = true ∧ decode .load 0 0x0100_1700 = .ok (.ldq ⟨0, false, 0⟩ 1 7) :=
  ⟨rfl, ⟨.inr rfl, rfl, rfl, rfl, rfl, rfl, rfl⟩, by decide +kernel, rfl, rfl⟩

theorem test_witness_StepRuns_illegal :
    let s := State.reset.seed .load 0x0150_0000
    OnlyStep { s with turns := [] } 0 ∧ (s.region 0).pick = some (0, .issue 0 .load) ∧ decode .load 0 0x0150_0000 = .error 1 :=
  ⟨⟨.inr rfl, rfl, rfl, rfl, rfl, rfl, rfl⟩, by decide +kernel, rfl⟩

theorem test_witness_StepRuns_past_the_plane :
    let s := onWord .ctl 0 (fun t => { t with ct := { t.ct with pc := 16384 } })
    OnlyStep { s with turns := [] } 0 ∧ (s.region 0).pick = some (0, .issue 0 .ctl) ∧ ((s.region 0).tiles.map (·.ct.pc)) = [16384] :=
  ⟨⟨.inr rfl, rfl, rfl, rfl, rfl, rfl, rfl⟩, by decide +kernel, rfl⟩

theorem test_witness_StepRuns_conductor :
    let t : State := { State.reset.seed .conductor 0x0008_BA70 with turns := [] }
    let r := t.region 0
    t.lifeNext 0 = none ∧ r.active = true ∧ r.begun = true ∧ r.staging = none ∧ t.waiting 0 = false ∧
      (r.runFaulted = false ∧ t.condBlocked 0 = false ∧ t.restless 0 = false ∧ Instr.looks (.cntwConductor 7 2) = true) ∧
      r.graphs.all (fun g => decide (g.pc < 64 + g.clen) && decide (t.readVa 0 (g.va + BitVec.ofNat 64 g.pc) 4 = some 0x0008_BA70) &&
        (CCtx.mk 0 r g 0x0008_BA70).ready t (.add ⟨0, false, 0⟩ 11 10 7)) = true ∧ r.graphs ≠ [] ∧
      decode .conductor 0 0x0008_BA70 = .ok (.add ⟨0, false, 0⟩ 11 10 7) :=
  ⟨rfl, rfl, rfl, rfl, rfl, ⟨rfl, rfl, rfl, rfl⟩, by decide +kernel, by decide +kernel, rfl⟩

theorem test_witness_StepRuns_effect :
    let s := onEff .load (.reg 3 7)
    OnlyStep { s with turns := [] } 0 ∧ (s.region 0).pick = some (5, .eff (dueAt5 .load (.reg 3 7))) ∧ s.turns = [.region 0] :=
  ⟨⟨.inr rfl, rfl, rfl, rfl, rfl, rfl, rfl⟩, by decide +kernel, rfl⟩

/-- Whether an instruction gives a next state, and whether its event is not due. -/
def nextOf (o : Out) : Bool := match o with
  | .next _ => true
  | _ => false

/-- The state an instruction leads to. -/
def after (o : Out) : State := match o with
  | .next s => s
  | _ => State.reset

theorem test_witness_StepRuns_offered : nextOf (exec .powerGood State.reset) = true ∧
    exec (.zeroFillComplete 3) { State.reset with turns := [], cur := .none } = .fault .notDue := ⟨by decide +kernel, rfl⟩

/-- A word that decodes and issues with a false guard: kernel iteration 5 of a loop of 7 stages and one trip, at stage 1. -/
def skipping (k : SeqKind) (w : BitVec 32) (form : BitVec 128) (i : Instr) : Bool :=
  match (onWord k w (fun t => withLoops k [⟨0, 4000, 7, false, 5, 1⟩] (withForm k form t))).ctx with
  | some c => c.cause i == none && !c.guardOn
  | none => false

theorem test_witness_IssueGuards_false : skipping .ctl 0x05C4_4005 0 (.loop ⟨0, false, 1⟩ 1 false 0 5) = true ∧
    skipping .exec 0x0391_6131 0 (.mread ⟨0, false, 1⟩ .bf16 6 1 3) = true ∧
    skipping .exec 0x0C0F_0000 0x0420_0000_0000_0000_C000_3F80_3F00_0014
      (.mreadForm ⟨0, false, 0, 15, 0⟩ 1 .rne false 0 0xC000 0x3F80 0x3F00 0 .bf16 4) = true ∧
    skipping .exec 0x0399_1850 0 (.maddw ⟨0, false, 1⟩ 1 8 5) = true ∧ skipping .exec 0x03A1_8000 0 (.mpush ⟨0, false, 1⟩ 8 0 0) = true ∧
    skipping .load 0x0101_1700 0 (.ldq ⟨0, false, 1⟩ 1 7) = true := by decide +kernel

/-- The cause of a word's illegal instruction in a state. -/
def causeOf (s : State) (i : Instr) : Option Nat := (s.ctx.map (fun c => c.cause i)).getD none

/-- The causes that depend on the running step, each from the rule it breaks: an undeclared register, a guard outside a loop or above
its stages, an undeclared register of a form, a body past the plane (03 R47). -/
theorem test_witness_IssueGuards_cause :
    let tregs (n : Nat) := withRun (fun run => { run with img := { run.img with tregs := n } })
    causeOf (onWord .exec 0x0218_5671 id (tregs 7)) (.vfma ⟨0, false, 0⟩ .bf16 5 6 7) = some 5 ∧
    causeOf (onWord .exec 0x0218_5671 id (tregs 8)) (.vfma ⟨0, false, 0⟩ .bf16 5 6 7) = none ∧
    causeOf (onWord .load 0x0101_1700 (withLoops .load [])) (.ldq ⟨0, false, 1⟩ 1 7) = some 6 ∧
    causeOf (onWord .load 0x0103_1700 (withLoops .load [⟨0, 4, 2, false, 3, 1⟩])) (.ldq ⟨0, false, 3⟩ 1 7) = some 6 ∧
    causeOf (onWord .exec 0x0C0F_0000 (withForm .exec 0x0300_0000_0000_0000_0000_0002_0000_3321) (tregs 2))
      (.mmaForm ⟨0, false, 0, 15, 0⟩ 0 false 2 0 0 .e4m3 .e4m3 2 1) = some 8 ∧
    causeOf (onWord .ctl 0x05C0_4005 (fun t => { t with ct := { t.ct with pc := 16376 } })) (.loop ⟨0, false, 0⟩ 1 false 0 5) = some 9 := by
  decide +kernel

theorem test_witness_IssueFrame : [0x0008_BA70, 0x0328_7000, 0x0310_2000].all (fun w =>
    match decode .exec 0 w with
    | .ok i => i.isStreamWord && nextOf (exec i (onWord .exec w)) && (onWord .exec w).ctx.isSome
    | .error _ => false) = true := by decide +kernel

/-- Which clause of NextWord a running stream falls under: no loop, a back edge, the end of a loop, inside a body. -/
def nextClause (x : Stream) : Nat :=
  match x.st, x.loops with
  | .running, [] => 1
  | .running, l :: _ => if x.pc = l.last then (if l.m < l.trips + l.n - 1 then 2 else 3) else 4
  | _, _ => 0

theorem test_witness_NextWord :
    ([[], [⟨0, 0, 3, true, 4, 3⟩], [⟨0, 0, 3, true, 5, 3⟩], [⟨0, 4, 3, false, 1, 3⟩]].map (fun ls =>
      ((onWord .exec 0 (withLoops .exec ls)).ctx.map (fun c => nextClause c.x)).getD 0)) = [1, 2, 3, 4] := by decide +kernel

/-- The stage predicate at the first and the last kernel iteration at which it is true, and on either side (05 R94: trip 3, stage 2). -/
theorem test_witness_StagePredicate : ([1, 2, 4, 5].map (fun m =>
    ((onWord .load 0x0102_1700 (withLoops .load [⟨0, 4, 3, false, m, 3⟩])).ctx.map (·.guardOn)).getD false)) = [false, true, true, false] ∧
    ((onWord .load 0x0100_1700 (withLoops .load [⟨0, 4, 3, false, 5, 3⟩])).ctx.map (·.guardOn)) = some true := by decide +kernel

/-- A fault of the load stream of tile 0 at tick 3. -/
def aFault : FaultRec := ⟨3, 0, 0, 3, 2, 0, 8, 0x0100_1700, 0x40, 0, 0⟩

theorem test_witness_StreamFault :
    let r := (onWord .load 0).region 0
    streamKinds[aFault.seq]? = some .load ∧ r.tiles.all (fun t => t.ld.st != .ended) = true ∧ r.tiles.length = 1 ∧
      (r.run.map (·.stop)) = some none ∧ ((withRun (fun run => { run with stop := some 4 }) r).run.map (·.stop)) = some (some 4) ∧
      aFault.tick < 4 ∧ ((withRun (fun run => { run with stop := some 3 }) r).run.map (·.stop)) = some (some 3) ∧ 3 ≤ aFault.tick := by
  decide +kernel

/-! ## Scalars -/

/-- What a running step has in flight after an instruction: due ticks and acts. -/
def inFlight (o : Out) : List (Nat × Act) :=
  (((after o).region 0).run.map (fun run => run.effs.map (fun e => (e.due, e.act)))).getD []

/-- Registers of the scalar tests: s1 = −7, s2 = 2, s3 = −2^63, s4 = −1, s5 = 66, s6 = 0x2_0000_0000. -/
def someRegs : Regs := [(1, -7), (2, 2), (3, 0x8000_0000_0000_0000), (4, -1), (5, 66), (6, 0x2_0000_0000)]

/-- What a scalar word writes on the control stream: due tick, register, value. -/
def writes (w : BitVec 32) : Option (Nat × BitVec 4 × Word) :=
  match decode .ctl 0 w with
  | .ok i => match inFlight (exec i (onWord .ctl w (withRegs .ctl someRegs))) with
    | [(t, .reg d v)] => some (t, d, v)
    | _ => none
  | .error _ => none

/-- Results worked out by hand from 05 R82, R83, R85: wraps, signs, shifts by more than 63, division by zero and −2^63 / −1. -/
theorem test_scalar_results :
    [0x0008_9320, 0x0010_9240, 0x0018_9160, 0x0020_9320, 0x0028_9440, 0x0030_9250, 0x0038_9350, 0x0040_9350, 0x0048_9660,
      0x0050_9120, 0x0050_9660, 0x0058_9120, 0x0060_9120, 0x0060_9340, 0x0060_9200, 0x0068_9420, 0x0070_9120, 0x0070_9340,
      0x0070_9100, 0x0078_9120].map writes =
    [some (1, 9, 0x8000_0000_0000_0002), some (1, 9, 3), some (1, 9, 0x2_0000_0000), some (1, 9, 0x8000_0000_0000_0002),
      some (1, 9, 0), some (1, 9, 8), some (1, 9, 0x2000_0000_0000_0000), some (1, 9, 0xE000_0000_0000_0000), some (3, 9, 0),
      some (3, 9, -1), some (3, 9, 4), some (3, 9, 1), some (20, 9, -3), some (20, 9, 0x8000_0000_0000_0000), some (20, 9, -1),
      some (20, 9, 0x7FFF_FFFF_FFFF_FFFF), some (20, 9, -1), some (20, 9, 0), some (20, 9, -7), some (20, 9, 1)] := by decide +kernel

theorem test_scalar_results_more :
    [0x0080_9120, 0x0088_9120, 0x0090_9120, 0x0098_9120, 0x00A0_9120, 0x00A8_9120, 0x00B0_9120, 0x00B0_9121, 0x00B8_9000,
      0x00B8_9600, 0x00C0_9400, 0x0402_47FF, 0x0422_4610, 0x0480_8839, 0x04E2_47F9, 0x04E2_47FA, 0x084C_0000, 0x0897_FFFF].map writes =
    [some (1, 9, -7), some (1, 9, 2), some (1, 9, 2), some (1, 9, -7), some (1, 9, 1), some (1, 9, 0), some (1, 9, 2),
      some (1, 9, -7), some (1, 9, 64), some (1, 9, 30), some (1, 9, 64), some (1, 9, -8),
      some (1, 9, 0xFFFF_FFFF_FFFF_FE10 &&& -7), some (1, 2, 0x0400_0000_0000_0000), some (1, 9, 0), some (1, 9, 1),
      some (1, 9, -262144), some (1, 2, 2 * 524288 + 524287)] := by decide +kernel

theorem test_witness_ScalarResults :
    words_scalar_exec.all (fun x => issuing (onWord .exec x.1) x.2 (fun c => (scalarResult c.rd x.2).isSome ||
      ((branchOf c.rd c.pc x.2).isSome || x.1.extractLsb' 19 9 == 0 || 0x1A ≤ (x.1.extractLsb' 19 7).toNat))) = true ∧
    issuing (onWord .ctl 0x0808_0005) (.li ⟨0, false⟩ 1 5) (fun c => (scalarResult c.rd (.li ⟨0, false⟩ 1 5)).isSome) = true ∧
    condIssuing (onCond .conductor 0x0008_BA70) (.add ⟨0, false, 0⟩ 11 10 7)
      (fun c => (scalarResult c.rd (.add ⟨0, false, 0⟩ 11 10 7)).isSome) = true := by decide +kernel

theorem test_witness_ScalarRegisters : tabWf 0 someRegs = true ∧ tabWf 0 ([] : Regs) = true := by decide +kernel

/-- Branches on the control stream with s1 = −7 and s2 = 2: taken or not, and into the plane or out of it. -/
theorem test_witness_Branches :
    let on (w : BitVec 32) (i : Instr) (taken inside : Bool) : Bool :=
      issuing (onWord .ctl w (withRegs .ctl someRegs)) i (fun c => match branchOf c.rd c.pc i with
        | some (b, t, _) => b == taken && inPlane t == inside
        | none => false)
    on 0x0500_4802 (.beq ⟨0, false, 0⟩ 1 2 2) false true = true ∧ on 0x0520_4802 (.bne ⟨0, false, 0⟩ 1 2 2) true true = true ∧
    on 0x0540_4BFF (.blt ⟨0, false, 0⟩ 1 2 0x3FF) true false = true ∧ on 0x0560_4802 (.bge ⟨0, false, 0⟩ 1 2 2) false true = true ∧
    on 0x0580_4802 (.bltu ⟨0, false, 0⟩ 1 2 2) false true = true ∧ on 0x05A0_4802 (.bgeu ⟨0, false, 0⟩ 1 2 2) true true = true ∧
    on 0x0900_0FFF (.j ⟨0, false⟩ 0xFFF) true true = true ∧ on 0x0900_1000 (.j ⟨0, false⟩ 0x1000) true false = true ∧
    on 0x09C8_0003 (.jal ⟨0, false⟩ 9 3) true true = true ∧ on 0x00C8_0200 (.jr ⟨0, false, 0⟩ 2) true false = true := by decide +kernel

theorem test_witness_Branches_conductor :
    let on (w : BitVec 32) (i : Instr) (want : Bool → Int → Bool) : Bool :=
      condIssuing (onCond .conductor w) i (fun c => match branchOf c.rd c.g.pc i with
        | some (b, t, _) => want b t && c.g.clen == 4
        | none => false)
    on 0x0520_0002 (.bne ⟨0, false, 0⟩ 0 0 2) (fun b _ => !b) = true ∧ on 0x0500_0000 (.beq ⟨0, false, 0⟩ 0 0 0) (fun b t => b && t == 64) = true ∧
    on 0x09C8_0000 (.jal ⟨0, false⟩ 9 0) (fun b t => b && t == 64) = true ∧ on 0x0900_0001 (.j ⟨0, false⟩ 1) (fun b t => b && t == 68) = true := by
  decide +kernel

theorem test_witness_TakenBranch :
    let s := onWord .load 0x0900_0003
    inPlane 12 = true ∧ inPlane 16380 = true ∧ inPlane 0 = true ∧ (s.region 0).run.isSome = true ∧
      (s.ctx.map (fun c => decide (c.rid = 0 ∧ c.tile = 0) && c.k.isStream)) = some true := by decide +kernel

theorem test_witness_TrapsAndIllegal :
    issuing (onWord .load 0x00F0_0007) (.trap ⟨0, false, 0⟩ 7) = true ∧ condIssuing (onCond .conductor 0x00F0_0007) (.trap ⟨0, false, 0⟩ 7) = true ∧
    (onWord .load 0x0150_0000).ctx.isSome = true ∧ (onCond .conductor 0x0150_0000).cctx.isSome = true := by decide +kernel

/-! ## Control registers, position, loops and waits -/

theorem test_witness_ControlRegisters :
    issuing (onWord .exec 0x00E0_9005) (.getc ⟨0, false, 0⟩ 9 5) = true ∧ issuing (onWord .exec 0x00E8_0110) (.setc ⟨0, false, 0⟩ 0x10 1) = true ∧
    issuing (onWord .ctl 0x00D0_9000) (.tick ⟨0, false, 0⟩ 9) = true ∧ issuing (onWord .load 0x00D8_9005) (.idx ⟨0, false, 0⟩ 9 5) = true ∧
    condIssuing (onCond .conductor 0x00E0_9022) (.getc ⟨0, false, 0⟩ 9 0x22) = true ∧
    condIssuing (onCond .conductor 0x00E8_0122) (.setc ⟨0, false, 0⟩ 0x22 1) = true := by decide +kernel

/-- A nest of extents 3, 4 and 5 whose order is level 2, level 0, level 1; indices of flat index 47 by hand: 47 = (3·3 + 0)·4 + 11 …, that is
47 mod 60 = 3·12 + 2·4 + 3 (11 R214). -/
theorem test_witness_NestIndices :
    let n : Nest := ⟨3, [2, 0, 1, 3, 4, 5], [3, 4, 5, 1, 1, 1]⟩
    n.perm.take n.depth = [2, 0, 1] ∧ [2, 0, 1].Nodup ∧ (∀ j ∈ [2, 0, 1], j < n.depth) ∧
      (∀ j ∈ [2, 0, 1], 0 < n.ext.getD j 1 ∧ n.ext.getD j 1 < 2 ^ 32) ∧
      idxValue (some n) 47 2 = 3 ∧ idxValue (some n) 47 0 = 2 ∧ idxValue (some n) 47 1 = 3 ∧ idxValue (some n) 47 3 = 0 := by decide +kernel

theorem test_witness_LoopEntry :
    let i : Instr := .loop ⟨0, false, 0⟩ 3 false 2 5
    let l : Loop := ⟨0, 24, 2, false, 1, 9⟩
    let on (ls : List Loop) (p : Ctx → Bool) : Bool := issuing (onWord .load 0x05C0_C805 (fun t => withLoops .load ls (withRegs .load someRegs t))) i p
    on [] (fun c => c.rd 2 == 2 && c.x.st == .running && c.k.isStream) = true ∧ on [l] (fun c => decide (c.pc + 4 * 5 < l.last)) = true ∧
    on [l, l, l, l] (fun c => c.x.loops.length == 4) = true ∧ on [{ l with last := 20 }] (fun c => decide (20 ≤ c.pc + 4 * 5)) = true ∧
    issuing (onWord .load 0x05C0_C005) (.loop ⟨0, false, 0⟩ 3 false 0 5) (fun c => c.rd 0 == 0) = true := by decide +kernel

theorem test_witness_Waits :
    let at' (t : Nat) (w : BitVec 32) : State := onWord .ctl w (fun x => withRegs .ctl someRegs { x with tick := t })
    issuing (at' 5 0x0A00_0005) (.waitt ⟨0, false⟩ 0 5) (fun c => c.t == 5) = true ∧ issuing (at' 6 0x0A00_0005) (.waitt ⟨0, false⟩ 0 5) (fun c => c.t == 6) = true ∧
    issuing (at' 524284 0x05E0_0801) (.waitd ⟨0, false, 0⟩ 2 1) (fun c => c.t + 1 + ((c.rd 2).toNat + 1) == 524288) = true ∧
    issuing (at' 524285 0x05E0_0801) (.waitd ⟨0, false, 0⟩ 2 1) (fun c => c.t + 1 + ((c.rd 2).toNat + 1) == 524289) = true ∧
    issuing (at' 524286 0x03D8_0200) (.drift ⟨0, false, 0⟩ 2) = true ∧ issuing (at' 0 0x03D8_0000) (.drift ⟨0, false, 0⟩ 0) = true ∧
    issuing (at' 0 0x03D8_0200) (.drift ⟨0, false, 0⟩ 2) (fun c => c.idle (c.rd 2).toNat) = true ∧
    issuing (onWord .ctl 0x03D8_0200 (fun x => withRegs .ctl someRegs { x with outst := [(1, 480)] })) (.drift ⟨0, false, 0⟩ 2)
      (fun c => !c.idle (c.rd 2).toNat) = true := by decide +kernel

theorem test_witness_Waits_end :
    let waiting (b : Nat) : State := onWord .ctl 0 (fun t => { t with ct := { t.ct with st := .waiting, base := b } })
    ((waiting 9).region 0).pick = some (9, .waitEnd 0 .ctl) ∧ ((waiting 524288).region 0).pick = some (524288, .bound 0 .ctl) := by decide +kernel

theorem test_witness_EndStream :
    let s (f : Tile → Tile) : State := onWord .ctl 0x00F8_0000 f
    issuing (s id) (.endStream ⟨0, false, 0⟩) (fun c => (List.range 8).all (fun q => c.tl.queue q == []) && c.tl.ld.st == .ended &&
      c.tl.ex.st == .ended && c.tl.st.st == .ended && c.run.stop == none) = true ∧
    issuing (s (fun t => { t with ld := seedStream .load 0 })) (.endStream ⟨0, false, 0⟩) (fun c => c.tl.ld.st != .ended) = true ∧
    issuing (s (fun t => t.setQueue 7 [⟨⟨0, 0, 0⟩, ⟨0, .exec, 0, 0, 0, false⟩, 0, 0⟩])) (.endStream ⟨0, false, 0⟩) (fun c => c.tl.queue 7 != []) = true := by
  decide +kernel

/-! ## Scratchpad accesses -/

/-- `Names`, decided. -/
def namesB (r : Region) (sm : Seam) (i : Nat) (a : Access) (copy : Bool) (j off h : Nat) : Bool :=
  let dx := (a.va.extractLsb' 21 4).toInt
  let dy := (a.va.extractLsb' 25 4).toInt
  a.ok && decide (a.va.toNat / 2 ^ 29 = 0) && decide (off = a.va.toNat % 2 ^ 21) && decide (off < 0x180000) && decide (-8 < dx) &&
    decide (-8 < dy) && decide (h = dx.natAbs + dy.natAbs) && decide (h ≤ 7) &&
    decide (0 ≤ ((i % r.w : Nat) : Int) + dx ∧ ((i % r.w : Nat) : Int) + dx < r.w) &&
    decide (0 ≤ ((i / r.w : Nat) : Int) + dy ∧ ((i / r.w : Nat) : Int) + dy < r.h) &&
    decide ((j : Int) = (((i / r.w : Nat) : Int) + dy) * r.w + (((i % r.w : Nat) : Int) + dx)) && (!a.localOnly || h == 0) &&
    decide (off % a.align = 0) && decide (off / 32768 = (off + (a.n - 1)) / 32768) &&
    decide (sm.side (i % r.w) (i / r.w) = sm.side (j % r.w) (j / r.w)) &&
    (match r.tiles[j]? with
     | some t => t.isCopy (off / 32768) == copy
     | none => false)

theorem names_of (r : Region) (sm : Seam) (i : Nat) (a : Access) (copy : Bool) (j off h : Nat)
    (hn : namesB r sm i a copy j off h = true) : Names r sm i a copy j off h := by
  simp only [namesB, Bool.and_eq_true, decide_eq_true_eq, Bool.or_eq_true, Bool.not_eq_true', beq_iff_eq] at hn
  obtain ⟨⟨⟨⟨⟨⟨⟨⟨⟨⟨⟨⟨⟨⟨⟨h1, h2⟩, h3⟩, h4⟩, h5⟩, h6⟩, h7⟩, h8⟩, h9⟩, h10⟩, h11⟩, h12⟩, h13⟩, h14⟩, h15⟩, h16⟩ := hn
  refine ⟨h1, h2, h3, h4, h5, h6, h7, h8, h9, h10, h11, fun hl => ?_, h13, h14, h15, ?_⟩
  · cases h12 with
    | inl h12 => rw [hl] at h12; cases h12
    | inr h12 => exact h12
  · split at h16
    · rename_i t ht
      exact ⟨t, ht, beq_iff_eq.1 h16⟩
    · cases h16

/-- An address that breaks its alignment names nothing. -/
theorem not_names_of (r : Region) (sm : Seam) (i : Nat) (a : Access) (copy : Bool) (j off h : Nat)
    (hn : a.va.toNat % 2 ^ 21 % a.align ≠ 0) : ¬ Names r sm i a copy j off h := fun hw => hn (hw.offset ▸ hw.aligned)

/-- Registers of the access tests: s7 = 0x40, s8 = 64, s9 = 0x20, s10 = 0x40 of the tile to the east, s11 = 0x8000. -/
def accRegs : Regs := [(7, 0x40), (8, 64), (9, 0x20), (10, 0x0020_0040), (11, 0x8000)]

/-- A region of two tiles side by side. -/
def twoTiles (r : Region) : Region := { r with w := 2, tiles := r.tiles ++ [{}] }

/-- The first and the last line of the scratchpad, seven hops, and a corner of a region of 8 by 8 tiles (06 R103, R104). -/
theorem test_witness_ScratchpadAddresses :
    let r : Region := { w := 8, h := 8, tiles := List.replicate 64 {} }
    namesB r {} 0 ⟨0, false, 64, 512, true⟩ false 0 0 0 = true ∧ namesB r {} 0 ⟨0x17FFC0, false, 64, 64, true⟩ false 0 0x17FFC0 0 = true ∧
    namesB r {} 0 ⟨7 * 2 ^ 21, false, 64, 64, true⟩ false 7 0 7 = true ∧ namesB r {} 63 ⟨12 * 2 ^ 21 + 13 * 2 ^ 25 + 8, false, 8, 8, true⟩ false 35 8 7 = true ∧
    namesB r { axis := 1, pos := 4, lat := 30 } 3 ⟨2 ^ 21, false, 64, 64, true⟩ false 4 0 1 = false ∧
    namesB r {} 0 ⟨0x180000, false, 64, 64, true⟩ false 0 0x180000 0 = false ∧
    r.spad {} 0 (7 * 2 ^ 21) false 64 64 false = some (7, 0, 7) ∧ r.spad {} 0 (8 * 2 ^ 21) false 64 64 false = none := by decide +kernel

/-- A word that issues on a tile with the access registers and whose access names an offset. -/
def naming (k : SeqKind) (w : BitVec 32) (i : Instr) (acc : Ctx → Access) (j off h : Nat) (f : Tile → Tile := id) : Bool :=
  issuing (onWord k w (fun t => f (withRegs k accRegs t)) twoTiles) i
    (fun c => namesB c.r c.run.img.seam c.tile (acc c) false j off h)

theorem test_witness_ScratchpadFaults :
    issuing (onWord .load 0x0100_1900 (withRegs .load accRegs)) (.ldq ⟨0, false, 0⟩ 1 9)
      (fun c => (accesses c.rd (.ldq ⟨0, false, 0⟩ 1 9)).map (fun a => a.va.toNat % 2 ^ 21 % a.align) == [0x20]) = true ∧
    issuing (onWord .load 0x0C0F_0000 (fun t => withForm .load 0x0900_0000_0000_0000_0000_0000_0009_0007 (withRegs .load accRegs t)))
      (.gathp ⟨0, false, 0, 15, 0⟩ 0 0 7 9) (fun c => namesB c.r {} 0 ⟨c.rd 7, true, 64, 1024, true⟩ false 0 0x40 0 &&
        (accesses c.rd (.gathp ⟨0, false, 0, 15, 0⟩ 0 0 7 9)).map (fun a => a.va.toNat % 2 ^ 21 % a.align) == [0, 0x20]) = true := by decide +kernel

theorem test_witness_ScratchpadLoads :
    naming .load 0x0100_1A00 (.ldq ⟨0, false, 0⟩ 1 10) (fun c => ⟨c.rd 10, false, 64, 512, true⟩) 1 0x40 1 = true ∧
    naming .load 0x0110_2700 (.ldb ⟨0, false, 0⟩ 2 7) (fun c => ⟨c.rd 7, false, 64, 64, true⟩) 0 0x40 0 = true ∧
    naming .load 0x0108_0780 (.ldt ⟨0, false, 0⟩ 0 7 8) (fun c => blockAccess (c.rd 7) (c.rd 8)) 0 0x40 0 = true ∧
    naming .load 0x0118_0780 (.ldg ⟨0, false, 0⟩ 0 7 8) (fun c => ⟨c.rd 8, true, 64, 64, true⟩) 0 0x40 0 = true ∧
    naming .load 0x0128_9A00 (.ldx ⟨0, false, 0⟩ 9 10) (fun c => ⟨c.rd 10, false, 8, 8, true⟩) 1 0x40 1 = true ∧
    naming .load 0x0622_1C02 (.ldxo ⟨0, false, 0⟩ 8 7 2) (fun c => ⟨eightAt (c.rd 7) 2, false, 8, 8, true⟩) 0 0x50 0 = true ∧
    naming .load 0x0600_1C3F (.formld ⟨0, false, 0⟩ 63 7) (fun c => ⟨c.rd 7, true, 16, 16, true⟩) 0 0x40 0 = true ∧
    naming .load 0x0C0F_0000 (.gathp ⟨0, false, 0, 15, 0⟩ 0 0 7 11) (fun c => ⟨c.rd 11, true, 64, 256, true⟩) 0 0x8000 0
      (withForm .load 0x0900_0000_0000_0000_0000_0000_000B_0007) = true ∧
    naming .load 0x0C0F_0000 (.lstrm ⟨0, false, 0, 15, 0⟩ 0 0 7 16 1) (fun c => ⟨c.rd 7, false, 64, 512, true⟩) 0 0x40 0
      (withForm .load 0x0100_0000_0000_0000_0000_0001_0010_0007) = true ∧
    issuing (onWord .load 0x0C0F_0000 (fun t => withForm .load 0x0100_0000_0000_0000_0000_0010_FFFF_000B (withRegs .load ((12, 0x80000) :: accRegs) t)))
      (.lstrm ⟨0, false, 0, 15, 0⟩ 0 0 11 0xFFFF 16) (fun c =>
        !((runAccess (c.rd 11) 0xFFFF 16 512).all (fun y => namesB c.r {} 0 y false 0 y.va.toNat 0))) = true ∧
    issuing (onWord .load 0x0C0F_0000 (fun t => withForm .load 0x0100_0000_0000_0000_0000_0010_0010_000B (withRegs .load accRegs t)))
      (.lstrm ⟨0, false, 0, 15, 0⟩ 0 0 11 16 16) (fun c =>
        (runAccess (c.rd 11) 16 16 512).all (fun y => namesB c.r {} 0 y false 0 y.va.toNat 0)) = true := by decide +kernel

/-- A queue entry of a tag, pushed by a word of the execute stream at tick 0. -/
def slotOf (tag : BitVec 4) : QSlot := ⟨⟨0, 0, tag⟩, ⟨0, .exec, 0, 0, 0, false⟩, 0, 0⟩

theorem test_witness_ScratchpadStores :
    let line (c : Ctx) : Access := ⟨c.rd 7, false, 64, 64, true⟩
    let full (tag : BitVec 4) (t : Tile) : Tile := t.setQueue 4 [slotOf tag]
    naming .store 0x0180_0700 (.stq ⟨0, false, 0⟩ 0 7) line 0 0x40 0 = true ∧ naming .store 0x0180_0700 (.stq ⟨0, false, 0⟩ 0 7) line 0 0x40 0 (full 0) = true ∧
    naming .store 0x0188_0780 (.stt ⟨0, false, 0⟩ 0 7 8) (fun c => blockAccess (c.rd 7) (c.rd 8)) 0 0x40 0 (full 3) = true ∧
    naming .store 0x0188_0780 (.stt ⟨0, false, 0⟩ 0 7 8) (fun c => blockAccess (c.rd 7) (c.rd 8)) 0 0x40 0 (full 9) = true ∧
    naming .store 0x01B8_0870 (.scat ⟨0, false, 0⟩ 0 8 7) (fun c => ⟨c.rd 7, true, 64, 64, true⟩) 0 0x40 0 (full 0) = true ∧
    naming .store 0x0198_8700 (.stx ⟨0, false, 0⟩ 8 7) (fun c => ⟨c.rd 7, false, 8, 8, true⟩) 0 0x40 0 = true ∧
    naming .store 0x0642_1FFF (.stxo ⟨0, false, 0⟩ 8 7 0x3FF) (fun c => ⟨eightAt (c.rd 7) 0x3FF, false, 8, 8, true⟩) 0 0x38 0 = true ∧
    naming .store 0x0C0F_0000 (.sstrm ⟨0, false, 0, 15, 0⟩ 0 0 7 16 2) line 0 0x40 0
      (fun t => full 0 (withForm .store 0x0200_0000_0000_0000_0000_0002_0010_0007 t)) = true ∧
    issuing (onWord .store 0x0C0F_0000 (fun t => withForm .store 0x0200_0000_0000_0000_0000_0010_0010_0007 (withRegs .store accRegs t)))
      (.sstrm ⟨0, false, 0, 15, 0⟩ 0 0 7 16 16) (fun c =>
        (runAccess (c.rd 7) 16 16 64).all (fun y => namesB c.r {} 0 y false 0 y.va.toNat 0) && c.tl.queue 4 == []) = true := by decide +kernel

/-- Line 1 of a scratchpad of INT32 banks: element j is j. -/
def countLine : BitVec 512 := BitVec.ofNat 512 ((List.range 16).foldl (fun n j => n + j * 2 ^ (32 * j)) 0)

/-- A tile whose line 1 holds the numbers 0 to 15. -/
def countTile : Tile := ({ banks := [(0, 9)] } : Tile).setLine 1 countLine 0

/-- LDX of the eight bytes at 0x48: elements 2 and 3; LDT with every line of the block the same: element 16j + i is j (06 R118, R120). -/
theorem test_witness_LoadedEntries :
    (BankRd.ldx 3 0x48 5).take countTile 9 0 = some [(5, .reg 3 0x0000_0003_0000_0002)] ∧
    ((BankRd.ldb 0 0x40 9).take countTile 9 0).isSome = true ∧ ((BankRd.ldq 0 0x7FC0 9).take countTile 9 0) = none ∧
    (BankRd.ldt 0 0x40 64 9).take countTile 3 0 = none ∧ ((BankRd.ldt 0 0x40 64 9).take countTile 9 0).isSome = true ∧
    (BankRd.gathp 0 0 0x40 9).take countTile 1 0 = none ∧ ((BankRd.gathp 0 0 0x40 9).take countTile 9 0).isSome = true ∧
    tagScaled 5 = true ∧ tagScaled 9 = false ∧ ((BankRd.formld 63 0x40 9).take countTile 9 0).isSome = true ∧
    (BankRd.ldg 0 [0x40, 0x80] 9).addrOk countTile 9 = true ∧ (BankRd.ldg 0 [0x40, 0x180000] 9).addrOk countTile 9 = false := by decide +kernel

/-- The premises of StoredBytes for a write. -/
def storable (w : BankWr) (t : Tile) : Bool :=
  Memory.wf t.spad && Memory.wf t.side && (w.put t).isSome &&
    (w.spans t).all (fun x => decide (x.1 + x.2 ≤ 0x180000 ∧ x.1 % 8 = 0 ∧ (x.1 % 64 = 0 ∨ x.2 = 8)))

/-- A store of an entry of the bank's own format, of FP32 into a BF16 bank and into a RAW bank, STT, SCAT, STX at the last eight bytes and RECV. -/
theorem test_witness_StoredBytes :
    let bf16 : Tile := { banks := [(0, 1)] }
    let ent (tag : BitVec 4) : QEntry := ⟨BitVec.allOnes 8192, 0, tag⟩
    storable (.stq 0x40 (ent 1)) bf16 = true ∧ storable (.stq 0x40 (ent 5)) {} = true ∧ storable (.stq 0x40 (ent 0)) bf16 = true ∧
    storable (.stt 0x40 64 (ent 9)) {} = true ∧ storable (.scat [0x40, 0x80, 0x40] (ent 1)) bf16 = true ∧
    storable (.stx 0x17FFF8 7) {} = true ∧ storable (.recv 0x40 countLine) {} = true := by decide +kernel

/-- STX stores its eight bytes, least significant first (06 R127; 00). -/
theorem test_stx_bytes : ((BankWr.stx 0x48 0x0807_0605_0403_0201).put {}).map (fun t => (List.range 10).map (fun k => t.byteAt (0x47 + k))) =
    some [0, 1, 2, 3, 4, 5, 6, 7, 8, 0] := by decide +kernel

/-- A tile whose effect is due and which sees ports that are already claimed. -/
def withPorts (ps : List (Nat × Nat × Nat × Bool)) (r : Region) : Region := withRun (fun run => { run with ports := ps }) r

theorem test_witness_BankAccess_reads :
    let due (b : BankRd) (drop : Bool) (g : Region → Region) (p : Run → Tile → Bool) : Bool :=
      let s := onEff .load (.bankRd b drop) id g
      fallsDue s (dueAt5 .load (.bankRd b drop)) 5 &&
        (match (s.region 0).run, (s.region 0).tiles[0]? with
         | some run, some t => b.addrOk t (t.fmt b.fmtBank) && (b.banks (t.fmt b.fmtBank)).Nodup && p run t
         | _, _ => false)
    let free (b : BankRd) (run : Run) (t : Tile) : Bool := (b.banks (t.fmt b.fmtBank)).all (fun n => !run.ports.contains (0, n, 5, false))
    due (.ldq 0 0x40 9) false id (fun run t => free (.ldq 0 0x40 9) run t && ((BankRd.ldq 0 0x40 9).take t (t.fmt 0) 0).isSome) = true ∧
    due (.ldx 3 0x40 9) true (withPorts [(0, 0, 5, true)]) (fun run t => free (.ldx 3 0x40 9) run t && ((BankRd.ldx 3 0x40 9).take t (t.fmt 0) 0).isSome) = true ∧
    due (.send 7 0x40) false (withRun (fun run => { run with img := { run.img with circs := [⟨7, 2, 3, 0, 0, 0, 0, false, 0⟩] } }))
      (fun run t => free (.send 7 0x40) run t && (run.img.circ 7).isSome) = true ∧
    due (.ldx 3 0x40 9) false (withPorts [(0, 0, 5, false)]) (fun run t => (BankRd.ldx 3 0x40 9).banks (t.fmt 0) == [0] && run.ports.contains (0, 0, 5, false)) = true := by
  decide +kernel

theorem test_witness_BankAccess_writes :
    let due (w : BankWr) (t : Tile) (g : Region → Region) (some' free : Bool) : Bool :=
      let s := onEff .store (.bankWr w) (fun x => { x with banks := t.banks }) g
      fallsDue s (dueAt5 .store (.bankWr w)) 5 && w.banks.Nodup &&
        (match (s.region 0).run, (s.region 0).tiles[0]? with
         | some run, some t => (w.put t).isSome == some' && (w.banks.all (fun n => !run.ports.contains (0, n, 5, true))) == free
         | _, _ => false)
    due (.stx 0x40 7) {} id true true = true ∧ due (.stt 0x40 64 (slotOf 9).ent) { banks := [(0, 1)] } id false true = true ∧
    due (.recv 0x40 countLine) {} (withPorts [(0, 0, 5, true)]) true false = true ∧ (BankWr.recv 0x40 countLine).banks = [0] := by decide +kernel

/-! ## Device memory from a stream -/

/-- `Timed`, decided. -/
def timedB (s : State) (va : Word) (align : Nat) : Bool :=
  va.getLsbD 56 && decide (va.toNat / 2 ^ 57 = 0) && decide (va.toNat / 2 ^ 49 % 128 / 2 = s.time.member) && decide (va.toNat % align = 0)

theorem timed_of (s : State) (va : Word) (align : Nat) (h : timedB s va align = true) : Timed s va align := by
  simp only [timedB, Bool.and_eq_true, decide_eq_true_eq] at h
  exact ⟨h.1.1.1, h.1.1.2, h.1.2, h.2⟩

/-- Registers of the device tests: s7 the first byte of the device half, s8 its second KiB, s9 32 bytes into it, s10 = 5, s11 = 0. -/
def devRegs : Regs := [(7, 0x0100_0000_0000_0000), (8, 0x0100_0000_0000_0400), (9, 0x0100_0000_0000_0020), (10, 5)]

/-- A word on the device registers, with changes to the tile and the running step. -/
def onDev (k : SeqKind) (w : BitVec 32) (f : Tile → Tile := id) (g : Run → Run := id) : State :=
  onWord k w (fun t => f (withRegs k devRegs t)) (withRun g)

/-- A step that began with the first 2 MiB sealed. -/
def sealedRun (run : Run) : Run := { run with sealed0 := [(0x0100_0000_0000_0000, 0x20_0000)] }

theorem test_witness_DeviceAccess_loads :
    let on (w : BitVec 32) (i : Instr) (p : State → Ctx → Bool) : Bool := issuing (onDev .load w) i (p (onDev .load w))
    on 0x0120_2709 (.ldm ⟨0, false, 0⟩ 9 2 7 0) (fun s c => timedB s (c.rd 7) 1024) = true ∧
    on 0x0120_2783 (.ldm ⟨0, false, 0⟩ 3 2 7 8) (fun s c => timedB s (c.rd 7) 1024 && timedB s (c.rd 8) 128) = true ∧
    on 0x0120_2909 (.ldm ⟨0, false, 0⟩ 9 2 9 0) (fun s c => !timedB s (c.rd 9) 1024) = true ∧
    on 0x0130_C900 (.ldxm ⟨0, false, 0⟩ 12 9) (fun s c => timedB s (c.rd 9) 8) = true ∧
    on 0x0130_CA00 (.ldxm ⟨0, false, 0⟩ 12 10) (fun s c => !timedB s (c.rd 10) 8) = true := by decide +kernel

/-- `Ctx.unsealed`, decided. -/
def unsealedB (c : Ctx) (lines : List Word) : Bool :=
  lines.all (fun va => c.run.sealed0.all (fun x => decide (x.2.toNat = 0 ∨ va.toNat / 64 * 64 + 64 ≤ x.1.toNat ∨ x.1.toNat + x.2.toNat ≤ va.toNat / 64 * 64)))

theorem test_witness_DeviceAccess_stores :
    let stm (a b : BitVec 4) : Instr := .stm ⟨0, false, 0⟩ 0 a b
    let full (tag : BitVec 4) (t : Tile) : Tile := t.setQueue 4 [slotOf tag]
    issuing (onDev .store 0x0190_0900) (stm 9 0) (fun c => !timedB State.reset (c.rd 9) 512) = true ∧
    issuing (onDev .store 0x0190_0700 id sealedRun) (stm 7 0) (fun c => timedB State.reset (c.rd 7) 512 && !unsealedB c [c.rd 7]) = true ∧
    issuing (onDev .store 0x0190_0700) (stm 7 0) (fun c => unsealedB c [c.rd 7] && c.tl.queue 4 == []) = true ∧
    issuing (onDev .store 0x0190_0780 (full 0)) (stm 7 8) (fun c => timedB State.reset (c.rd 7) 1024 && unsealedB c [c.rd 7]) = true ∧
    issuing (onDev .store 0x0190_07A0 (full 3)) (stm 7 10) (fun c => tagScaled 3 && !timedB State.reset (c.rd 10) 128) = true ∧
    issuing (onDev .store 0x0190_0780 (full 3) (fun run => { run with sealed0 := [(0x0100_0000_0000_0400, 0x40)] })) (stm 7 8)
      (fun c => unsealedB c [c.rd 7] && !unsealedB c [c.rd 8]) = true ∧
    issuing (onDev .store 0x0190_0780 (fun t => { full 0 t with outst := [(4081, 480)] })) (stm 7 8)
      (fun c => decide (4096 < c.tl.outstanding c.t + 16)) = true := by decide +kernel

theorem test_witness_DeviceAccess_words :
    [(0x01A0_8900, Instr.stxm ⟨0, false, 0⟩ 8 9, 8), (0x01C0_0780, .atom ⟨0, false, 0⟩ .add64 7 8, 8), (0x01C0_0788, .atom ⟨0, false, 0⟩ .add128 7 8, 16),
     (0x01C8_97A2, .atomf ⟨0, false, 0⟩ .cas64 9 7 10, 8)].all (fun x =>
      let a : BitVec 4 := if x.1 = 0x01A0_8900 then 9 else 7
      issuing (onDev .store x.1) x.2.1 (fun c => timedB State.reset (c.rd a) x.2.2 && unsealedB c [c.rd a]) &&
      issuing (onDev .store x.1 id sealedRun) x.2.1 (fun c => !unsealedB c [c.rd a]) &&
      issuing (onDev .store x.1 (withRegs .store [(7, 4), (9, 4)])) x.2.1 (fun c => !timedB State.reset (c.rd a) x.2.2)) = true := by decide +kernel

theorem test_witness_Requests : (onDev .load 0x0130_C900 (fun t => { t with outst := [(4095, 480)] })).ctx.map (fun c => c.tl.outstanding c.t) = some 4095 ∧
    (onDev .load 0x0130_C900 (fun t => { t with outst := [(4096, 480)] })).ctx.map (fun c => c.tl.outstanding c.t) = some 4096 := by decide +kernel

/-- Atomics by hand: a sum that wraps, signed and unsigned minima, a carry into the upper half of ADD128, a swap and a compare that hits (06 R134). -/
theorem test_atomics :
    AtomOp.newValue .add64 (-1) 2 = 1 ∧ AtomOp.newValue .min64 (-1) 2 = -1 ∧ AtomOp.newValue .minu64 (-1) 2 = 2 ∧ AtomOp.newValue .maxu64 (-1) 2 = -1 ∧
    AtomfOp.newValue .swap64 5 9 0 = 9 ∧ AtomfOp.newValue .cas64 5 5 9 = 9 ∧ AtomfOp.newValue .cas64 5 6 9 = 5 ∧
    (ChanOp.atom .add128 16 1 0).store (BitVec.ofNat 512 ((2 ^ 64 - 1) * 2 ^ 128)) = some (16, 16, 2 ^ 64) := by decide +kernel

/-- Stamps of R285's table: a read after a write of the same task, of another task, a write after a read, an atomic beside its own kind. -/
theorem test_snapshot :
    judge (stampOf 5 1 0 3) 5 0 0 3 = some (stampOf 5 1 0 3) ∧ judge (stampOf 5 1 0 3) 5 0 0 4 = none ∧ judge (stampOf 5 0 0 3) 5 1 0 3 = none ∧
    judge (stampOf 5 2 8 3) 5 2 8 4 = some (stampOf 5 2 8 3) ∧ judge (stampOf 5 2 8 3) 5 2 7 4 = none ∧ judge (stampOf 4 1 0 3) 5 0 0 4 = some (stampOf 5 0 0 4) ∧
    judge (stampOf 524287 1 0 127) 524287 1 0 127 = some (stampOf 524287 1 0 127) := by decide +kernel

/-- A line of the first page of the device half, and an entry that maps the page. -/
def devVa : Word := 0x0100_0000_0000_0040

/-- A loaded entry of the first 2 MiB. -/
def devTlb (w : Bool) : Tlb := ⟨0x0100_0000_0000_0000, false, 256, 0, w, false⟩

/-- An access to a line at its channel tick, with the entries loaded and other changes to the running step. -/
def onChan (op : ChanOp) (tlb : List Tlb) (va : Word := devVa) (g : Run → Run := id) : State :=
  onEff .load (.chan 0 0 va op) id (withRun (fun run => g { run with img := { run.img with tlb := tlb }, reqs := [⟨0, ⟨0, .load, 0, 0, 0, false⟩, va, .reg 3 0, 1, 1, [], none, false, false⟩] }))

/-- The access falls due and what it sees meets `p`. -/
def chanDue (op : ChanOp) (tlb : List Tlb) (va : Word) (g : Run → Run) (p : State → Run → Bool) : Bool :=
  let s := onChan op tlb va g
  fallsDue s (dueAt5 .load (.chan 0 0 va op)) 5 && (match (s.region 0).run with
    | some run => p s run && (s.region 0).chanOf run.img.foot 0 va == 0
    | none => false)

/-- The region with its running step marked as it is, its one tile held. -/
def marked (r : Region) : Region :=
  match r.run with
  | some run => { r with
      tiles := r.tiles.map (fun t => { t with hold := .word 0 }),
      mark := some { tiles := r.tiles, run := run, colls := [], collCount := [], ctrs := r.ctrs, logged := 0 } }
  | none => r

/-- A copy of tile 0 that has read the first KiB and has not been acquired. -/
def openCopy : CopyOp :=
  ⟨0, 0, 0, .va 0x0100_0000_0000_0000, .spad 0 0, 1024, 1024, false, 0, 1, none, none, .started, [], [], none⟩

theorem test_witness_ChannelAccess :
    let wr : ChanOp := .write 0 64 7
    chanDue .read [devTlb false] devVa (fun run => { run with chans := [⟨0, 5, 0, 9, true⟩] }) (fun s run =>
      run.chans.contains ⟨0, 5, 0, 9, true⟩ && (s.region 0).lateClaim run 0 (dueAt5 .load (.chan 0 0 devVa .read)) devVa .read == []) = true ∧
    (let s := (onChan .read [devTlb false] devVa (fun run => { run with chans := [⟨0, 6, 1, devVa.toNat / 64, false⟩] }))
     let s := s.setRegion 0 { marked (s.region 0) with
       w := 2, tiles := (marked (s.region 0)).tiles.map (fun t => { t with tick := 4 })
       mark := (marked (s.region 0)).mark.map (fun m => { m with tiles := m.tiles ++ [{ tick := 4 }], tried := [⟨1, 6, [⟨.va devVa, 64, true⟩], []⟩] }) }
     fallsDue s (dueAt5 .load (.chan 0 0 devVa .read)) 5 && (match (fallen s 0 (dueAt5 .load (.chan 0 0 devVa .read)) 5).region 0 with
       | r => match r.run with
         | some run => r.lateClaim run 0 (dueAt5 .load (.chan 0 0 devVa .read)) devVa .read == [⟨1, 6, 0, 0, none⟩]
         | none => false)) = true ∧
    chanDue .read [] devVa id (fun s run => s.inHome 0 devVa && (tlbFind run.img.tlb devVa).isNone) = true ∧
    chanDue .read [devTlb false] 0x0102_0000_0000_0040 id (fun s _ => !s.inHome 0 0x0102_0000_0000_0040) = true ∧
    chanDue wr [devTlb false] devVa id (fun s run => s.inHome 0 devVa && (tlbFind run.img.tlb devVa) == some (devTlb false) && wr.writes) = true ∧
    chanDue .read [devTlb false] devVa (fun run => { run with
        copies := [openCopy], effs := run.effs.map (fun e => { e with org := { e.org with issue := 0 } }) })
      (fun s run => (s.region 0).unacquired run 0 0 5 devVa && !(s.region 0).unacquired run 0 0 0 devVa) = true ∧
    chanDue .read [devTlb false] devVa id (fun s run => judgeAt run.sealed0 devVa (tabGet 0 s.mem.stamps 1) run.epoch 0 0 0 == some (stampOf 1 0 0 0) &&
      tabGet .none s.mem.ecc 1 == .none && tabWf 0 s.mem.stamps) = true ∧
    judgeAt [] devVa (stampOf 1 1 0 9) 1 0 0 0 = none := by decide +kernel

/-- The answer of request 0, which meets `p`. -/
def answerDue (q : Req) (p : Req → Bool) : Bool :=
  let s := onEff .load (.resp 0 true) id (withRun (fun run => { run with reqs := [q] }))
  fallsDue s (dueAt5 .load (.resp 0 true)) 5 && p q && q.id == 0

theorem test_witness_MemoryResponse :
    let q : Req := ⟨0, ⟨0, .load, 0, 0, 0, false⟩, devVa, .none, 1, 1, [(0, 7)], none, false, false⟩
    answerDue { q with dropped := true } (·.dropped) = true ∧ answerDue { q with fail := some (3, 0) } (fun q => !q.dropped) = true ∧
    answerDue q (fun q => q.dest == .none) = true ∧ answerDue { q with dest := .reg 3 8 } (fun q => q.got != []) = true ∧
    answerDue { q with dest := .queue 2 9, stopped := true } (·.stopped) = true ∧ answerDue { q with dest := .queue 2 9 } (fun q => !q.stopped) = true := by
  decide +kernel

/-- An entry of one payload line with no scale lines, and with them: 0x60 in every scale of a scaled tag, or the lines that came (06 R133). -/
theorem test_answer_entry :
    let q : Req := ⟨0, ⟨0, .load, 0, 0, 0, false⟩, devVa, .queue 2 3, 1, 1, [(0, 7), (1, 9)], none, false, false⟩
    slice (q.entry 3).side 1016 8 = 0x60 ∧ slice (q.entry 9).side 0 8 = 0 ∧ ({ q with nline := 3 }.entry 3).sideLine 0 = 9 ∧ (q.entry 3).line 0 = 7 := by
  decide +kernel

/-! ## Queues and circuits -/

theorem test_witness_QueueWords :
    let full (q n : Nat) (t : Tile) : Tile := t.setQueue q (List.replicate n (slotOf 9))
    issuing (onWord .exec 0x0310_2000) (.vpop ⟨0, false, 0⟩ 2 0 0) (fun c => c.tl.queue 0 == []) = true ∧
    issuing (onWord .exec 0x0310_2007 (full 0 1)) (.vpop ⟨0, false, 0⟩ 2 0 7) (fun c => c.tl.queue 0 != []) = true ∧
    issuing (onWord .exec 0x0318_1475) (.vpush ⟨0, false, 0⟩ .e2m1 1 4 7) = true ∧
    issuing (onWord .exec 0x0320_0210 (full 2 15)) (.qdrop ⟨0, false, 0⟩ 2 16) (fun c => (c.tl.queue 2).length == 15) = true ∧
    issuing (onWord .exec 0x0320_0210 (full 2 16)) (.qdrop ⟨0, false, 0⟩ 2 16) (fun c => (c.tl.queue 2).length == 16) = true ∧
    issuing (onWord .exec 0x0320_0200 (full 2 16)) (.qdrop ⟨0, false, 0⟩ 2 0) = true ∧
    issuing (onWord .store 0x01D0_1001) (.sstop ⟨0, false, 0⟩ 1 1) (fun c => c.tl.queue 5 == []) = true ∧
    issuing (onWord .store 0x01D0_1001 (full 5 1)) (.sstop ⟨0, false, 0⟩ 1 1) (fun c => (c.tl.queue 5).length == 1) = true ∧
    issuing (onWord .load 0x0148_3000 id (withRun (fun run => { run with effs := [dueAt5 .load (.push 3 (slotOf 9).ent 0)] }))) (.lstop ⟨0, false, 0⟩ 3)
      (fun c => c.run.effs.all (fun e => e.act.pushes 3)) = true := by decide +kernel

theorem test_witness_QueueAppend :
    let on (act : Act) (n : Nat) (armed : Bool) : Bool :=
      let s := onEff .load act (fun t => { t.setQueue 2 (List.replicate n (slotOf 9)) with armed := armed })
      fallsDue s (dueAt5 .load act) 5 && (s.region 0).tiles.all (fun t => (t.queue 2).length == n && t.armed == armed)
    let push : Act := .push 2 (slotOf 9).ent 0
    on push 0 true = true ∧ on push 15 false = true ∧ on push 16 false = true ∧ on (.trim 2) 16 false = true ∧ on (.trim 2) 17 false = true := by
  decide +kernel

/-- Circuit 7 from tile 0 to itself, period 4, slot 3; circuit 8 to no tile of its group. -/
def someCircs (run : Run) : Run :=
  { run with img := { run.img with circs := [⟨7, 2, 3, 0, 0, 0, 0, false, 0⟩, ⟨8, 0, 0, 0, 0, 0, 0, true, 1⟩, ⟨9, 2, 3, 1, 0, 0, 0, false, 0⟩] } }

/-- A word of a circuit waiting to depart. -/
def waitingWord : Eff := dueAt5 .store (.depart 7 0)

theorem test_witness_Circuits_words :
    let on (w : BitVec 32) (i : Instr) (n : Nat) (p : Ctx → Bool) : Bool :=
      issuing (onWord .store w (withRegs .store accRegs) (withRun (fun run => { someCircs run with effs := List.replicate n waitingWord }))) i p
    let free (c : Ctx) (n : Nat) : Bool := match c.run.img.circ n with
      | some x => x.src c.r.w == c.tile && decide ((c.run.waitingWords n).length < 4)
      | none => false
    on 0x01A8_0707 (.send ⟨0, false, 0⟩ 7 7) 3 (fun c => free c 7 && namesB c.r {} 0 ⟨c.rd 7, true, 64, 64, true⟩ false 0 0x40 0) = true ∧
    on 0x01A8_0907 (.send ⟨0, false, 0⟩ 7 9) 0 (fun c => free c 7 && (c.rd 9).toNat % 2 ^ 21 % 64 != 0) = true ∧
    on 0x01B0_0707 (.sendx ⟨0, false, 0⟩ 7 7) 0 (fun c => free c 7) = true ∧
    on 0x01B0_070A (.sendx ⟨0, false, 0⟩ 10 7) 0 (fun c => c.run.img.circ 10 == none) = true ∧
    on 0x01B0_0709 (.sendx ⟨0, false, 0⟩ 9 7) 0 (fun c => !free c 9) = true ∧ on 0x01A8_0707 (.send ⟨0, false, 0⟩ 7 7) 4 (fun c => !free c 7) = true := by
  decide +kernel

theorem test_witness_Circuits_receive :
    let arrives : Eff := { dueAt5 .store (.word 7 9 .loc) with due := 0 }
    let on (w : BitVec 32) (i : Instr) (es : List Eff) (p : Ctx → Bool) : Bool :=
      issuing (onWord .load w (withRegs .load accRegs) (withRun (fun run => { run with effs := es }))) i p
    on 0x0138_0707 (.recv ⟨0, false, 0⟩ 7 7) [arrives] (fun c => c.run.wordDue c.tile 7 c.t == some 9) = true ∧
    on 0x0140_9007 (.recvx ⟨0, false, 0⟩ 9 7) [arrives] (fun c => c.run.wordDue c.tile 7 c.t == some 9) = true ∧
    on 0x0140_9007 (.recvx ⟨0, false, 0⟩ 9 7) [] (fun c => c.run.wordDue c.tile 7 c.t == none) = true ∧
    on 0x0138_0707 (.recv ⟨0, false, 0⟩ 7 7) [] (fun c => c.run.wordDue c.tile 7 c.t == none && namesB c.r {} 0 ⟨c.rd 7, true, 64, 64, true⟩ false 0 0x40 0) = true := by
  decide +kernel

theorem test_witness_Circuits_events :
    let run : Run := someCircs { img := seedImg, epoch := 1 }
    run.img.circs.all (fun x => decide (x.slot < x.period)) = true ∧ (run.img.circ 7).isSome = true ∧
    (run.img.circs.map (fun x => x.dests run.img 1 1 == [])) = [false, true, false] ∧
    fallsDue (onEff .store (.depart 7 9) id (withRun someCircs)) (dueAt5 .store (.depart 7 9)) 5 = true ∧
    fallsDue (onEff .load (.word 7 9 .loc)) (dueAt5 .load (.word 7 9 .loc)) 5 = true ∧
    fallsDue (onEff .load (.word 7 9 .loc) (fun t => { t with ld := { t.ld with st := .faulted } })) (dueAt5 .load (.word 7 9 .loc)) 5 = true := by decide +kernel

/-- A word offered at tick 5 to slot 3 of period 4 departs at tick 7, and a second one at tick 11; the route's 2 ticks per link (13 R242, R247). -/
theorem test_departures :
    let x : Circ := ⟨7, 2, 3, 0, 0, 0, 0, false, 0⟩
    let run : Run := someCircs { img := seedImg, epoch := 1 }
    let one := run.offer x ⟨0, .store, 5, 0, 0, false⟩ 1 1 5 9
    one.effs.map (·.due) = [7] ∧ (one.offer x ⟨0, .store, 6, 0, 0, false⟩ 1 1 6 9).effs.map (·.due) = [7, 11] ∧ routeLat 16 {} 0 0 15 7 = 44 := by decide +kernel


/-- Two tiles: tile 0 stands at tick 5 and is held; tile 1's load stream issues its word at tick 7, and a line of its is due at tick `d`. -/
def besideHeld (d : Nat) (bars : List Bar) : Region :=
  let t0 : Tile := { ld := seedEnded, ex := seedEnded, st := seedEnded, ct := seedEnded, tick := 5, hold := .word 0 }
  let t1 : Tile := { t0 with ld := { st := .running, base := 7 }, hold := .none }
  let e : Eff := mkEff ⟨1, .load, 0, 0, 0, false⟩ d 1 (.chan 0 0 devVa .read)
  { seedRegion with w := 2, tiles := [t0, t1], bars := bars, run := some { img := seedImg, epoch := 1, effs := [e] } }

/-- By R27 a tile beside a held one goes on, unless it is due something from it, which a bar says; a channel judges no tick that the held tile
could still claim (05 R71, 06 R132). -/
theorem test_beside_held :
    (besideHeld 9 []).pick = some (7, .issue 1 .load) ∧ ((besideHeld 6 []).pick).map (·.1) = some 6 ∧ (besideHeld 9 [⟨1, 7, 0, 6, none⟩]).pick = none ∧
    (besideHeld 9 [⟨1, 7, 0, 5, none⟩]).pick = some (7, .issue 1 .load) := by decide +kernel

/-- Tile 1 has come to tick 9 beside the held tile 0, whose word stores to tile 1 at tick 8: the step goes back to its mark, and tile 1 holds
in turn before tick 8 (01 R13, 02 R27). -/
theorem test_goes_back :
    let r := besideHeld 999 []
    let late : Eff := mkEff ⟨0, .store, 6, 0, 0, false⟩ 8 1 (.bankWr (.stx 0x40 7))
    let on (es : List Eff) : State := State.reset.setRegion 0 { withRun (fun run => { run with effs := es }) (marked r) with
      tiles := r.tiles.map (fun t => { t with tick := 9 }) }
    ((on [late]).settle 0).region 0 = { marked r with
      tiles := r.tiles, bars := [⟨1, 8, 0, 7, none⟩],
      mark := (marked r).mark.map (fun m => { m with due := m.run.effs }) } ∧
    ((on []).settle 0).region 0 = (on []).region 0 := by decide +kernel

/-! ## The vector unit -/

theorem test_witness_VectorIssue_words :
    let on (x : BitVec 32 × Instr) : Bool := issuing (onWord .exec x.1) x.2 (fun c => (vectorOf c.rd x.2).isSome)
    words_vector_exec.all on = true ∧ (words_rows_and_masks_exec.filter on).length = 6 ∧ words_immediates_exec.all on = true ∧
    issuing (onWord .exec 0x0C0F_0000 (withForm .exec 0x0700_0000_0000_0000_0000_0000_0003_7654)) (.vtopk ⟨0, false, 0, 15, 0⟩ 0 .f32 3 4 5 6 7)
      (fun c => (vectorOf c.rd (.vtopk ⟨0, false, 0, 15, 0⟩ 0 .f32 3 4 5 6 7)).isSome) = true := by decide +kernel

/-- Operands of a vector word with destination t1, sources t2, t3, t4, every lane enabled. -/
def someEnv : VEnv :=
  { d := 1, a := 2, b := 3, c := 4, mask := BitVec.allOnes 512, x := 5, idx := 0, key := 0, ctr := 0, did := 0, lat := 4 }

theorem test_witness_VectorIssue_groups :
    let on (op : VOp) (g : Nat) : Bool := fallsDue (onEff .exec (.vec op someEnv g)) (dueAt5 .exec (.vec op someEnv g)) 5 &&
      (((onEff .exec (.vec op someEnv g)).region 0).tiles[0]?).isSome && ((onEff .exec (.vec op someEnv g)).region 0).run.isSome
    on (.add .f32) 1 = true ∧ on (.add .f32) 3 = true ∧ on (.trn .i8) 3 = true ∧ (VOp.trn .i8).isTrn = true := by decide +kernel

/-- The operations of each kind of VectorLanding, its rows in canonical form, and a mask that enables some lanes only. -/
theorem test_witness_VectorLanding : (VOp.add .f32).isTopk = false ∧ (VOp.mov .e4m3).isTopk = false ∧ (VOp.cvt false .rne .e2m1).isTopk = false ∧
    ETy.e2m1.isScaled = true ∧ (3 < 4) ∧
    (let t : Tile := { tick := 5, before := [(5, 17, 9), (4, 18, 9)] }
     t.before.all (fun x => x.1 != t.tick || x.2.1 != 18) = true ∧ t.before.all (fun x => x.1 != t.tick || x.2.1 != 17) = false) ∧ tabWf 0 ([(18, 9)] : List (Nat × BitVec 4096)) = true ∧ tabWf 0 ([] : List (Nat × BitVec 1024)) = true := by
  decide +kernel

/-- Lane results worked out by hand: a wrap, a signed minimum, the absolute value of the most negative number, the comparison d < b as signed and
unsigned lanes, a shift by more than the width (07 R144, R145). -/
theorem test_lanes :
    [laneOf (.add .i8) 0xFF 2 0, laneOf (.sub .u8) 1 2 0, laneOf (.mul .i8) 0x10 0x11 0, laneOf (.min .i8) 0x80 1 0, laneOf (.min .u8) 0x80 1 0,
      laneOf (.abs .i8) 0x80 0 0, laneOf (.neg .i8) 1 0 0, laneOf (.shl .u8) 0x81 9 0, laneOf (.sra .i8) 0x80 1 0, laneOf (.cmp .lt .i8) 0 1 0xFF,
      laneOf (.cmp .lt .u8) 0 1 0xFF, laneOf (.add .f32) 0x3F80_0000 0x4000_0000 0, laneOf (.fma .bf16) 0x4000 0x4040 0x3F80] =
    [some 1, some 0xFF, some 0x10, some 0x80, some 1, some 0x80, some 0xFF, some 2, some 0xC0, some 0xFF, some 0, some 0x4040_0000, some 0x40E0] := by
  decide +kernel

/-- Each clause of VectorLanes at the last lane of a row; a scan and a reduction over a present and an absent lane. -/
theorem test_witness_VectorLanes :
    511 < 4096 / (VOp.add .i8).dstTy.width ∧ (laneOf (.add .i8) 1 2 3).isSome = true ∧ 31 < 4096 / (VOp.trn .w96).dstTy.width ∧
    ETy.u32.isIN = true ∧ 127 < ETy.u32.lanes ∧ (ETy.isFL .i32) = false ∧
    elemAt (scanRow .add .u32 0b101 (1 + 2 * 2 ^ 32 + 4 * 2 ^ 64)) 32 2 = 5 ∧ elemAt (redRow .add .u32 0b101 (1 + 2 * 2 ^ 32 + 4 * 2 ^ 64)) 32 127 = 5 := by
  decide +kernel

/-- A tie in BF16: 257 lies between 256 and 258, whose codes are 0x4380 and 0x4381; 259 goes to 260 (04 R54, R55). -/
theorem test_nearest_even : (ETy.bf16.flt.map (fun f => [f.round .rne 0 false 257 1 0, f.round .rne 0 false 259 1 0])) = some [0x4380, 0x4382] ∧
    (ETy.bf16.flt.map (fun f => decide (0x4382 ≤ f.maxCode))) = some true := by decide +kernel

theorem test_witness_NearestEven : (ETy.e4m3.flt.map (fun f => f.round .rne 0 false 3 1 0 ≤ f.maxCode)) = some True := by
  simp only [Option.map_eq_some_iff, eq_iff_iff, iff_true]
  exact ⟨_, rfl, by decide +kernel⟩

/-- Masks and rows of the mask tests: p1 and p2, and row 0 of t3. -/
def someMasks (t : Tile) : Tile := { t with masks := [(1, 0b1100), (2, 0b1010)], rows := [(48, 0x7_0000_0001)] }

/-- The one effect of a word of the execute stream on the tile with masks. -/
def maskWord (w : BitVec 32) : List (Nat × Act) :=
  match decode .exec 0 w with
  | .ok i => inFlight (exec i (onWord .exec w someMasks))
  | .error _ => []

/-- PAND, POR, PXOR and PNOT of p1 and p2, PSET of a row with lanes 0 and 1 of F32 not zero, PCNT and PFIRST of p2, and of p1 (07 R149). -/
theorem test_masks :
    [0x0340_3120, 0x0348_3120, 0x0350_3120, 0x0358_4100, 0x0360_2300, 0x0368_7200, 0x0370_8200, 0x0370_8100].map maskWord =
    [[(1, .pmask 3 0b1000)], [(1, .pmask 3 0b1110)], [(1, .pmask 3 0b0110)], [(1, .pmask 4 (~~~ 0b1100))], [(2, .pmask 2 0b11)], [(2, .reg 7 2)],
      [(2, .reg 8 1)], [(2, .reg 8 2)]] := by decide +kernel

theorem test_witness_MaskWords : (words_rows_and_masks_exec.drop 8).all (fun x => issuing (onWord .exec x.1) x.2) = true := by decide +kernel

/-! ## The matrix array -/

/-- An accumulator addition of tile 0 that is due at tick 5. -/
def pendingAdd (m : Bool) (run : Run) : Run := { run with effs := [dueAt5 .exec (.mmaAdd m .i8 .i8 0 0 false 0 0 0 0)] }

/-- The matrix words with the array free and busy, with a K-block pending and not, and forms of one K-block and of sixteen. -/
theorem test_witness_MatrixWords :
    let on (w : BitVec 32) (i : Instr) (busy : Nat) (add : Option Bool) (form : BitVec 128) : Bool :=
      issuing (onWord .exec w (fun t => { withForm .exec form t with arrayBusy := busy })
        (withRun (fun run => match add with
          | some m => pendingAdd m run
          | none => run))) i
    on 0x0388_0123 (.mma ⟨0, false, 0⟩ .e4m3 0 1 2) 0 none 0 = true ∧ on 0x0388_0123 (.mma ⟨0, false, 0⟩ .e4m3 0 1 2) 1 none 0 = true ∧
    on 0x0C0F_0000 (.mmaForm p0 0 false 2 0 0 .e4m3 .e4m3 2 1) 0 none 0x0300_0000_0000_0000_0000_0002_0000_3321 = true ∧
    on 0x0C0F_0000 (.mmaForm p0 0 false 2 0 0 .e4m3 .e4m3 2 1) 9 none 0x0300_0000_0000_0000_0000_0002_0000_3321 = true ∧
    on 0x0390_6031 (.mread ⟨0, false, 0⟩ .bf16 6 0 3) 0 (some false) 0 = true ∧ on 0x0390_6131 (.mread ⟨0, false, 0⟩ .bf16 6 1 3) 0 (some false) 0 = true ∧
    on 0x0C0F_0000 (.mreadForm p0 0 .rne false 0 0xC000 0x3F80 0x3F00 1 .bf16 4) 0 (some false) 0x0400_0000_0000_0000_C000_3F80_3F00_0014 = true ∧
    on 0x0C0F_0000 (.mreadForm p0 0 .sr false 0 0x3F80 0x3F80 0x3F00 0 .bf16 7) 0 none 0x0408_0000_0000_0000_3F80_3F80_3F00_0017 = true ∧
    on 0x03A0_8000 (.mpush ⟨0, false, 0⟩ 8 0 0) 0 (some false) 0 = true ∧ on 0x03A0_8000 (.mpush ⟨0, false, 0⟩ 8 0 0) 0 (some true) 0 = true ∧
    on 0x03A8_7001 (.mstat ⟨0, false, 0⟩ 7 0 true) 0 (some false) 0 = true ∧ on 0x03A8_7000 (.mstat ⟨0, false, 0⟩ 7 0 false) 0 none 0 = true ∧
    on 0x0398_1850 (.maddw ⟨0, false, 0⟩ 1 8 5) 0 none 0 = true := by decide +kernel

/-- By hand: the INT8 products -1 · 2 + 3 · (-4) at (0, 0), in units of 2^-32; a sum that saturates at either end; MPUSH's sign extension (08 R164, R166,
R167, R176). -/
theorem test_matrix_values :
    (mmaIncs .i8 0x03FF 0 false (mmaCols .i8 0xFC02 0 0 0) 0).head? = some (some (-14 * 2 ^ 32)) ∧
    accStep (2 ^ 95 - 1) (some 1) = (2 ^ 95 - 1, true) ∧ accStep (2 ^ 95) (some (-1)) = (2 ^ 95, true) ∧ accStep (2 ^ 96 - 1) (some 3) = (2, false) ∧
    elemAt (pushRow (BitVec.ofNat 12288 (2 ^ 95)) 0).toNat 128 0 = 2 ^ 128 - 2 ^ 95 := by decide +kernel

theorem test_witness_MatrixValues : tabWf 0 ([(0, 1)] : List (Nat × BitVec 12288)) = true ∧ (ETy.i4 = ETy.i4 ∧ (ETy.i4 = .i8 ∨ ETy.i4 = .i4)) ∧
    ([1, 2, 3, 4] : List (BitVec 4096)).length = 4 ∧ 63 < 64 ∧ 31 < 32 ∧ ([1, 2, 3, 4] : List (BitVec 12288)).length = 4 ∧ ETy.bf16.lanes = 256 ∧
    ((ETy.bf16.val 0x7FC0).isNan = true ∧ (ETy.bf16.val 0xFF80).isInf = true ∧ (ETy.bf16.val 0x3F80).isNan = false ∧ (ETy.bf16.val 0x3F80).isInf = false) ∧
    (ETy.e5m2.isScaled = true ∧ ETy.e4m3.isScaled = true ∧ ETy.e5m2.width = ETy.e4m3.width ∧ ETy.e2m1.isScaled = true) := by decide +kernel

/-- Products of the scaled types: ordinary, infinite, of an infinity and 0, and of a NaN (08 R165). -/
theorem test_witness_MatrixValues_scaled :
    let p (a b : Nat) : Val := ((ETy.e5m2.val a).mul (scaleVal 0x60)).mul ((ETy.e4m3.val b).mul (scaleVal 0x60))
    [p 0x3C 0x38, p 0x7C 0x38, p 0x7C 0xB8, p 0x7C 0, p 0x7E 0x38].map (fun v => (v.isNan, v.isInf, v.sign)) =
      [(false, false, false), (false, true, false), (false, true, true), (true, false, false), (true, false, false)] := by decide +kernel

/-! ## What falls due -/

/-- Acts of every kind that RESULT_WRITEBACK carries, at the ends of their ranges. -/
def someActs : List Act := [.reg 0 9, .reg 15 9, .form 63 9, .rows [⟨255, 15, 9⟩] [(127, 9)], .pmask 0 9, .pmask 7 9, .ctrl 0x07 1, .ctrl 0x07 2, .ctrl 0x10 9,
  .ctrl 0x11 9, .ctrl 0x12 9, .ctrl 0x01 9, .driftw, .key 9, .fmt 47 6, .mclr true, .msatClr false, .msatClr true, .mread ⟨.f32, .rne, 0, 0, 0, 0, 0, 0, 0⟩ 15 3 [],
  .maddw true 60 [1, 2, 3, 4], .front 63 9, .fault 3 0 7]

theorem test_witness_Landings :
    (someActs.all (fun a => fallsDue (onEff .exec a) (dueAt5 .exec a) 5)) = true ∧
    (fallsDue (onEff .exec (.mmaAdd true .i8 .i8 1 0 false 1 0 0 0)) (dueAt5 .exec (.mmaAdd true .i8 .i8 1 0 false 1 0 0 0)) 5) = true ∧
    ((onEff .exec (.front 63 9)).region 0).tiles.length = 1 ∧ tabWf {} ((onEff .exec (.front 63 9)).region 0).ctrs = true ∧
    tabWf 0x0F ([] : List (Nat × BitVec 5)) = true ∧ tabWf 0 ([] : List (Nat × BitVec 4096)) = true := by decide +kernel

/-- A masked write keeps the lanes that its mask leaves out, and s0 keeps no write (05 R75; 07 R138). -/
theorem test_landings :
    let t : Tile := { rows := [(17, 0xFF)] }
    (t.putRows [⟨17, 0x0F, 0x55⟩] []).row 1 1 = 0xF5 ∧ ((t.land .exec (.reg 0 9)).ex.s == []) = true ∧ (t.land .exec (.reg 3 9)).ex.s = [(3, 9)] := by
  decide +kernel

theorem test_witness_RunningForms :
    let on (act : Act) (k : SeqKind) (f : Tile → Tile) : Bool :=
      fallsDue (onEff k act f) (dueAt5 k act) 5 && (((onEff k act f).region 0).tiles[0]?).isSome && ((onEff k act f).region 0).run.isSome
    let names (k : Nat) (align : Nat) : Bool := namesB ((onEff .load (.lstrm 0 0 8 0 2)).region 0) {} 0
      ⟨0x40 + BitVec.ofInt 64 (64 * 8 * k), false, 64, align, true⟩ false 0 (0x40 + 512 * k) 0
    on (.lstrm 1 0 8 1 2) .load id = true ∧ on (.lstrm 1 0 8 15 1) .load id = true ∧ namesB ((onEff .load (.lstrm 0 0 8 0 2)).region 0) {} 0
      ⟨0 + BitVec.ofInt 64 (64 * 8 * 1), false, 64, 512, true⟩ false 0 512 0 = true ∧
    on (.sstrm 1 0x40 8 1 2) .store id = true ∧ on (.sstrm 1 0x40 8 1 2) .store (fun t => t.setQueue 5 [slotOf 9]) = true ∧ on (.sstrm 1 0x40 8 1 0) .store (fun t => t.setQueue 5 [slotOf 9]) = true ∧
    names 1 64 = true ∧
    on (.mmaBlk false .i8 .i8 1 2 0 0 15) .exec id = true ∧ on (.mmaBlk true .i4 .i4 1 2 14 6 1) .exec id = true ∧ on (.maddwRd true 12 1 3) .exec id = true := by
  decide +kernel

/-! ## The control stream -/

/-- Registers of the control tests: s5 = 4, s7 the first byte of the device half of die 0, s8 2 MiB, s9 = 1, s12 = 48, s14 = 5. -/
def ctlRegs : Regs := [(5, 4), (7, 0x0100_0000_0000_0000), (8, 0x20_0000), (9, 1), (12, 48), (14, 5)]

/-- A word of the control stream on these registers, with changes to the tile and the region. -/
def onCtl (w : BitVec 32) (f : Tile → Tile := id) (g : Region → Region := id) : State :=
  onWord .ctl w (fun t => f (withRegs .ctl ctlRegs t)) g

/-- A counter of the region. -/
def withCtr (k : Nat) (x : Ctr) (r : Region) : Region := { r with ctrs := [(k, x)] }

/-- CNTW of a counter that is not bound, of one bound below the value, of the tile's own releases, of one that has reached the value, and of one
that has not (12 R231). -/
theorem test_witness_ControlWords_wait :
    let on (x : Ctr) (kind : Nat) : Bool := issuing (onCtl 0x03C0_0E04 id (withCtr 4 x)) (.cntw ⟨0, false, 0⟩ 4 14) (fun c =>
      let y := c.r.ctr 4
      let seen := c.r.frontAt c.run 4 c.t
      let open' := seen.2 && decide ((c.rd 14).toNat ≤ seen.1.toNat) && !(y.ctx == 5 && y.tile == c.tile && decide (y.value.toNat < (c.rd 14).toNat))
      if open' then (if (c.rd 14).toNat ≤ y.value.toNat then kind == 1 else kind == 2) else kind == 0)
    on {} 0 = true ∧ on { st := .bound, front := 4, value := 4 } 0 = true ∧ on { st := .bound, front := 5, value := 4, ctx := 5 } 0 = true ∧
    on { st := .bound, front := 5, value := 5 } 1 = true ∧ on { st := .bound, front := 6, value := 4 } 2 = true := by decide +kernel

/-- CNTS of a free counter, of one whose FRONT has the value, and of one bound to another context (12 R230). -/
theorem test_witness_ControlWords_release :
    let on (x : Ctr) (free : Bool) : Bool := issuing (onCtl 0x03C8_0805 id (withCtr 5 x)) (.cnts ⟨0, false, 0⟩ 5 8) (fun c =>
      (c.r.mayBind c.run 5 5 c.tile c.tile c.t && decide ((c.r.ctr 5).front.toNat < (c.rd 8).toNat)) == free)
    on {} true = true ∧ on { st := .bound, ctx := 5, front := 0x20_0000 } false = true ∧ on { st := .bound, ctx := 1 } false = true := by decide +kernel

theorem test_witness_ControlWords_rest :
    issuing (onCtl 0x03F0_0900) (.bfmt ⟨0, false, 0⟩ 0 9) (fun c => decide ((c.rd 9).toNat < 48) && !c.tl.isCopy 1) = true ∧
    issuing (onCtl 0x03F0_0C00) (.bfmt ⟨0, false, 0⟩ 0 12) (fun c => decide (48 ≤ (c.rd 12).toNat)) = true ∧
    issuing (onCtl 0x03F0_0900 (fun t => { t with banks := [(1, 0x1F)] })) (.bfmt ⟨0, false, 0⟩ 0 9) (fun c => c.tl.isCopy 1) = true ∧
    issuing (onCtl 0x0C0F_0000) (.dkeySplit p0 0 7 8) = true ∧ issuing (onCtl 0x0C0F_0000) (.dkeySetCounter p0 0 0 8) = true ∧
    issuing (onCtl 0x03D0_E004) (.cntr ⟨0, false, 0⟩ 14 4) = true ∧ issuing (onCtl 0x03F8_0700) (.dkey ⟨0, false, 0⟩ 7) = true := by decide +kernel

/-- SEAL and UNSEAL: a range in order and one that is not, the table with room and full, an entry to remove and none (16 R275). -/
theorem test_witness_ControlWords_seals :
    let on (add : Bool) (b : BitVec 4) (g : Region → Region) (ranged room : Bool) : Bool :=
      let i : Instr := if add then .sealR ⟨0, false, 0⟩ 7 b else .unsealR ⟨0, false, 0⟩ 7 b
      issuing (onCtl (if add then 0x03E0_0780 else 0x03E8_0780) id g) i (fun c =>
        ((c.rd 7).getLsbD 56 && decide ((c.rd 7).toNat % 2 ^ 21 = 0) && decide ((c.rd b).toNat % 2 ^ 21 = 0) && c.rd b != 0) == ranged &&
        (if add then decide (c.r.seals.length < 64) else c.r.seals.contains (c.rd 7, c.rd b)) == room)
    let entry : Word × Word := (0x0100_0000_0000_0000, 0x20_0000)
    on true 8 id true true = true ∧ on true 9 id false true = true ∧ on true 0 id false true = true ∧
    on true 8 (fun r => { r with seals := List.replicate 64 entry }) true false = true ∧
    on true 8 (fun r => { r with seals := List.replicate 63 entry }) true true = true ∧
    on false 8 (fun r => { r with seals := [entry] }) true true = true ∧ on false 8 id true false = true := by decide +kernel

/-! ## Engines -/

/-- Registers of the engine tests: s7 = 0, the first line of bank 0; s8 the first of bank 1; s9 = 64; s10 2 MiB of the device half; s11 = 32. -/
def engRegs : Regs := [(8, 0x8000), (9, 64), (10, 0x0100_0000_0020_0000), (11, 32)]

/-- Banks 0 and 1 are copy banks of RAW. -/
def copyBanks (t : Tile) : Tile := { t with banks := [(0, 0x1F), (1, 0x1F)] }

/-- A step whose footprint holds the first 4 MiB of the device half, writable, with its entries. -/
def withFoot (run : Run) : Run :=
  { run with img := { run.img with
      foot := [⟨0x0100_0000_0000_0000, 2, false, true, false⟩],
      tlb := [devTlb true, { devTlb true with va := 0x0100_0000_0020_0000 }] } }

/-- A copy of a context of tile 0, from bank 0 to bank 1 or to device memory. -/
def copyWord (toVa x : Bool) (lreg dreg : BitVec 4) : Instr := .copy p0 0 toVa false false x 0 false 0 true 2 12 lreg dreg 7

/-- The form issues on a tile with copy banks, and what it sees meets `p`; `q` is told the places, where they are in order. -/
def copyOn (i : Instr) (f : Tile → Tile) (g : Region → Region) (p : Ctx → Bool) (q : State → Ctx → Loc × Loc × Nat → Bool)
    (stamps : Tab (BitVec 32) := []) : Bool :=
  let s := onWord .ctl 0x0C0F_0000 (fun t => f (withRegs .ctl engRegs t)) (fun r => g (withRun withFoot r))
  let s : State := { s with mem := { s.mem with stamps := stamps } }
  match i with
  | .copy _ _ dk sk _ _ _ _ _ _ _ _ lreg dreg sreg => issuing s i (fun c =>
      p c && (match c.copyPlaces s sk dk (c.rd sreg) (c.rd dreg) (c.rd lreg).toNat with
        | .ok x => q s c x
        | .error _ => false))
  | _ => false

/-- COPY with a length out of range, a place that is no copy bank, a sealed destination, a conflict of its source and of its destination with an operation
of the other context, a counter of another context, and in order: to a bank, to device memory, and with its context full (12 R235, R237; 16 R277). -/
theorem test_witness_EngineWords_copy :
    let free (c : Ctx) (x : Nat) : Bool := c.r.mayBind c.run 2 x c.tile c.tile c.t && (c.r.ctr 2).front != BitVec.allOnes 64
    let late (c : Ctx) (r : OpRange) : Bool := c.opConflict (copyCtx c.tile 0) none [r]
    let from' (l : Loc × Loc × Nat) : OpRange := ⟨l.1, 64, false⟩
    let into (l : Loc × Loc × Nat) : OpRange := ⟨l.2.1, l.2.2, true⟩
    let clean (c : Ctx) (l : Loc × Loc × Nat) : Bool := !c.sealTrap l.2.1 l.2.2 && !late c (from' l) && !late c (into l)
    let fits (s : State) (c : Ctx) (l : Loc × Loc × Nat) : Bool := match s.register c.rid c.tile 0 (devLines l.1 64) with
      | .ok s1 => (match s1.register c.rid c.tile 1 (devLines l.2.1 l.2.2) with
        | .ok _ => true
        | .error _ => false)
      | .error _ => false
    let sealing (run : Run) : Run := { run with sealed0 := [(0x0100_0000_0020_0000, 0x20_0000)] }
    let other (a b : Loc) (run : Run) : Run := { run with copies := [{ openCopy with ctx := 1, src := a, dst := b }] }
    issuing (onWord .ctl 0x0C0F_0000 (withRegs .ctl engRegs)) (copyWord false false 11 8) (fun c => (c.rd 11).toNat % 64 != 0) = true ∧
    issuing (onWord .ctl 0x0C0F_0000 (withRegs .ctl engRegs)) (copyWord false false 9 8)
      (fun c => match c.copyPlaces State.reset false false (c.rd 7) (c.rd 8) (c.rd 9).toNat with
        | .error a => a == 0
        | .ok _ => false) = true ∧
    copyOn (copyWord true false 9 10) copyBanks (withRun sealing) (fun _ => true) (fun _ c l => c.sealTrap l.2.1 l.2.2) = true ∧
    copyOn (copyWord false false 9 8) copyBanks (withRun (other (.va 0) (.spad 0 0))) (fun _ => true)
      (fun _ c l => !c.sealTrap l.2.1 l.2.2 && late c (from' l)) = true ∧
    copyOn (copyWord false false 9 8) copyBanks (withRun (other (.spad 0 0x8000) (.va 0))) (fun _ => true)
      (fun _ c l => !c.sealTrap l.2.1 l.2.2 && !late c (from' l) && late c (into l)) = true ∧
    copyOn (copyWord false false 9 8) copyBanks (withCtr 2 { st := .bound, ctx := 1 }) (fun c => !free c 0) (fun _ c l => clean c l) = true ∧
    copyOn (copyWord false false 9 8) copyBanks id (fun c => free c 0) (fun s c l => clean c l && fits s c l) = true ∧
    copyOn (copyWord true true 9 10) copyBanks (withCtr 2 { st := .bound, ctx := 1 }) (fun c => free c 1)
      (fun s c l => clean c l && fits s c l) = true ∧
    copyOn (copyWord false false 9 8) copyBanks
      (withRun (fun run => { run with copies := List.replicate 16 { openCopy with src := .va 0, dst := .va 0 } }))
      (fun c => free c 0 && decide (16 ≤ (c.run.copyOpen c.tile 0).length)) (fun s c l => clean c l && fits s c l) = true := by decide +kernel

/-- A COPY into a line that the step has loaded, and one out of a line that another tile of the step has stored to (17 R285, R287). -/
theorem test_witness_EngineWords_stamp :
    let r := (onWord .ctl 0x0C0F_0000 id).region 0
    let seen (x : BitVec 32) : Tab (BitVec 32) := [(r.keyThrough { devTlb true with va := 0x0100_0000_0020_0000 } 0 0x0100_0000_0020_0000 / 64, x)]
    let refused (x : Except Nat State) : Bool := match x with
      | .ok _ => false
      | .error set => set == 0
    copyOn (copyWord true false 9 10) copyBanks id (fun _ => true)
      (fun s c l => refused (s.register c.rid c.tile 1 (devLines l.2.1 l.2.2))) (seen (stampOf 1 0 0 0)) = true ∧
    copyOn (.copy p0 0 false true false false 0 false 0 true 2 12 9 8 10) copyBanks id (fun _ => true)
      (fun s c l => refused (s.register c.rid c.tile 0 (devLines l.1 64))) (seen (stampOf 1 1 0 1)) = true := by decide +kernel

/-- A collective of one member over the die, all-reduce of F32. -/
def collWord (scope : CollScope) (count : BitVec 8) (lreg dreg : BitVec 4) : Instr :=
  .coll p0 0 scope 0 0 count .f32 .sum .allreduce 0 false 0 2 12 lreg dreg 7

/-- COLL of a rank out of range, of a length out of range, of buffers that are no copy banks, of a sealed destination, of a counter bound elsewhere, of a
conflict of its source and of its destination, and in order (13 R251, R254). -/
theorem test_witness_EngineWords_coll :
    let on (i : Instr) (f : Tile → Tile) (g : Region → Region) (p : State → Ctx → Bool) : Bool :=
      let s := onWord .ctl 0x0C0F_0000 (fun t => f (withRegs .ctl engRegs t)) (fun r => g (withRun withFoot r))
      issuing s i (p s)
    let place (s : State) (c : Ctx) (scope : CollScope) (a : BitVec 4) (w : Bool) : Option Loc := c.collPlace s scope .f32 (c.rd a) 64 w
    let from' : OpRange := ⟨.spad 0 0, 64, false⟩
    let into : OpRange := ⟨.spad 0 0x8000, 64, true⟩
    let late (c : Ctx) (q : OpRange) : Bool := c.opConflict CollScope.die.ctx none [q]
    let other (a b : Loc) (run : Run) : Run := { run with copies := [{ openCopy with src := a, dst := b }] }
    let placed (s : State) (c : Ctx) : Bool := place s c .die 7 false == some (.spad 0 0) && place s c .die 8 true == some (.spad 0 0x8000)
    let free (c : Ctx) : Bool := c.r.mayBind c.run 2 CollScope.die.ctx 0 c.tile c.t
    let ranked (c : Ctx) (scope : CollScope) : Bool := c.rank scope == some 0 && decide (1 ≤ c.members scope)
    on (collWord .die 4 9 8) copyBanks id (fun _ c => c.rank .die == some 0 && decide (c.members .die < 4)) = true ∧
    on (collWord .die 1 11 8) copyBanks id (fun _ c => ranked c .die && (c.rd 11).toNat == 32) = true ∧
    on (collWord .die 1 9 8) id id (fun s c => ranked c .die && (place s c .die 7 false).isNone) = true ∧
    on (collWord .die 1 9 11) copyBanks id (fun s c => ranked c .die && (place s c .die 7 false).isSome && (place s c .die 11 true).isNone) = true ∧
    on (.coll p0 0 .fabric 0 0 1 .f32 .sum .allreduce 0 false 0 2 12 9 10 10) copyBanks
      (withRun (fun run => { run with sealed0 := [(0x0100_0000_0020_0000, 0x20_0000)] }))
      (fun s c => ranked c .fabric && (match place s c .fabric 10 true with
        | some l => c.sealTrap l 64
        | none => false)) = true ∧
    on (collWord .die 1 9 8) copyBanks (withCtr 2 { st := .bound, ctx := 1 }) (fun s c => placed s c && !free c) = true ∧
    on (collWord .die 1 9 8) copyBanks (withRun (other (.va 0) (.spad 0 0))) (fun s c => placed s c && free c && late c from') = true ∧
    on (collWord .die 1 9 8) copyBanks (withRun (other (.spad 0 0x8000) (.va 0)))
      (fun s c => placed s c && free c && !late c from' && late c into) = true ∧
    on (collWord .die 1 9 8) copyBanks id (fun s c => placed s c && free c && !late c from' && !late c into &&
      (match s.register c.rid c.tile 0 [] with
        | .ok _ => true
        | .error _ => false)) = true := by decide +kernel

/-- An operation that waits, from a bank to a bank, counted by counter 2. -/
def bankCopy : CopyOp :=
  ⟨0, 0, 0, .spad 0 0, .spad 0 0x8000, 64, 64, false, 0, 3, some 2, none, .waiting, [], [], none⟩

/-- A state of region 0 with a running step, changed. -/
def inStep (f : Run → Run) (g : Region → Region := id) : State :=
  onEff .ctl .driftw id (fun r => g (withRun f r))

theorem test_witness_EngineEvents_copy :
    let on (o : CopyOp) (p : State → CopyOp → Bool) : Bool :=
      let s := inStep (fun run => { run with copies := [o] }) (withCtr 2 { st := .bound, front := 3 })
      match (s.region 0).copyHead 0 0 with
      | some x => (s.region 0).enginesRun && x == o && tabWf {} (s.region 0).ctrs && p s x
      | none => false
    let host (st : OpSt) : CopyOp := { bankCopy with src := .va 0x40, st := st }
    on bankCopy (fun s _ => s.copyCanStart 0 0 0) = true ∧ on (host .waiting) (fun _ o => o.untranslated) = true ∧
    on { host .started with refused := some 0x40 } (fun _ o => o.refused == some 0x40 && o.st == .started) = true ∧
    on { bankCopy with st := .started } (fun s o => o.refused.isNone && !(o.usesHost && s.neruoFailed) && (s.readLoc 0 0 o.src [] 64).2.2 == []) = true ∧
    on { host .started with hostSrc := [64] } (fun s o => (s.readLoc 0 0 o.src o.hostSrc 64).2.2 == []) = true ∧
    (let r := twoTiles ((inStep id).region 0)
     r.tiles.map (fun t => t.fmt (bankOf 0x8000)) = [15, 15] ∧ 0x8000 / 64 + 64 / 64 ≤ 24576 ∧ r.tiles.all (fun t => Memory.wf t.spad && Memory.wf t.side) = true) := by
  decide +kernel

/-- A bank copy has the size that its formats give, and lies in the scratchpad; a line of device memory and one of a host page have their places. -/
theorem test_witness_EngineEvents_bytes :
    bankCopy.sized (twoTiles ((inStep id).region 0)) ∧ (∀ j q, bankCopy.dst = .spad j q → q % 64 = 0 ∧ q / 64 + (64 + 63) / 64 ≤ 24576) ∧
    (Memory.wf (inStep id).mem.hbm = true ∧ Memory.wf (inStep id).mem.host = true) ∧
    (tlbFind [devTlb true] 0x0100_0000_0000_0000).isSome = true ∧ hostAt 0x40 [0x1000] 0 = some 0x1040 ∧ hostAt 0x40 [] 0 = none := by
  refine ⟨⟨by rfl, ?_⟩, ?_, by decide +kernel⟩
  · intro u t hu ht
    have hu' : u = ((twoTiles ((inStep id).region 0)).tiles[0]?).getD {} := by rw [hu]; rfl
    have ht' : t = ((twoTiles ((inStep id).region 0)).tiles[0]?).getD {} := by rw [ht]; rfl
    subst hu' ht'
    decide +kernel
  · intro j q h
    cases h
    decide

/-- A contribution of tile 0 alone, and its operation. -/
def oneColl (st : OpSt) (failed : Bool) : CollOp :=
  ⟨.die, 0, 3, 2, [⟨0, 0, 0, .spad 0 0, .spad 0 0x8000, none, .allreduce, .sum, .f32, 1, 0, 0, 64, 2⟩], [], st, failed, 0x40, [], []⟩

theorem test_witness_EngineEvents_coll :
    let on (o : CollOp) : Region := (inStep id (fun r => withCtr 2 { st := .bound, front := 3 } { r with colls := [o] })).region 0
    (on (oneColl .waiting false)).collCanStart .die [] = true ∧ (inStep id).mem.ecc = [] ∧
    ([oneColl .started false, oneColl .started true].all (fun o =>
      (on o).collHead .die == some o && (on o).enginesRun && tabWf {} (on o).ctrs)) = true := by decide +kernel

/-- A result of one member is its source; two members' F32 sums (13 R256); a counter after failures (12 R229). -/
theorem test_engines :
    collResult .allreduce .sum .f32 0 0 4 [0x3F80_0000, 0x4000_0000] = 0x4040_0000 ∧ collResult .broadcast .sum .f32 0 1 4 [5, 7] = 7 ∧
    collResult .allgather .sum .i8 0 0 1 [5, 7] = 0x0705 ∧ copyBytes 0 1 64 = 32 ∧
    ((({} : Ctr).complete 3 (some 8)).complete 5 (some 9)).first = 3 ∧ ((({} : Ctr).complete 5 none).complete 3 none).value = 5 := by decide +kernel

theorem test_witness_EngineEvents_holds :
    let held (h : Hold) (g : Region → Region) : Region := (onEff .ctl .driftw (fun t => { t with hold := h }) g).region 0
    let org : Org := ⟨0, .ctl, 0, 0, 0, false⟩
    (held (.counter 4 5 org) (withCtr 4 { st := .bound, front := 5, value := 5 })).ctr 4 = { st := .bound, front := 5, value := 5 } ∧
    (held (.context 0 org) id).contextFree 0 org = true ∧ ((held (.word 3) id).tiles.map (·.hold)) = [.word 3] ∧
    fallsDue (onEff .ctl (.release 5 9)) (dueAt5 .ctl (.release 5 9)) 5 = true ∧
    (({ value := 5, err := true, first := 4 } : Ctr).failedTo 4) = true ∧ (({ value := 5, err := true, first := 4 } : Ctr).failedTo 3) = false := by decide +kernel

/-! ## Graphs -/

/-- Registers of the conductor tests: s2 = 5, s7 the graph's object, s8 = 5, s9 an odd address. -/
def condRegs : Regs := [(2, 5), (7, 0x0100_0000_0000_0000), (8, 5), (9, 0x0100_0000_0000_0001)]

/-- A word of a conductor on these registers, with changes to the graph and the region. -/
def onGraph (w : BitVec 32) (f : Graph → Graph := id) (g : Region → Region := id) : State :=
  onCond .conductor w (fun x => f { x with s := condRegs }) g

/-- A running step beside a graph. -/
def stepRuns (r : Region) : Region := { r with run := some { img := seedImg, epoch := 1 } }

/-- Words that drain beside a running step, and drained. -/
theorem test_witness_GraphWords_drain :
    ([(0x0110_0705, .signal 5 7), (0x0130_0721, .hostn 7 33), (0x0128_0000, .yieldp), (0x00F8_0000, .endConductor), (0x03D0_3007, .cntrConductor 3 7)] :
      List (BitVec 32 × Instr)).all (fun x =>
      condIssuing (onGraph x.1 id stepRuns) x.2 (fun c => c.r.run.isSome) &&
      condIssuing (onGraph x.1) x.2 (fun c => c.r.run.isNone && c.r.staging.isNone && c.r.staged.isNone && c.r.restage.isNone) &&
      condIssuing (onGraph x.1 id (fun r => { r with restage := some seedImg })) x.2 (fun c => c.r.restage.isSome)) = true := by decide +kernel

/-- A step image of one tile with four planes of one NOP word each and nothing else: header fields of R210, the directory's first four entries, and
TCRC the CRC-32C of sixteen zero bytes (11 R210 to R212). -/
def anImage : Nat :=
  0x5354_4550 + 1 * 2 ^ 32 + 1 * 2 ^ 92 + 192 * 2 ^ 128 + 0x4270_9AEA * 2 ^ 160 +
    (List.range 4).foldl (fun n j => n + (4 + (128 + 4 * j) * 2 ^ 32) * 2 ^ (256 + 64 * j)) 0

/-- A state with `n` bytes at offset `a` of the device half. -/
def withBytes (a n v : Nat) (s : State) : State := { s with mem := { s.mem with hbm := memWrite s.mem.hbm a n v } }

/-- STEP beside a staged step, of an address outside the graph's images, and of an image in order. -/
theorem test_witness_GraphWords_step :
    let on (s : State) (p : CCtx → Bool) : Bool := condIssuing s (.condStep 7 8) p
    let image (x : Nat) : State := withBytes 1024 192 x (onGraph 0x0100_0780
      (fun g => { g with imgLen := 4096, s := [(7, 0x0100_0000_0000_0400)] }))
    let res (s : State) (c : CCtx) : Except (Nat × Word) Img := (s.readImage c.rid c.g (c.rd 7) (c.rd 8)).2
    let code (s : State) (n : Nat) : Bool := on s (fun c => match res s c with
      | .ok _ => n == 0
      | .error e => e.1 == n)
    on (onGraph 0x0100_0780 id (fun r => { r with staged := some seedImg })) (fun c => c.r.staged.isSome) = true ∧
    on (onGraph 0x0100_0780 id (fun r => { r with staging := some seedImg })) (fun c => c.r.staging.isSome) = true ∧
    on (onGraph 0x0100_0780 id (fun r => { r with st := .halting })) (fun c => c.r.st == .halting) = true ∧
    on (onGraph 0x0100_0780 id (fun r => { r with restage := some seedImg })) (fun c => c.r.restage.isSome) = true ∧
    code (onGraph 0x0100_0780) 1 = true ∧ code (image anImage) 0 = true ∧ code (image (anImage + 15 * 2 ^ 32)) 2 = true ∧
    code (image (anImage + 2 ^ 71)) 5 = true ∧ code (image (anImage + 2 ^ 160)) 8 = true := by decide +kernel

/-- FENCE and CNTW: a list out of order, and counters below, at, and at with a failed operation. -/
theorem test_witness_GraphWords_waits :
    let x (v : Word) (err : Bool) : Ctr := { st := .signalled, value := v, err := err, first := 4 }
    let on (w : BitVec 32) (i : Instr) (k : Nat) (y : Ctr) (p : State → CCtx → Bool) : Bool :=
      let s := withBytes 0 8 0 (onGraph w id (withCtr k y))
      condIssuing s i (p s)
    let list (s : State) (c : CCtx) : Bool := c.fenceList s (c.rd 7) (c.rd 8) 1 == some [(0, 5)]
    let sees (k : Nat) (met failed : Bool) (c : CCtx) : Bool :=
      decide (5 ≤ (c.r.ctr k).value.toNat) == met && ((c.r.ctr k).err && decide ((c.r.ctr k).first.toNat ≤ 5)) == failed
    on 0x0108_0981 (.fence 9 8 1) 0 {} (fun s c => c.fenceList s (c.rd 9) (c.rd 8) 1 == none) = true ∧
    on 0x0108_0781 (.fence 7 8 1) 0 (x 4 false) (fun s c => list s c && sees 0 false false c) = true ∧
    on 0x0108_0781 (.fence 7 8 1) 0 (x 5 false) (fun s c => list s c && sees 0 true false c) = true ∧
    on 0x0108_0781 (.fence 7 8 1) 0 (x 6 true) (fun s c => list s c && sees 0 true true c) = true ∧
    on 0x03C0_0207 (.cntwConductor 7 2) 7 (x 4 false) (fun _ c => sees 7 false false c) = true ∧
    on 0x03C0_0207 (.cntwConductor 7 2) 7 (x 5 false) (fun _ c => sees 7 true false c) = true ∧
    on 0x03C0_0207 (.cntwConductor 7 2) 7 (x 5 true) (fun _ c => sees 7 true true c) = true := by decide +kernel

/-- SIGNAL and CNTS of a counter that an engine owns, of one above the value, and in order. -/
theorem test_witness_GraphWords_sets :
    let on (w : BitVec 32) (i : Instr) (a : BitVec 4) (k : Nat) (y : Ctr) (kind : Nat) : Bool := condIssuing (onGraph w id (withCtr k y)) i (fun c =>
      (if (c.r.ctr k).st == .bound || decide ((c.rd a).toNat < (c.r.ctr k).value.toNat) then 1 else 2) == kind && tabWf {} c.r.ctrs)
    on 0x0110_0205 (.signal 5 2) 2 5 { st := .bound } 1 = true ∧ on 0x0110_0205 (.signal 5 2) 2 5 { st := .signalled, value := 6 } 1 = true ∧
    on 0x0110_0205 (.signal 5 2) 2 5 { st := .signalled, value := 5, err := true } 2 = true ∧ on 0x03C8_0207 (.cntsConductor 7 2) 2 7 {} 2 = false ∧
    on 0x03C8_0207 (.cntsConductor 7 2) 2 7 { st := .bound } 1 = true ∧ on 0x03C8_0207 (.cntsConductor 7 2) 2 7 { value := 4 } 2 = true := by decide +kernel

/-- A pending child of a graph. -/
def aChild : Nat × Word × Word × Bool := (0, 0x0100_0000_0000_0000, 9, true)

/-- LAUNCH too deep, of no object, with the pool full and a child pending, and with an entry, shared and reserved. -/
theorem test_witness_GraphWords_launch :
    let on (f : Graph → Graph) (g : Region → Region) (p : CCtx → Bool) (i : Instr := .launch 9 7 8) : Bool := condIssuing (onGraph 0x0118_9780 f g) i p
    let object (v : Word) : Bool := v.getLsbD 56 && decide (v.toNat / 2 ^ 57 = 0) && decide (v.toNat % 64 = 0)
    let free (c : CCtx) : Bool := decide (c.r.poolShared < 192) || decide (tabGet 0 c.r.poolRes (c.g.depth + 1) < 8)
    on (fun g => { g with depth := 8 }) id (fun c => decide (8 ≤ c.g.depth)) = true ∧
    on id id (fun c => !object (c.rd 9)) (.launch 9 9 8) = true ∧
    on (fun g => { g with kids := [aChild] }) (fun r => { r with poolShared := 192, poolRes := [(1, 8)] })
      (fun c => object (c.rd 7) && !free c && c.g.kids != []) = true ∧
    on (fun g => { g with kids := [aChild] }) id (fun c => object (c.rd 7) && free c && c.g.joined == 0) = true ∧
    on (fun g => { g with joined := 2 }) (fun r => { r with poolShared := 192, poolRes := [(1, 7)] })
      (fun c => object (c.rd 7) && free c && c.g.kids == []) = true := by decide +kernel

/-- JOINC and END with a pending child and without, END of a child and of a run, YIELDP of a running and a yielding region. -/
theorem test_witness_GraphWords_ends :
    let on (w : BitVec 32) (i : Instr) (f : Graph → Graph) (g : Region → Region) (p : CCtx → Bool) : Bool := condIssuing (onGraph w f g) i p
    let kid (g : Graph) : Graph := { g with kids := [aChild] }
    on 0x0120_9000 (.joinc 9) kid id (fun c => c.g.kids != []) = true ∧ on 0x0120_9000 (.joinc 9) id id (fun c => c.g.kids == []) = true ∧
    on 0x00F8_0000 .endConductor kid id (fun c => c.r.drained && c.g.kids != []) = true ∧
    on 0x00F8_0000 .endConductor id (fun r => { r with graphs := r.graphs ++ r.graphs }) (fun c => c.r.graphs.length == 2 && c.g.kids == []) = true ∧
    on 0x00F8_0000 .endConductor id id (fun c => c.r.graphs.length == 1 && tabWf {} c.r.ctrs) = true ∧ tabWf {} (onGraph 0x00F8_0000).regions = true ∧
    on 0x0128_0000 .yieldp id id (fun c => c.r.st == .running) = true ∧
    on 0x0128_0000 .yieldp id (fun r => { r with st := .yielding }) (fun c => c.r.st == .yielding && c.r.drained) = true := by decide +kernel

/-- A graph header of one word with no patch buffer and images from the half's first byte, none of them (11 R219). -/
def aHeader : Nat := 0x4752_4150 + 1 * 2 ^ 32 + 4 * 2 ^ 64 + 2 ^ 56 * 2 ^ 384

/-- A state in which region 0 has a queued START of the graph at the half's first byte, whose header is `hd`. -/
def queued (hd : Nat) (patch : List Byte) : State :=
  withBytes 0 64 hd (onCond .conductor 0 id (fun r => { r with graphs := [], startQ := [⟨0x0100_0000_0000_0000, 3, patch, false⟩] }))

/-- The header with a patch buffer of eight bytes at an address. -/
def patchHeader (pbuf : Nat) : Nat := aHeader + pbuf * 2 ^ 192 + 8 * 2 ^ 256

/-- A patch buffer in order, and one that meets the graph's object, that meets its images, of another die, unmapped, on a page without W, and in a sealed
range; a child's buffer is not written (11 R219, R220). -/
theorem test_witness_GraphRuns_patch :
    let fault (hd : Nat) (patch : Option (List Byte)) (f : Mem → Mem) (g : Region → Region) : Option Nat :=
      let s := queued hd []
      let s := State.setRegion { s with mem := f s.mem } 0 (g (s.region 0))
      s.graphFault 0 0x0100_0000_0000_0000 (some hd) patch
    let sealing (r : Region) : Region := { r with seals := [(0x0100_0000_0000_0000, 0x20_0000)] }
    let fixed (m : Mem) : Mem := { m with table := memWrite m.table 0x4000 8 (2 ^ 63) }
    fault (patchHeader (2 ^ 56 + 4096)) (some []) id id = none ∧ fault (patchHeader (2 ^ 56)) (some []) id id = some 4 ∧
    fault (patchHeader (2 ^ 56 + 4096) + 4096 * 2 ^ 384 + 64 * 2 ^ 448) (some []) id id = some 4 ∧
    fault (patchHeader (2 ^ 56 + 2 ^ 49)) (some []) id id = some 4 ∧ fault (patchHeader (2 ^ 56 + 2 ^ 31)) (some []) id id = some 4 ∧
    fault (patchHeader (2 ^ 56 + 4096)) (some []) fixed id = some 4 ∧ fault (patchHeader (2 ^ 56 + 4096)) (some []) id sealing = some 4 ∧
    fault (patchHeader (2 ^ 56 + 4096)) none id sealing = none := by decide +kernel

/-- A header in order, one with a reserved bit set, and a launch record above PBLEN. -/
theorem test_witness_GraphRuns_begin :
    let fault (hd : Nat) (patch : List Byte) : Option Nat :=
      let s := queued hd patch
      s.graphFault 0 0x0100_0000_0000_0000 (s.readVa 0 0x0100_0000_0000_0000 64) (some patch)
    fault aHeader [] = none ∧ fault (aHeader + 2 ^ 49) [] = some 1 ∧ fault aHeader [7] = some 2 ∧ fault (aHeader + 2 ^ 448) [] = some 1 ∧
    (queued aHeader []).mapped 0 0x0100_0000_0000_0000 68 false = true ∧ (queued aHeader []).readVa 0 0x0100_0000_0000_0000 64 = some aHeader ∧
    (let r := (queued aHeader []).region 0
     r.st = .running ∧ r.graphs = [] ∧ r.run = none ∧ r.startQ.length = 1 ∧ (queued aHeader []).waiting 0 = false) := by decide +kernel

theorem test_witness_GraphRuns_child :
    let s (hd : Nat) : State := withBytes 0 64 hd (onCond .conductor 0 (fun g => { g with kids := [aChild] }) (fun r => { r with begun := false }))
    let r := (s aHeader).region 0
    r.st = .running ∧ r.graphs.length = 1 ∧ r.begun = false ∧ (s aHeader).waiting 0 = false ∧ r.run = none ∧ r.graphs.map (·.kids) = [[aChild]] ∧
    (s aHeader).graphFault 0 0x0100_0000_0000_0000 ((s aHeader).readVa 0 0x0100_0000_0000_0000 64) none = none ∧
    (s 0).graphFault 0 0x0100_0000_0000_0000 ((s 0).readVa 0 0x0100_0000_0000_0000 64) none = some 1 := by decide +kernel

theorem test_witness_GraphRuns_staged :
    let r := (onCond .conductor 0 id (fun r => { r with staging := some seedImg })).region 0
    r.staging = some seedImg ∧ r.graphs.length = 1 ∧ r.restaging = false ∧ { r with restaging := true }.restaging = true := by decide +kernel

/-- The first STEP after a record measures its image, and the same STEP again after a restart does not (21 R325; 23 R349). -/
theorem test_measured_once :
    let r : Region := ({} : Region).measure 7
    r.rmeas ≠ 0 ∧ ((r.atRecord r.keep).measure 7).rmeas = r.rmeas ∧ (r.takeRecord.measure 7).rmeas ≠ r.rmeas := by
  refine ⟨?_, ?_, ?_⟩ <;> decide +kernel

/-! ## Service instructions -/

/-- A word of a service conductor: s9 = 1024, a reserved bit of an ASID operand; s7 an address; s10 = 0. -/
def onService (w : BitVec 32) (regs : Regs) (g : State → State := id) : State :=
  g (onCond .service w (fun x => { x with s := regs }))

/-- ASID 0 of die 0 belongs to region 0. -/
def asid0 (s : State) : State := { s with asids := [(0, .bound 0)] }

theorem test_witness_ServiceWords_tlb :
    let noOne (s : State) (asid : Nat) : Bool := tabGet .free s.asids asid == .free && tabGet .free s.asids (1024 + asid) == .free
    let on (w : BitVec 32) (i : Instr) (regs : Regs) (p : CCtx → Bool) : Bool := condIssuing (onService w regs asid0) i p
    let s := onService 0 [] asid0
    on 0x0180_9700 (.tlbia 9 7) [(7, 5)] (fun c => noOne s ((c.rd 7).toNat % 1024)) = true ∧
    on 0x0180_9700 (.tlbia 9 7) [(7, 1024)] (fun c => !noOne s ((c.rd 7).toNat % 1024) && (c.rd 7).toNat / 1024 != 0) = true ∧
    on 0x0180_9700 (.tlbia 9 7) [] (fun c => !noOne s ((c.rd 7).toNat % 1024) && (c.rd 7).toNat / 1024 == 0) = true ∧
    on 0x0188_9780 (.tlbiv 9 7 8) [(7, 5), (8, 2 ^ 56)] (fun c => noOne s ((c.rd 7).toNat % 1024)) = true ∧
    on 0x0188_9780 (.tlbiv 9 7 8) [(8, 0)] (fun c => s.asidOwner 0 (c.rd 8) == some 0 && !(c.rd 8).getLsbD 56) = true ∧
    on 0x0188_9780 (.tlbiv 9 7 8) [(8, 2 ^ 56 + 2 ^ 31)] (fun c => s.asidOwner 0 (c.rd 8) == some 0 && (s.leafOf 0 (c.rd 8)).isNone) = true ∧
    on 0x0188_9780 (.tlbiv 9 7 8) [(7, 1024), (8, 2 ^ 56)] (fun c => (s.leafOf 0 (c.rd 8)).isSome && (c.rd 7).toNat / 1024 != 0) = true ∧
    on 0x0188_9780 (.tlbiv 9 7 8) [(8, 2 ^ 56)] (fun c => (s.leafOf 0 (c.rd 8)).isSome && (c.rd 7).toNat / 1024 == 0) = true ∧
    s.asidOwner 5 (2 ^ 56) = none ∧ s.time.member = 0 := by decide +kernel

theorem test_witness_ServiceWords_pgret :
    let on (regs : Regs) (g : State → State) (joined : Nat) (p : State → CCtx → Bool) : Bool :=
      let s := g (onCond .service 0x0190_9800 (fun x => { x with s := regs, joined := joined }))
      condIssuing s (.pgret 9 8) (p s)
    let va : Word := 0x0100_0000_0000_0040
    let state (x : List Retire) (n : Nat) (s : State) : State := { asid0 s with mem := { s.mem with retire := x, spares := [(0, n)] } }
    let block (s : State) : Option Retire := s.mem.retireOf 0 0
    on [(8, va)] id 0 (fun s _ => s.asidOwner 0 va == none) = true ∧
    on [(8, 0x0100_0000_8000_0000)] asid0 0 (fun s _ => s.asidOwner 0 0x0100_0000_8000_0000 == some 0 && s.translate 0 0x0100_0000_8000_0000 == none) = true ∧
    on [(8, va)] (state [⟨0, 0, 0, true, []⟩] 1) 0 (fun s _ => s.translate 0 va == some 64 && (block s).map (·.retired) == some true) = true ∧
    on [(8, va), (9, 1024)] (state [⟨0, 0, 0, false, []⟩] 1) 0 (fun s c => (block s).map (·.retired) == some false && (c.rd 9).toNat / 1024 != 0) = true ∧
    on [(8, va)] (state [⟨0, 0, 0, false, []⟩] 1) 1 (fun s c => (block s).map (·.retired) == some false && c.g.joined == 1) = true ∧
    on [(8, va)] (state [] 32) 0 (fun s _ => block s == none && tabGet 0 s.mem.spares 0 == 32) = true ∧
    on [(8, va), (9, 1024)] (state [] 31) 0 (fun s c => block s == none && (c.rd 9).toNat / 1024 != 0) = true ∧
    on [(8, va)] (state [] 31) 0 (fun s c => block s == none && (c.rd 9).toNat / 1024 == 0) = true := by decide +kernel

theorem test_witness_ServiceWords_celr :
    let on (a : Word) (seq dst : Nat) (head base : Word) (p : State → CCtx → Option Nat → Bool) : Bool :=
      let s := withBytes 0x400 16 (seq + dst * 2 ^ 64) (onService 0x0198_9700 [(7, a)]
        (fun s => { asid0 s with cel := { s.cel with head := head, base := base } }))
      condIssuing s (.celr 9 7) (fun c =>
        p s c (if a.toNat % 16 = 0 ∧ s.accessRefusal c.rid a 16 false = 0 then s.readVa c.rid a 16 else none))
    let blk : Word := 0x0100_0000_0000_0400
    let dst : Nat := 0x0100_0000_0000_0800
    on (blk + 8) 0 dst 1 0 (fun _ _ b => b == none) = true ∧ on blk 1 dst 1 0 (fun _ _ b => b == some (1 + dst * 2 ^ 64)) = true ∧
    on blk 0 dst 2 1 (fun _ _ b => b.isSome) = true ∧
    on blk 1 (dst + 32) 2 1 (fun _ _ b => b.isSome) = true ∧
    on blk 1 dst 2 1 (fun s c b => b.isSome && s.accessRefusal c.rid (BitVec.ofNat 64 dst) 128 true == 0) = true := by decide +kernel

/-- CELR whose block lies in a line that cannot be read (16 R280). -/
theorem test_witness_ServiceWords_celrLost :
    let s := withBytes 0x400 16 0 (onService 0x0198_9700 [(7, 0x0100_0000_0000_0400)] asid0)
    let s : State := { s with mem := { s.mem with ecc := [(16, .double)] } }
    condIssuing s (.celr 9 7) (fun c => s.accessRefusal c.rid (c.rd 7) 16 false == 0 && !(s.eccRange c.rid (c.rd 7) 16).2) = true := by decide +kernel

/-- RMCMD of no object, of a command that its region cannot take yet, and of one that it takes. -/
theorem test_witness_ServiceWords_rmcmd :
    let desc : Nat := 3 + 1 * 2 ^ 8
    let on (a : Word) (g : State → State) (p : State → CCtx → Bool) : Bool :=
      let s := withBytes 0x400 64 desc (onService 0x01A0_9700 [(7, a)] (fun s => g (asid0 s)))
      condIssuing s (.rmcmd 9 7) (p s)
    let va : Word := 0x0100_0000_0000_0400
    let region1 (st : RegSt) (s : State) : State := s.setRegion 1 { st := st }
    on 8 id (fun s c => s.readVa c.rid 8 64 == none) = true ∧
    on va (region1 .zeroing) (fun s c => s.readVa c.rid va 64 == some desc && !s.canTake 1) = true ∧
    on va (region1 .placed) (fun s c => s.canTake 1 && (s.region 1).cmdQ == [] &&
      ((s.takeCmd ⟨.service c.rid, va, BitVec.ofNat 512 desc⟩).1.region c.rid).graphs != []) = true := by decide +kernel

/-! ## Regions -/

/-- A module that is READY, its Neruo link locked. -/
def readyState : State := { State.reset with boot := { st := 3 }, links := [(488, { st := .locked, width := 32 })] }

/-- Region 1 of a ready module. -/
def region1 (r : Region) : State := readyState.setRegion 1 r

/-- A command of the host for region 1, its other fields in `rest`. -/
def hostCmd (cmd rest : Nat) : Cmd := ⟨.host, 0x6000, BitVec.ofNat 512 (cmd + 2 ^ 8 + rest)⟩

/-- The whole of a step's run in region 1: its image's freeze interval is 8. -/
def freezingRun : Run := { img := { seedImg with freezen := 8 }, epoch := 1 }

/-- What a command meets: it comes, the region is busy, its fields are in order. -/
def meets (s : State) (c : Cmd) : Bool × Bool × Bool :=
  let r := s.region c.rid
  (c.req != .host || s.neruoUp, r.st == .zeroing || r.st == .resuming || r.st == .releasing || s.waiting c.rid, c.inOrder)

/-- A command lost, waiting, out of order, in a state that does not list it, in a module that boots, and one that waits its turn (10 R189, R192). -/
theorem test_witness_Commands_order :
    meets State.reset (hostCmd 3 0) = (false, false, true) ∧ meets (region1 { st := .zeroing }) (hostCmd 3 0) = (true, true, true) ∧
    meets (region1 {}) (hostCmd 3 (2 ^ 16)) = (true, false, false) ∧ meets (region1 {}) (hostCmd 7 0) = (true, false, false) ∧
    meets (region1 {}) (hostCmd 3 0) = (true, false, true) ∧
    meets { region1 { st := .running } with boot := { st := 2 } } (hostCmd 3 0) = (true, false, true) ∧
    meets (region1 { st := .running }) ⟨.service 1, 0, (hostCmd 3 0).desc⟩ = (true, false, true) ∧
    (let s : State := { region1 { st := .running, cmdQ := [hostCmd 3 0] } with cur := .queue }
     s.cur = .queue ∧ (s.region 1).cmdQ = [hostCmd 3 0] ∧ (meets s (hostCmd 3 0)).2 = (false, true)) ∧
    (let s : State := { region1 { st := .zeroing, cmdQ := [hostCmd 3 0] } with cur := .queue }
     (s.region 1).cmdQ.head? = some (hostCmd 3 0) ∧ (meets s (hostCmd 3 0)).2 = (true, true)) ∧
    ((region1 { st := .running, cmdQ := [hostCmd 3 0] }).region 1).cmdQ.head? = some (hostCmd 3 0) ∧ (region1 {}).cur ≠ .queue ∧
    ((region1 { st := .running, cmdQ := [hostCmd 4 0] }).region 1).cmdQ.head? ≠ some (hostCmd 3 0) ∧ tabWf {} (region1 {}).regions = true ∧
    (hostCmd 3 0).desc.toNat / 2 ^ 8 % 32 = 1 := by decide +kernel

/-- START with its queue full, with a patch that no page holds, and in order; FREEZE with a step that runs and without; RESUME in place, of sites that a
region holds, and RELEASE. -/
theorem test_witness_Commands_states :
    let s := region1 { st := .running, startQ := List.replicate 8 ⟨0, 0, [], false⟩ }
    let r := s.region 1
    let frozen : Region := { st := .frozen, holds := true, cs := [0] }
    (8 ≤ (r.startQ.filter (fun l => l.now = false)).length ∧ meets s (hostCmd 2 0) = (true, false, true)) ∧
    (region1 { st := .placed }).readPatch 1 (BitVec.ofNat 64 (2 ^ 56)) 8 = none ∧ (region1 { st := .placed }).readPatch 1 0 0 = some [] ∧
    ((region1 { st := .running, run := some freezingRun }).region 1).run = some freezingRun ∧ 0 < freezingRun.img.freezen ∧
    (match (region1 frozen).chooseResume 1 (hostCmd 5 (2 ^ 32)) with
      | .ok p => p == ⟨0, 0, 0⟩
      | .error _ => false) = true ∧
    (match ((region1 frozen).setRegion 2 { st := .running, holds := true }).chooseResume 1 (hostCmd 5 (2 ^ 24 + 2 ^ 32)) with
      | .ok _ => false
      | .error n => n == 3) = true := by decide +kernel

/-- PLACE of one tile, of a shared slot whose sites another region has, of a service region, and where nothing fits. -/
theorem test_witness_Commands_place :
    let place (s : State) (slot : Option Nat) (w h : Nat) (takes : Bool) (rest : Nat := 2 ^ 32) : Option (Place × List Nat) :=
      match s.choosePlace 1 (hostCmd 1 rest) slot w h 0 0 {} takes with
      | .ok x => some x
      | .error _ => none
    place (region1 {}) none 1 1 true = some (⟨0, 0, 0⟩, [0]) ∧
    place { (region1 {}).setRegion 2 { st := .running, shared := true, slot := 3, holds := true, cs := [0] } with slots := [(3, [(0, 0)])] } (some 3) 1 1 false =
      some (⟨0, 0, 0⟩, [1]) ∧
    tabGet [] ({ region1 {} with slots := [(3, [(0, 0)])] } : State).slots 3 = [(0, 0)] ∧ tabGet [] (region1 {}).slots 3 = [] ∧
    place (region1 {}) none 2 1 true (2 ^ 24 + 2 ^ 32 + 0x7F * 2 ^ 64) = none ∧
    meets (region1 {}) (hostCmd 1 (2 ^ 25 + 2 ^ 32)) = (true, false, true) ∧ (hostCmd 1 (2 ^ 25 + 2 ^ 32)).desc.getLsbD 25 = true ∧
    (region1 {}).fits 1 none ⟨15, 7, 0⟩ 1 1 true = true ∧ (region1 {}).fits 1 none ⟨15, 7, 0⟩ 2 1 true = false := by decide +kernel

theorem test_witness_RegionLife :
    let meet (s : State) : Bool := s.regions.any (fun x => x.1 != 1 && x.2.holds && x.2.st != .frozen &&
      (placePos x.2.place x.2.w x.2.h).any (placePos (s.region 1).place (s.region 1).w (s.region 1).h).contains)
    let z := region1 { st := .zeroing }
    let f := (region1 { st := .frozen, holds := true }).setRegion 2 { st := .running, holds := true }
    let kept : Kept := ⟨[], 0, [], false, []⟩
    let y := region1 { st := .resuming, kept := some kept }
    let x := region1 { st := .resuming, tiles := [{}], run := some freezingRun }
    let e := { region1 { st := .releasing, asid := 5 } with asids := [(5, .bound 1), (6, .quarantined)] }
    let slots := (region1 { st := .frozen, holds := true, shared := true, slot := 3 }).setRegion 2
      { st := .running, holds := true, shared := true, slot := 3, place := ⟨5, 5, 0⟩ }
    ((z.region 1).st = .zeroing ∧ z.waiting 1 = false ∧ z.regions.all (fun x => x.2.st != .frozen) = true) ∧ meet f = true ∧
    (slots.mustSave 1 = true ∧ meet slots = false) ∧
    ((y.region 1).kept = some kept ∧ y.waiting 1 = false) ∧ ((x.region 1).kept = none ∧ (x.region 1).run = some freezingRun ∧ (x.region 1).tiles ≠ []) ∧
    ((e.region 1).st = .releasing ∧ e.waiting 1 = false ∧ tabWf ({} : Region) e.regions = true ∧ tabWf 0 e.mem.store = true) ∧
    (tabWf .free e.asids = true ∧ tabGet .free e.asids (1024 * 0 + 6) = .quarantined) := by decide +kernel

/-- A step that was staged when its region was frozen is staged again from its image, and not where the image is no image any more (11 R217). -/
theorem test_witness_RegionLife_restage :
    let old : Img := { seedImg with va := 0x0100_0000_0000_0400, len := 4096 }
    let s (x : Nat) : State := withBytes 1024 192 x (onGraph 0x0100_0780 id (fun r => { r with restage := some old }))
    let res (x : Nat) : Except (Nat × Word) Img :=
      let t := (s x).setRegion 0 { (s x).region 0 with restage := none }
      match t.region 0 with
      | r => match r.graphs with
        | g :: _ => (t.readImage 0 { g with imgBase := old.va, imgLen := old.len, key := old.key } old.va old.param).2
        | [] => .error (0, 0)
    ((s anImage).region 0).restage = some old ∧ ((s anImage).region 0).graphs.length = 1 ∧
    (match res anImage with
      | .ok img => img.va == old.va
      | .error _ => false) = true ∧
    (match res 0 with
      | .ok _ => false
      | .error e => e.1 == 1) = true ∧
    (let bad (n : Nat) (run : Option Run) : State :=
       let t := s anImage
       State.setRegion { t with mem := { t.mem with ecc := [(n, .double)] } } 0
         { t.region 0 with run := run, restart := some ⟨(t.region 0).graphs, 0, [], false, []⟩ }
     let reads (t : State) : List (Word × Nat) := (t.region 0).graphs.flatMap (fun g =>
       t.imageReads 0 { g with imgBase := old.va, imgLen := old.len, key := old.key } old.va old.param)
     (bad 16 (some freezingRun)).eccBad 0 (reads (bad 16 (some freezingRun))) = true ∧
     ((bad 16 none).eccRanges 0 (reads (bad 16 none))).2 = false ∧ ((bad 16 none).region 0).st = .running ∧
     ((bad 999 none).eccRanges 0 (reads (bad 999 none))).2 = true) := by decide +kernel

/-! ## The life of a step -/

theorem test_witness_StepLife_begins :
    let nest : Nest := ⟨2, [0, 1], [3, 4]⟩
    let img : Img := { seedImg with nest := some nest, fills := [⟨3, 7, 9⟩], carried := 1 }
    let r : Region := { st := .running, holds := true, tiles := [{}], staged := some img }
    (region1 r).region 1 = r ∧ r.run = none ∧ r.grant = some 15 ∧ img.energy ≤ 15 ∧ nest.ext.foldl (· * ·) 1 = 12 ∧ img.carried.getLsbD 0 = true := by
  decide +kernel

/-- A region of one tile whose streams have ended, with a running step. -/
def endedRegion (run : Run) : Region :=
  { st := .running, holds := true, tiles := [{ ld := seedEnded, ex := seedEnded, st := seedEnded, ct := seedEnded }], run := some run,
    graphs := seedRegion.graphs }

theorem test_witness_StepLife_rendezvous :
    let org (t : Nat) : Org := ⟨0, .ctl, t, 0, 0, false⟩
    let es : List SealEff := [⟨org 3, true, 0x0100_0000_0000_0000, 0x20_0000⟩, ⟨org 5, false, 0x0100_0000_0000_0000, 0x20_0000⟩]
    let r := endedRegion { img := seedImg, epoch := 1, seals := es }
    r.draining = false ∧ (r.run.map (fun run => run.faults == [] && run.effs == [] && run.copies == [])) = some true ∧ r.colls = [] ∧
    r.tiles.all (fun t => t.hold == .none && streamKinds.all (fun k => (t.stream k).st == .ended)) = true ∧
    es.map (fun e => e.org.issue) = [3, 5] ∧ (endedRegion freezingRun).st = .running ∧
    ({ endedRegion freezingRun with st := .halting } : Region).st = .halting ∧
    (let x : State := { region1 { endedRegion freezingRun with graphs := [], condFault := some ⟨3, 0, 0, 3, 2, 0, 8, 0, 0x40, 0, 0⟩, cs := [2] } with
        mem := { withdrawn := [2] } }
     x.broken 1 = true ∧ (x.region 1).graphs = [] ∧ (x.region 1).condFault ≠ none) := by decide +kernel

theorem test_witness_StepLife_freeze :
    let run : Run := { freezingRun with f := some 8, effs := [mkEff ⟨0, .exec, 0, 0, 0, false⟩ 9 0 (.reg 3 7)] }
    let r : Region := { endedRegion run with st := .halting, tiles := (endedRegion run).tiles.map (fun t => { t with tick := 7 }) }
    let entry : Src × Eff := (.loc, dueAt5 .load (.push 3 (slotOf 9).ent 0))
    let drained (n : Nat) : Region := { r with draining := true, tiles := [{ virga := List.replicate n entry }] }
    r.pick = none ∧ run.stop = none ∧ run.effs ≠ [] ∧ r.tiles.all (fun t => t.hold == .none) = true ∧
    (drained 42).tiles.all (fun t => decide (t.virgaNeed run ≤ 768)) = true ∧ (drained 43).tiles.all (fun t => decide (t.virgaNeed run ≤ 768)) = false := by
  decide +kernel

/-- A faulted step stopped at tick 6: a stream fault, an uncorrectable tile error with and without lost live-in lines, and a lost granule. -/
theorem test_witness_StepLife_ends :
    let fault (cls cause : Nat) : FaultRec := ⟨3, 0, 0, 3, cls, cause, 8, 0, 0x40, 0, 0⟩
    let kept : Kept := ⟨(seedGraphRegion false).graphs, 0, [], false, []⟩
    let r (f : FaultRec) (restart : Option Kept) (bad : Bool) : Region :=
      let x := endedRegion { img := seedImg, epoch := 1, faults := [f], stop := some 6, badCarried := bad }
      { x with restart := restart, tiles := x.tiles.map (fun t => { t with tick := 5 }) }
    let ends (x : Region) (e : Ending) : Bool := x.stopped && (match x.run with
      | some run => x.ending run == e
      | none => false)
    ends (r (fault 2 0) none false) .fatal = true ∧ ends (r (fault 15 1) none false) .reexecute = true ∧
    ends (r (fault 15 1) (some kept) true) .restart = true ∧ ends (r (fault 15 2) (some kept) false) .lost = true ∧
    ends (r (fault 15 2) none false) .fatal = true ∧ kept.graphs ≠ [] ∧
    (let both (t : Nat) : Region := { r (fault 15 1) none false with
       run := some { img := seedImg, epoch := 1, faults := [fault 15 1, { fault 3 0 with tick := t }], stop := some 6 } }
     ends (both 3) .reexecute = true ∧ ends (both 2) .fatal = true) ∧
    (r (fault 2 0) none false).handlesFault = true ∧ (r (fault 2 0) none false).pick = none ∧ (region1 (r (fault 2 0) none false)).broken 1 = false ∧
    tabWf {} (region1 (r (fault 2 0) none false)).regions = true ∧
    ends { r (fault 15 1) none false with st := .halting } .reexecute = true ∧ ends { r (fault 15 2) (some kept) false with st := .halting } .lost = true ∧
    ends { r (fault 15 1) (some kept) true with st := .halting } .restart = true ∧
    ends { r (fault 15 1) none false with run := some { freezingRun with faults := [fault 15 1], stop := some 6 } } .reexecute = true ∧
    (region1 { r (fault 2 0) none false with cs := [2] }).broken 1 = false ∧
    ({ region1 { r (fault 2 0) none false with cs := [2] } with mem := { withdrawn := [2] } } : State).broken 1 = true ∧
    (let x : Region := { r (fault 2 0) none false with staging := some seedImg, staged := none }
     x.staged.or x.staging = some seedImg) := by decide +kernel

/-! ## Time and tenures -/

/-- A ready module at a count, with changes to its time. -/
def timed (t : Time) (r : Region := {}) : State := { region1 r with time := t }

/-- The virtual device of members 0 and 1, of which this module is member 0. -/
def twoMembers : BitVec 640 := BitVec.ofNat 640 (1 + 2 * 2 ^ 32 + 1 * 2 ^ 136)

/-- Pair 0 to peer 1 carries traffic. -/
def peerUp (s : State) : State := { s with links := [(232, { st := .locked, lat := 200, width := 4, peer := 1 }), (488, { st := .locked, width := 32 })] }

theorem test_witness_Tenures_sample :
    let s := timed { count := 312500, sampled := false } { st := .running }
    s.boot.st = 3 ∧ s.time.sampled = false ∧ s.time.bprev + 312500 ≤ s.time.count ∧ (s.region 0).st = .free ∧ (s.region 1).st ≠ .free := by decide +kernel

/-- H at 95 °C and below, between the limits, and at 105 °C (23 R353): PCAP - 345 W, its half at 100 °C, 0; and classes 15, 0 and none of a region. -/
theorem test_tenure_sample :
    let on (tj : BitVec 16) : BitVec 11 × Option Nat :=
      let t := after (exec .tenureSample { timed { count := 312500, sampled := false } { st := .running, w := 16, h := 8 } with power := { tj := tj } })
      (t.power.thead, (t.region 1).nextGrant)
    on (95 * 64) = (1455, some 15) ∧ on (100 * 64) = (727, some 7) ∧ on (105 * 64) = (0, none) := by decide +kernel

theorem test_witness_Tenures_boundary :
    let alone := timed { count := 625000, nextTenure := 1 } { st := .running }
    let bundle := timed { count := 700, size := 2, bnext := some 700 } { st := .running }
    let quiet := timed { count := 1250000, size := 2, member := 1 }
    let vd (words : Tab Nat) (split : Bool) : State := timed { count := 700, size := 2, bnext := some 700 } { st := .running, vd := twoMembers, grantWords := words, split := split }
    let awaited := (vd [] false).setRegion 1 { (vd [] false).region 1 with awaits := [1] }
    alone.time.secCount + 625000 * alone.time.nextTenure ≤ alone.time.count ∧ bundle.time.bnext = some 700 ∧
    quiet.time.bprev + 1250000 ≤ quiet.time.count ∧ quiet.time.bnext = none ∧ tabWf ({} : Region) alone.regions = true ∧
    (vd [] false).vdPeers ((vd [] false).region 1) = [1] ∧ tabGet 0 ((vd [(1, 5)] false).region 1).grantWords 1 = 5 ∧ ((vd [(1, 5)] true).region 1).split = true ∧
    (awaited.region 1).awaits ≠ [] := by decide +kernel

theorem test_witness_Tenures_slots :
    let r (st : RegSt) (holds : Bool) : Region := { st := st, shared := true, slot := 2, holds := holds, startQ := [⟨0, 0, [], false⟩] }
    let s (holder : Bool) : State := (region1 (r .running holder)).setRegion 3 (r .yielded false)
    let row : BitVec 512 := BitVec.ofNat 512 ((35 + 33 * 2 ^ 6) * 2 ^ 32)
    slotNames row 2 = [3, 1] ∧ (s true).qualifies 2 3 = true ∧ (s true).qualifies 2 5 = false ∧ (s true).slotHolder 2 = some 1 ∧ (s false).slotHolder 2 = none ∧
    (s true).qualifies 2 1 = true ∧ ((s true).region 1).st = .running := by decide +kernel

theorem test_witness_Tenures_timeout :
    let n (h : Option Nat) : Time := { count := 312500, swaps := [⟨2, h, 3, some 312500⟩, ⟨4, h, 5, some 400000⟩] }
    ((n (some 1)).swaps.filter (fun y => y.late (n (some 1)))) = [⟨2, some 1, 3, some 312500⟩] ∧
    (timed (n (some 1)) { st := .yielding, shared := true, slot := 2, holds := true }).slotHolder 2 = some 1 ∧
    ((n none).swaps.filter (fun y => y.late (n none))).length = 1 := by decide +kernel

theorem test_witness_Tenures_words :
    let s := peerUp (timed { size := 2 } { st := .running, vd := twoMembers })
    let awaits := peerUp (timed { size := 2 } { st := .running, vd := twoMembers, awaits := [1] })
    s.vdPeers (s.region 1) = [1] ∧ 0 ∈ s.bundlePairs (s.bundleOf 1) ∧ (s.link 232).carries = true ∧
    (timed { size := 2 } { st := .running, vd := twoMembers }).livePairs 0 = [] ∧
    (1 ∈ (awaits.region 1).awaits ∧ awaits.livePairs (awaits.bundleOf 1) = [0]) := by decide +kernel

/-- A word of a peer that is the next to fall due. -/
theorem test_witness_Tenures_grantWord :
    let s : State := peerUp (timed { size := 2, sampled := true, bnext := some 625000, beat := 409600 } { st := .running, vd := twoMembers, awaits := [1] })
    s.timeDue.all (fun x => decide (312700 ≤ x.1)) = true ∧ s.time.count ≤ 312700 ∧ s.bundleLat (s.bundleOf 1) = 200 ∧ 1 ∈ (s.region 1).awaits := by
  decide +kernel

/-- A boundary beat of member 0 that is the next to fall due, and the beats' turn. -/
theorem test_witness_Tenures_beats :
    let s : State := { peerUp (timed { size := 2, member := 1, sampled := true, beat := 8192 }) with boot := { st := 3, fabric := true } }
    s.time.bnext = none ∧ s.livePairs (s.bundleOf 0) = [0] ∧ s.timeDue.all (fun x => decide (4296 ≤ x.1)) = true ∧
    (2048 + 4096 : Nat) + s.bundleLat (s.bundleOf 0) - 2048 = 4296 := by decide +kernel

theorem test_witness_Tenures_time :
    let send := timed { count := 625000, size := 2, nextTenure := 1 }
    let member := timed { count := 10, size := 2, member := 1 }
    let beat := peerUp { timed { count := 4096, beat := 4096 } with boot := { st := 3, fabric := true } }
    let due : Time := { count := 200, beats := [⟨1, 200, 0⟩] }
    (send.boot.st = 3 ∧ send.time.member = 0 ∧ send.time.bnext = none ∧ send.time.secCount + 625000 * send.time.nextTenure ≤ send.time.count) ∧
    (member.time.bnext = none ∧ member.time.count < (11 : Word).toNat) ∧
    (beat.time.count = beat.time.beat ∧ beat.time.beat % 4096 = 0 ∧ beat.livePairs 0 = [0] ∧ beat.livePairs 1 = []) ∧
    due.beats.find? (fun y => y.peer == 1) = some ⟨1, 200, 0⟩ ∧
    (({ count := 1250000000 } : Time).ppsok = false ∧ 0 + 1250000000 ≤ ({ count := 1250000000 } : Time).count) ∧
    (({ count := 1875000000, ppsok := true } : Time).tcount.toNat + 1875000000 ≤ 1875000000) ∧
    110 * 64 ≤ (7040 : BitVec 16).toNat ∧ ({ tripping := true } : Power).tripping = true ∧ ({ tj := 7040 } : Power).trip = false := by decide +kernel

/-! ## Links -/

/-- A ready module with a link in a state. -/
def withLink (k : Nat) (l : Link) : State := { readyState with links := if k < 488 then [(k, l), (488, { st := .locked, width := 32 })] else [(488, l)] }

theorem test_witness_Links_training :
    let st (k : Nat) (l : Link) : LinkSt := ((withLink k l).link k).st
    st 5 { st := .training } = .training ∧ st 488 { st := .degraded, width := 8 } = .degraded ∧ ((withLink 240 { st := .training, attempts := 1 }).link 240).attempts < 2 ∧
    2 ≤ ((withLink 240 { st := .training, attempts := 2 }).link 240).attempts ∧ ((withLink 488 { st := .locked, width := 32 }).link 488).width.toNat = 32 ∧
    (16 : BitVec 8).toNat < (32 : BitVec 8).toNat ∧ ((withLink 488 { st := .degraded, width := 16 }).link 488).width.toNat ≤ 16 ∧
    ((withLink 240 { st := .locked }).link 240).st = .locked := by decide +kernel

/-- A pair that has lost lanes beside three that carry traffic, and beside one that has failed (20 R302, R304). -/
theorem test_witness_Links_pairs :
    let lk (x : LinkSt) : Link := { st := x, lat := 200, peer := 1 }
    let s (x : LinkSt) : State := { readyState with links := [(232, lk .degraded), (233, lk .locked), (234, lk .locked), (235, lk x), (484, lk .training),
      (488, { st := .locked, width := 32 })] }
    let active (s : State) : Nat := ((s.bundlePairs 0).filter (fun p => (s.link (232 + p)).st = .locked || (s.link (232 + p)).st = .degraded)).length
    ((s .locked).link 232).st = .degraded ∧ (s .locked).pairBundle 0 = some 0 ∧ active (s .locked) = 4 ∧ active (s .failed) = 3 ∧
    (s .failed).pairBundle 252 = none ∧ tabGet 0 (s .failed).spareFor 252 = 0 ∧ ((s .failed).link 484).st = .training ∧
    (s .failed).livePairs 0 = [0, 1, 2] ∧ (s .failed).linkWord 232 = 0x00C8_0301_0003 := by decide +kernel

theorem test_witness_Links_failures :
    let r : Region := { st := .running, holds := true, w := 2, h := 1, startQ := [⟨0, 0, [], false⟩] }
    let s := region1 r
    let pair := { peerUp (timed { size := 2 } { st := .running, vd := twoMembers }) with spareFor := [(252, 9), (253, 9), (254, 9), (255, 9)] }
    0 ∈ footLinks (placePos r.place r.w r.h) ∧ r.startQ ≠ [] ∧ 7 ∉ footLinks (placePos r.place r.w r.h) ∧ (s.region 1).holds = true ∧
    pair.pairBundle 0 = some 0 ∧ (pair.link 232).carries = true ∧
    (pair.bundlePairs 0).all (fun p => p == 0 || !(pair.link (232 + p)).carries) = true ∧ (pair.region 1).vdHas (pair.peerOf 0) = true ∧
    ((region1 { tiles := [{ hold := .word 5 }] }).regions.any (fun x => x.2.tiles.any (fun t => t.hold == .word 5))) = true := by decide +kernel

/-- The status of a mesh link that locked (20 R304). -/
theorem test_link_word : ({ st := .locked, lat := 2, width := 1 } : Link).word = 0x0002_0100_0002 := by decide +kernel

/-! ## The host -/

/-- The three states of `reaches`, counters and the window. -/
theorem test_witness_HostWindows_reach :
    State.reset.neruoUp = false ∧ readyState.neruoUp = true ∧ readyState.boot.st = 3 ∧ { readyState with boot := { st := 2 } }.neruoUp = true ∧
    ((region1 { ctrs := [(5, { value := 7, st := .signalled })] }).region 1).ctr 5 = { value := 7, st := .signalled } ∧
    ((region1 { ctrs := [(5, { st := .bound })] }).region 1).ctr 5 = { st := .bound } := by decide +kernel

/-- The lowest reason of a virtual-device record: none; a staged step; a rank that is no member; a member twice; one past the fabric; a rank of another
module; a reserved bit, and an unused entry that is not 0 (20 R314). -/
theorem test_witness_HostWindows_vd :
    let n (s : State) (v : Nat) : Nat := match exec (.vdRecordWrite 1 (BitVec.ofNat 640 v)) s with
      | .next t => if t.reqSeq = s.reqSeq then 0 else (((tabGet 0 t.reqLog 0).extractLsb' 24 8).toNat)
      | _ => 99
    let s := timed { size := 4, member := 1 }
    let ok := 1 + 2 * 2 ^ 32 + 1 * 2 ^ 40 + 1 * 2 ^ 136
    n s ok = 0 ∧ n (timed { size := 4, member := 1 } { st := .running, staged := some seedImg }) ok = 1 ∧ n s (ok + 2 * 2 ^ 40) = 2 ∧
    n s (ok + 1 * 2 ^ 128) = 3 ∧ n s (ok + 9 * 2 ^ 128) = 4 ∧ n s (ok + 1 * 2 ^ 136) = 5 ∧ n s (ok + 2 ^ 1) = 6 ∧ n s (ok + 2 ^ 144) = 6 := by decide +kernel

/-- Values of EVSIZE, EVBASE and CELBASE that are taken, and that are not. -/
theorem test_witness_HostWindows_ring :
    (6 ≤ 16 ∧ (2 ^ 6 : Word).toNat = 2 ^ 6 ∧ (2 ^ 16 : Word).toNat = 2 ^ 16) ∧ readyState.ring.head = readyState.ring.tail ∧
    { readyState.ring with tail := 1 }.head ≠ { readyState.ring with tail := 1 }.tail ∧
    (({ head := 9000 } : CelLog).base.toNat ≤ 8192 ∧ (8192 : Word).toNat ≤ ({ head := 9000 } : CelLog).head.toNat / 4096 * 4096 ∧ (8192 : Word).toNat % 4096 = 0) := by
  decide +kernel

/-- A module that is ready beside a graph of ASID 0 in device memory. -/
def windowed (f : Region → Region) (s : State) : State :=
  { s with boot := readyState.boot, links := readyState.links, asids := [(0, .bound 0)], regions := s.regions.map (fun x => (x.1, f x.2)) }

theorem test_witness_HostWindows_window :
    let s (f : Region → Region) : State := windowed f (onCond .conductor 0)
    let va : Word := 0x0100_0000_0000_0040
    let foot (r : Region) : Region := { r with staged := some { seedImg with foot := [⟨0x0100_0000_0000_0000, 1, false, true, false⟩] } }
    (s id).windowRefusal 9 va 64 true = 1 ∧ (s id).windowRefusal 0 (va + 8) 64 false = 2 ∧ (s id).windowRefusal 0 0x0100_0000_8000_0000 64 false = 2 ∧
    (s (fun r => { r with seals := [(0x0100_0000_0000_0000, 0x20_0000)] })).windowRefusal 0 va 64 true = 4 ∧ (s foot).windowRefusal 0 va 64 true = 5 ∧
    (s id).windowRefusal 0 va 64 true = 0 ∧ (s id).asidOwner 0 va = some 0 ∧ (s id).translate 0 va = some 64 ∧ ((s id).leafOf 0 va).isSome = true ∧
    (let u : State := { s id with mem := { (s id).mem with ecc := [(1, .double)] } }
     let u : State := { u with win := { u.win with va := va } }
     (u.eccRange 0 u.win.va 64).2 = false ∧ u.windowRefusal u.win.asid.toNat u.win.va 64 u.win.write = 0) ∧
    (s id).neruoUp = true ∧ { (s id).mem with table := memWrite (s id).mem.table 0x4000 8 (2 ^ 63) }.table ≠ (s id).mem.table ∧
    ({ s id with mem := { (s id).mem with table := memWrite (s id).mem.table 0x4000 8 (2 ^ 63) } }).windowRefusal 0 va 64 true = 3 := by decide +kernel

theorem test_witness_HostWindows_events :
    let s := { readyState with ring := { waiting := [⟨32, 6, 0, 0, 9⟩], size := 64 } }
    let m : Mem := { retire := [⟨3, 5, 0, false, []⟩] }
    (s.ring.waiting.length = 1 ∧ s.neruoUp = true ∧ s.ring.tail - s.ring.head ≠ s.ring.size) ∧
    [⟨1, 3, 33, 0, 9⟩, ⟨1, 4, 3, 0, 1⟩, ⟨1, 2, 0, 3, 0⟩, ⟨1, 1, 0, 6, 0⟩, ⟨1, 5, 0x20, 0, 0⟩].all Event.publishes = true ∧ (⟨1, 5, 0xF1, 0, 0⟩ : Event).publishes = false ∧
    (m.retireOf 3 5).map (·.retired) = some false ∧ tabGet Soft.none m.ecc 7 = .none := by decide +kernel

/-- What the host has not seen of a line: a running step's write, an ended step's, and one whose event it has not taken; and reads that go through, that come too
early, and that find no link (17 R291; 23 R346). -/
theorem test_witness_HostWindows_reads :
    let u (line : Nat) : Undo := ⟨line, 9, 0, false⟩
    let r : Region := { st := .running, run := some { freezingRun with fresh := [u 1] }, unpub := [u 2], shown := [⟨u 3, some 0, [5]⟩] }
    let s := region1 r
    ((s.region 1).unseen 1, (s.region 1).unseen 2, (s.region 1).unseen 3, (s.region 1).unseen 4) = ([9], [9], [9], []) ∧
    (s.hostRead (0x10000 + 0x400 + 8 * 5)).got = some 0 ∧ ((s.hostRead (0x10000 + 0x400 + 8 * 5)).region 1).shown = [] ∧
    ((s.hostRead (0x10000 + 0x400 + 8 * 6)).region 1).shown ≠ [] ∧
    (let b : State := { s with boot := { st := 2 } }
     (b.hostRead 0x2000).got = none ∧ (b.hostRead 0x2000).reqSeq = b.reqSeq + 1 ∧ (b.hostRead 0x1000).got = some (b.readAperture 0x1000)) ∧
    ({ s with links := [] } : State).neruoUp = false ∧
    (let t : State := region1 { r with mark := some { tiles := [], run := freezingRun, colls := [], collCount := [], ctrs := [], logged := 0, lines := [u 6] } }
     (t.region 1).mark ≠ none ∧ t.lineKept 1 6 = 9 ∧ t.lineKept 1 7 = 0 ∧ t.mem.line 6 = 0) := by decide +kernel

/-- Offsets of every range of the aperture, aligned and not. -/
theorem test_witness_HostWindows_offsets :
    [0x2000, 0x5018, 0x5020, 0x6030, 0x6038, 0x6040, 0x6048, 0x6050, 0x8008, 0x10000 + 0x400 * 31 + 8 * 63, 0x20000 + 0x80 * 31 + 8 * 9, 0x2FFFFFF8,
      0x4FF8, 0x100010, 0x100000, 0x100008, 0x100078].all (fun x => decide (x < 2 ^ 30 ∧ x % 8 = 0)) = true ∧
    (0x2004 : BitVec 30) &&& ~~~7 = 0x2000 := by decide +kernel

/-- An event as it stands in the ring: source, kind, code, payload at their bits (20 R306). -/
theorem test_event : (eventEntry ⟨7, 3, 33, 0, 5⟩ 2 9 4).extractLsb' 0 128 = 0x0000_0000_0000_0005_0002_2103_0000_0007 := by decide +kernel

/-! ## Boot, reset and the canonical form -/

theorem test_witness_Boot_states :
    let on (st : Nat) : State := { readyState with boot := { st := st } }
    State.reset.neruoUp = false ∧ (on 1).neruoUp = true ∧ State.reset.boot.st = 0 ∧ (on 1).boot.st = 1 ∧ ((on 2).boot.st = 2 ∧ (on 2).boot.fabric = false) ∧
    ((on 2).links.all (fun x => x.2.st != .training)) = true ∧ { (on 2).boot with fabric := true }.fabric = true ∧
    memRead ([] : Memory) 0 4 ≠ 0x46574C47 := by decide +kernel

theorem test_witness_Boot_fabric :
    let f : Fabric := { member := 0, size := 2, lat := [(1, 200)] }
    let lk (x : LinkSt) : Link := { st := x }
    let s : State := { readyState with
      boot := { st := 2 }, links := [(232, lk .training), (233, lk .training), (234, lk .failed), (236, lk .training), (488, { st := .locked, width := 32 })] }
    (s.links.all (fun x => x.2.st != .training || (decide (232 ≤ x.1) && decide (x.1 < 488))) = true ∧ s.boot.fabric = false ∧
      (s.link 232).st = .training ∧ (s.link 234).st ≠ .training ∧ (s.link 236).st = .training) ∧
    1 ≤ f.size ∧ f.size ≤ 64 ∧ f.member < f.size ∧ f.lat.all (fun x => decide (x.1 < f.size) && x.1 != f.member && decide (140 ≤ x.2.toNat) && decide (x.2.toNat ≤ 400)) = true ∧
    (f.lat.map (·.1)).Nodup ∧ tabWf {} s.links = true ∧
    (let t : State := { s with spareFor := [(252, 1), (253, 9)] }
     tabGet 0 t.spareFor 252 = 0 + 1 ∧ 1 < f.size ∧ (1, 200) ∈ f.lat ∧ tabGet 0 t.spareFor 253 = 8 + 1 ∧ ¬ 9 < f.size ∧ tabGet 0 t.spareFor 254 = 0) := by decide +kernel

theorem test_witness_Boot_registers :
    ((0 : BitVec 22).toNat + 2 ≤ 2 ^ 22) ∧ readyState.boot.slot = readyState.boot.slotb ∧ ({ readyState.boot with slotb := 1 }).slot ≠ ({ readyState.boot with slotb := 1 }).slotb ∧
    (400 ≤ (BitVec.extractLsb' 0 11 (1800 : Word)).toNat ∧ (BitVec.extractLsb' 0 11 (1800 : Word)).toNat ≤ 1800) ∧
    ((0x101 : Word).getLsbD 8 = true ∧ readyState.att.busy = false ∧ ((region1 { st := .running }).region 1).st ≠ .free) ∧
    ({ busy := true } : Attest).busy = true ∧ readyState.cel = {} := by decide +kernel

/-- After a power-on with empty flash the module fails in ROM with cause 1, and nothing runs (23 R346, R347). -/
theorem test_boot_empty : (after (exec .bootRom (after (exec .powerGood State.reset)))).boot.st = 7 ∧
    (after (exec .bootRom (after (exec .powerGood State.reset)))).boot.cause = 1 := by decide +kernel


theorem test_witness_CanonicalKept : CanonicalState State.reset ∧ nextOf (step State.reset) = true :=
  ⟨⟨by rfl, by rfl, by rfl, by rfl, by rfl, by rfl, by rfl, by rfl, by rfl, fun _ h => absurd h List.not_mem_nil, fun _ _ h => absurd h List.not_mem_nil⟩,
    by decide +kernel⟩

/-! ## Numbers -/

/-- The functions of R58 in F32: 1/3, √2, 1/√2, e, ln 2, tanh 0.5, 1/(1 + 1/e), each correctly rounded, worked out outside the model; and special inputs of
its table. -/
theorem test_functions :
    let on (f : ETy → Val → Nat) (code : Nat) : Nat := f .f32 (ETy.f32.val code)
    [on fnRcp 0x4040_0000, on fnSqrt 0x4000_0000, on fnRsq 0x4000_0000, on fnExp 0x3F80_0000, on fnLog 0x4000_0000, on fnTanh 0x3F00_0000, on fnSig 0x3F80_0000] =
      [0x3EAA_AAAB, 0x3FB5_04F3, 0x3F35_04F3, 0x402D_F854, 0x3F31_7218, 0x3EEC_9A9F, 0x3F3B_26A8] ∧
    [on fnRcp 0x8000_0000, on fnSqrt 0x8000_0000, on fnRsq 0x8000_0000, on fnExp 0xFF80_0000, on fnLog 0x3F80_0000, on fnLog 0, on fnTanh 0x8000_0000, on fnSig 0] =
      [0xFF80_0000, 0x8000_0000, 0xFF80_0000, 0, 0, 0xFF80_0000, 0x8000_0000, 0x3F00_0000] := by decide +kernel

/-- Class codes of BF16: NaN, −∞, a negative normal and subnormal, −0, +0, a positive subnormal and normal, +∞ (07 R145). -/
theorem test_classes : [0x7FC0, 0xFF80, 0xBF80, 0x8001, 0x8000, 0, 1, 0x3F80, 0x7F80].map (classCode .bf16) = [0, 1, 2, 3, 4, 5, 6, 7, 8] := by decide +kernel

/-- Comparisons of F32 with a NaN and of zeros (04 R60; 07 R148): only NE and UN hold beside a NaN, and +0 equals −0. -/
theorem test_compares :
    [CmpOp.eq, .ne, .lt, .le, .gt, .ge, .un, .ord].map (fun cc => cmpHolds cc .f32 0x7FC0_0000 0x3F80_0000) = [false, true, false, false, false, false, true, false] ∧
    [CmpOp.eq, .lt, .le].map (fun cc => cmpHolds cc .f32 0 0x8000_0000) = [true, false, true] := by decide +kernel

theorem test_witness_SnapshotRule : (524287 : Nat) < 2 ^ 19 ∧ (3 : Nat) < 4 ∧ (15 : Nat) < 16 ∧ (127 : Nat) < 128 ∧ AtomOp.min64 ≠ .add128 := by decide +kernel

/-- The last lane of each operation of VectorConversions, the first and the last lane of a window and of a group, and operands of VTOPK: three of
four present lanes, two of them of one rank. -/
theorem test_witness_VectorConversions :
    [(VOp.bcasti .bf16, 255), (.lane .f32, 127), (.draw .f32, 127), (.cvt true .rne .e4m3, 127), (.cvt false .sr .f16, 255), (.addw .i8 3, 127),
      (.madw .f32, 31)].all (fun x => decide (x.2 < 4096 / x.1.dstTy.width) && !decide (x.2 + 1 < 4096 / x.1.dstTy.width)) = true ∧
    (ETy.i8, ETy.i32) ∈ widenings ∧ (ETy.f32, ETy.w96) ∈ widenings ∧ 3 < ETy.i32.width / ETy.i8.width ∧
    (let val (l : Nat) : Nat := [7, 9, 9, 5].getD l 0
     let idx (l : Nat) : Nat := [0, 2, 1, 3].getD l 0
     let present := (List.range 128).filter (fun l => (0b0111 : BitVec 512).getLsbD l)
     let above (l m : Nat) : Bool := decide (rankOf .u32 (val l) < rankOf .u32 (val m)) ||
       (decide (rankOf .u32 (val l) = rankOf .u32 (val m)) && decide (idx m < idx l))
     present = [0, 1, 2] ∧ present.all (fun l => present.all (fun m => val l != val m || idx l != idx m || l == m)) = true ∧
     present.map (fun l => (present.filter (above l)).length) = [2, 1, 0] ∧ tabWf 0 ([(16, 1)] : List (Nat × BitVec 4096)) = true) := by decide +kernel

/-- Special inputs of the functions, and others. -/
theorem test_witness_VectorFunctions :
    let x (op : VOp) (code : Nat) : Bool := (specialOf op (ETy.f16.val code)).isSome
    [(VOp.rcp .f16, 0x8000), (.sqrt .f16, 0xBC00), (.rsq .f16, 0x7C00), (.exp .f16, 0x7E00), (.log .f16, 0), (.tanh .f16, 0xFC00), (.sig .f16, 0)].all
      (fun y => x y.1 y.2) = true ∧
    [VOp.rcp .f16, .sqrt .f16, .rsq .f16].all (fun op => !x op 0x4200) = true ∧ ETy.f16.isFL = true ∧ 255 < ETy.f16.lanes ∧ ETy.f16.flt.isSome = true ∧
    (match ETy.f16.val 0x4200 with
      | .fin s n e => !s && n == 1536 && e == -9
      | _ => false) = true := by decide +kernel

/-- VLOG of 1/2 and of 2 in F16: their logarithms are -0.693 and 0.693, and 1420/2048 is the nearest code's value. -/
theorem test_witness_VectorTranscendentals :
    let grid (k : Nat) : ℝ :=
      if k < 2 ^ 10 then k * (2 : ℝ) ^ (-24 : Int) else (2 ^ 10 + k % 2 ^ 10 : Nat) * (2 : ℝ) ^ ((-24 : Int) + (k / 2 ^ 10 : Nat) - 1)
    let fits (y : ℝ) : Prop := grid (14732 - 1) + grid 14732 + (2 : ℝ) ^ (-200 : Int) ≤ 2 * |y| ∧
      2 * |y| + (2 : ℝ) ^ (-200 : Int) ≤ grid 14732 + grid (14732 + 1)
    (ETy.f16.flt.map (fun f => (f.mbits, f.uMin, f.maxCode)) = some (10, -24, 0x7BFF) ∧ 14732 ≤ 0x7BFF + 1) ∧
    (ETy.f16.val 0x3800 = .fin false 1024 (-11) ∧ specialOf (.log .f16) (.fin false 1024 (-11)) = none ∧
      Real.log (1024 * (2 : ℝ) ^ (-11 : Int)) < 0 ∧ fits (Real.log (1024 * (2 : ℝ) ^ (-11 : Int)))) ∧
    (ETy.f16.val 0x4000 = .fin false 1024 (-9) ∧ specialOf (.log .f16) (.fin false 1024 (-9)) = none ∧
      0 < Real.log (1024 * (2 : ℝ) ^ (-9 : Int)) ∧ fits (Real.log (1024 * (2 : ℝ) ^ (-9 : Int)))) := by
  have lo := Real.log_two_gt_d9
  have hi := Real.log_two_lt_d9
  have half : (1024 : ℝ) * (2 : ℝ) ^ (-11 : Int) = 2⁻¹ := by norm_num
  have two : (1024 : ℝ) * (2 : ℝ) ^ (-9 : Int) = 2 := by norm_num
  have gap : (2 : ℝ) ^ (-200 : Int) ≤ 0.00001 := by norm_num
  have pos : |Real.log 2| = Real.log 2 := abs_of_pos (by linarith)
  intro grid fits
  have near : grid (14732 - 1) + grid 14732 = 2839 / 2048 := by norm_num [grid]
  have next : grid 14732 + grid (14732 + 1) = 2841 / 2048 := by norm_num [grid]
  refine ⟨⟨by rfl, by decide⟩, ⟨by rfl, by rfl, ?_, ?_⟩, by rfl, by rfl, ?_, ?_⟩
  · rw [half, Real.log_inv]; linarith
  · simp only [fits]
    rw [half, Real.log_inv, abs_neg, pos, near, next]
    constructor <;> linarith
  · rw [two]; linarith
  · simp only [fits]
    rw [two, pos, near, next]
    constructor <;> linarith

end Sys2Proof.Tests
end

section
/-! PROOFS. What the decoder refuses: an OP that 03 R46 does not mark legal on a sequencer, with the cause of 03 R47, and a form
of another stream (03 R38). -/

namespace Sys2Proof.Decoding

/-! ## Checks -/

@[simp] theorem chk_eq_ok (c : Nat) (b : Bool) (r : Dec) (i : Instr) : chk c b r = .ok i ↔ b = true ∧ r = .ok i := by
  cases b <;> simp [chk]

theorem condWrap_error_of_le {c : Nat} (plain guarded : Bool) (hc : c ≤ 3) : condWrap plain guarded (.error c) = .error c := by
  have h6 : min 6 c = c := by omega
  have h3 : min 3 c = c := by omega
  simp [condWrap, h6, h3]

/-! ## The cause of a reserved OP -/

/-- The cause of an OP that some sequencer kind rejects, where `accepts` says which kinds accept it (03 R47). -/
def ReservedCause (accepts : SeqKind → Bool) (c : Nat) : Prop :=
  ((∃ k, accepts k = true) ∧ c = 2) ∨ ((∀ k, accepts k = false) ∧ c = 1)

theorem ReservedCause.le_two {accepts : SeqKind → Bool} {c : Nat} (h : ReservedCause accepts c) : c ≤ 2 := by
  obtain ⟨-, rfl⟩ | ⟨-, rfl⟩ := h <;> decide

theorem reservedCause_two {accepts : SeqKind → Bool} (k : SeqKind) (h : accepts k = true) : ReservedCause accepts 2 :=
  .inl ⟨⟨k, h⟩, rfl⟩

/-! ## R-format words -/

/-- A code of 03 R44 has some owner in 03 R46, and the other way round. -/
theorem rKnown_iff (op : BitVec 7) : rKnown op = true ↔ ∃ k, rAccepts k op.toNat = true := by
  have hlt := op.isLt
  constructor
  · intro h
    have hrow : op.toNat ≤ 0x29 ∨ (0x30 ≤ op.toNat ∧ op.toNat ≤ 0x3A) ∨ (0x40 ≤ op.toNat ∧ op.toNat ≤ 0x75) ∨ 0x78 ≤ op.toNat := by
      simpa [rKnown, or_assoc] using h
    obtain hrow | hrow | hrow | hrow := hrow
    · exact ⟨.load, by simp [rAccepts, hrow]⟩
    · exact ⟨.store, by simp [rAccepts, hrow]⟩
    · exact ⟨.exec, by simp [rAccepts, hrow]⟩
    · exact ⟨.ctl, by simp [rAccepts, hrow]; omega⟩
  · rintro ⟨k, h⟩
    cases k <;> simp [rAccepts, rKnown] at h ⊢ <;> omega

theorem rReserved_cause (op : BitVec 7) : ∃ c, rReserved op = .error c ∧ ReservedCause (rAccepts · op.toNat) c := by
  refine ⟨_, rfl, ?_⟩
  by_cases h : rKnown op = true
  · rw [if_pos h]
    exact .inl ⟨(rKnown_iff op).mp h, rfl⟩
  · rw [if_neg h]
    exact .inr ⟨by simpa using mt (rKnown_iff op).mpr h, rfl⟩

/-- TICK and IDX are the shared codes that conductors lack (03 R46). -/
theorem decShared_reserved {k : SeqKind} {w : BitVec 32} (hlow : (rOp w).toNat < 0x20) (h : rAccepts k (rOp w).toNat = false) :
    decShared k w = .error 2 := by
  have hcode : k.isStream = false ∧ ((rOp w).toNat = 0x1A ∨ (rOp w).toNat = 0x1B) := by
    cases k <;> simp [rAccepts, SeqKind.isStream] at h ⊢ <;> omega
  obtain ⟨hk, hop | hop⟩ := hcode
  · simp [decShared, show rOp w = 0x1A from BitVec.eq_of_toNat_eq hop, hk]
  · simp [decShared, show rOp w = 0x1B from BitVec.eq_of_toNat_eq hop, hk]

/-! A stream's or conductor's own decoder lists the codes of its rows of 03 R46, so a code outside them reaches its last arm. -/

theorem decLoad_reserved {w : BitVec 32} (h : ¬ (0x20 ≤ (rOp w).toNat ∧ (rOp w).toNat ≤ 0x29)) : decLoad w = rReserved (rOp w) := by
  unfold decLoad
  split <;> simp_all

theorem decStore_reserved {w : BitVec 32} (h : ¬ (0x30 ≤ (rOp w).toNat ∧ (rOp w).toNat ≤ 0x3A)) : decStore w = rReserved (rOp w) := by
  unfold decStore
  split <;> simp_all

theorem decExec_reserved {w : BitVec 32} (h : ¬ (0x40 ≤ (rOp w).toNat ∧ (rOp w).toNat ≤ 0x75)) : decExec w = rReserved (rOp w) := by
  unfold decExec
  split <;> simp_all

theorem decCtl_reserved {w : BitVec 32} (h : ¬ 0x78 ≤ (rOp w).toNat) : decCtl w = rReserved (rOp w) := by
  unfold decCtl
  split <;> simp_all

theorem decCond_reserved {w : BitVec 32} (h : ¬ (0x20 ≤ (rOp w).toNat ∧ (rOp w).toNat ≤ 0x26))
    (h' : ¬ (0x78 ≤ (rOp w).toNat ∧ (rOp w).toNat ≤ 0x7A)) : decCond w = rReserved (rOp w) := by
  unfold decCond
  split <;> simp_all

theorem decService_eq_decCond {w : BitVec 32} (h : ¬ (0x30 ≤ (rOp w).toNat ∧ (rOp w).toNat ≤ 0x34)) : decService w = decCond w := by
  unfold decService
  split <;> simp_all

/-- Past the shared codes, each kind's own decoder refuses what its rows of 03 R46 leave out. -/
theorem decodeR_reserved_of_ge {k : SeqKind} {w : BitVec 32} (hge : ¬ (rOp w).toNat < 0x20) (h : rAccepts k (rOp w).toNat = false) :
    decodeR k w = rReserved (rOp w) := by
  have hlt := (rOp w).isLt
  unfold decodeR
  rw [if_neg hge]
  cases k with
  | load => exact decLoad_reserved (by simp [rAccepts] at h; omega)
  | store => exact decStore_reserved (by simp [rAccepts] at h; omega)
  | exec => exact decExec_reserved (by simp [rAccepts] at h; omega)
  | ctl => exact decCtl_reserved (by simp [rAccepts] at h; omega)
  | conductor => exact decCond_reserved (by simp [rAccepts] at h; omega) (by simp [rAccepts] at h; omega)
  | service =>
    exact (decService_eq_decCond (by simp [rAccepts] at h; omega)).trans
      (decCond_reserved (by simp [rAccepts] at h; omega) (by simp [rAccepts] at h; omega))

theorem decodeR_reserved {k : SeqKind} {w : BitVec 32} (h : rAccepts k (rOp w).toNat = false) :
    ∃ c, decodeR k w = .error c ∧ ReservedCause (rAccepts · (rOp w).toNat) c := by
  by_cases hlow : (rOp w).toNat < 0x20
  · refine ⟨2, by simp only [decodeR, if_pos hlow, decShared_reserved hlow h], reservedCause_two .load ?_⟩
    simp [rAccepts]
    omega
  · rw [decodeR_reserved_of_ge hlow h]
    exact rReserved_cause (rOp w)

/-! ## I-format and W-format words -/

theorem iAccepts_of_ge {n : Nat} (h : 0x14 ≤ n) (k : SeqKind) : iAccepts k n = false := by
  cases k <;> simp [iAccepts, SeqKind.isStream] <;> omega

theorem decodeI_reserved_of_ge {w : BitVec 32} (k : SeqKind) (h : 0x14 ≤ (iOp w).toNat) : decodeI k w = .error 1 := by
  unfold decodeI
  split <;> simp_all

/-- The rows of 03 R46 that some kinds lack: LOOP, WAITD and FORMLD are every stream's, LDXO, STXO and VBCASTI one stream's each. -/
theorem decodeI_reserved {k : SeqKind} {w : BitVec 32} (h : iAccepts k (iOp w).toNat = false) :
    ∃ c, decodeI k w = .error c ∧ ReservedCause (iAccepts · (iOp w).toNat) c := by
  have hcode : 0x14 ≤ (iOp w).toNat ∨
      (k.isStream = false ∧ (iOp w = 0x0E ∨ iOp w = 0x0F ∨ iOp w = 0x10)) ∨
      (k ≠ .load ∧ iOp w = 0x11) ∨ (k ≠ .store ∧ iOp w = 0x12) ∨ (k ≠ .exec ∧ iOp w = 0x13) := by
    simp only [← BitVec.toNat_inj]
    cases k <;> simp [iAccepts, SeqKind.isStream] at h ⊢ <;> omega
  obtain hge | ⟨hk, hop⟩ | ⟨hk, hop⟩ | ⟨hk, hop⟩ | ⟨hk, hop⟩ := hcode
  · exact ⟨1, decodeI_reserved_of_ge k hge, .inr ⟨iAccepts_of_ge hge, rfl⟩⟩
  · obtain hop | hop | hop := hop <;>
      exact ⟨2, by simp [decodeI, hop, hk], reservedCause_two .load (by rw [hop]; rfl)⟩
  · exact ⟨2, by simp [decodeI, hop, hk], reservedCause_two .load (by rw [hop]; rfl)⟩
  · exact ⟨2, by simp [decodeI, hop, hk], reservedCause_two .store (by rw [hop]; rfl)⟩
  · exact ⟨2, by simp [decodeI, hop, hk], reservedCause_two .exec (by rw [hop]; rfl)⟩

theorem wAccepts_of_ge {n : Nat} (h : 5 ≤ n) (k : SeqKind) : wAccepts k n = false := by
  simp [wAccepts]
  omega

theorem decodeW_reserved_of_ge {w : BitVec 32} (k : SeqKind) (h : 5 ≤ (wOp w).toNat) : decodeW k w = .error 1 := by
  unfold decodeW
  split <;> simp_all

/-- WAITT is the one code of 03 R46 that only streams have. -/
theorem decodeW_reserved {k : SeqKind} {w : BitVec 32} (h : wAccepts k (wOp w).toNat = false) :
    ∃ c, decodeW k w = .error c ∧ ReservedCause (wAccepts · (wOp w).toNat) c := by
  have hcode : 5 ≤ (wOp w).toNat ∨ (k.isStream = false ∧ wOp w = 4) := by
    simp only [← BitVec.toNat_inj]
    cases k <;> simp [wAccepts, SeqKind.isStream] at h ⊢ <;> omega
  obtain hge | ⟨hk, hop⟩ := hcode
  · exact ⟨1, decodeW_reserved_of_ge k hge, .inr ⟨wAccepts_of_ge hge, rfl⟩⟩
  · exact ⟨2, by simp [decodeW, hop, hk], reservedCause_two .load (by rw [hop]; rfl)⟩

/-! ## P-format words -/

/-- The form opcodes and their streams, row by row (03 R38). -/
def formRows : List (SeqKind × BitVec 8) :=
  [(.load, 1), (.store, 2), (.exec, 3), (.exec, 4), (.ctl, 5), (.ctl, 6), (.exec, 7), (.ctl, 8), (.load, 9)]

theorem decodeForm_ok_mem {k : SeqKind} {h : HeadP} {f : BitVec 128} {i : Instr} (hd : decodeForm k h f = .ok i) :
    (k, formFopc f) ∈ formRows := by
  unfold decodeForm at hd
  split at hd
  case h_10 => contradiction
  all_goals
    rename_i hop
    simp [formRows, hop]

/-- The mask of a form's field 0. -/
theorem getLsbD_fieldMask {n : Nat} (h : n < 128) : (0xFFFF#128).getLsbD n = decide (n < 16) := by
  rw [BitVec.getLsbD_ofNat, decide_eq_true h, Bool.true_and]
  exact Nat.testBit_two_pow_sub_one 16 n

/-- Field FIELD of a patched form is VALUE, and every other bit is the stored one (03 R36). -/
theorem getLsbD_patchForm {fld : BitVec 4} (form : BitVec 128) (v : BitVec 16) (hfld : fld.toNat < 8) {j : Nat} (hj : j < 128) :
    (patchForm form fld v).getLsbD j =
      if 16 * fld.toNat ≤ j ∧ j < 16 * fld.toNat + 16 then v.getLsbD (j - 16 * fld.toNat) else form.getLsbD j := by
  have hmask := getLsbD_fieldMask (show j - 16 * fld.toNat < 128 by omega)
  rw [patchForm, if_pos hfld]
  split
  case isTrue hin =>
    simp [hmask, hj, show ¬ j < 16 * fld.toNat by omega, show j - 16 * fld.toNat < 16 by omega]
  case isFalse hout =>
    by_cases hlow : j < 16 * fld.toNat
    · simp [hj, hlow]
    · have hhigh : 16 ≤ j - 16 * fld.toNat := by omega
      simp [-BitVec.getLsbD_eq_getElem, hmask, hj, hlow, hhigh]

/-- A patch of FIELD 7 replaces FOPC by VALUE[15:8] (03 R36). -/
theorem formFopc_patchForm_seven (form : BitVec 128) (v : BitVec 16) : formFopc (patchForm form 7 v) = v.extractLsb' 8 8 := by
  ext i hi
  have hbit := getLsbD_patchForm (fld := 7) form v (by decide) (show 120 + i < 128 by omega)
  rw [if_pos (by simp; omega), show 120 + i - 16 * (7 : BitVec 4).toNat = 8 + i by simp; omega] at hbit
  simpa [formFopc] using hbit

/-- A patch of any other field leaves FOPC as it is stored (03 R36). -/
theorem formFopc_patchForm_of_ne {fld : BitVec 4} (form : BitVec 128) (v : BitVec 16) (h : fld ≠ 7) :
    formFopc (patchForm form fld v) = formFopc form := by
  by_cases hfld : fld.toNat < 8
  · have hne : fld.toNat ≠ 7 := fun h7 => h (BitVec.eq_of_toNat_eq h7)
    ext i hi
    have hbit := getLsbD_patchForm form v hfld (show 120 + i < 128 by omega)
    rw [if_neg (by omega)] at hbit
    simpa [formFopc] using hbit
  · rw [patchForm, if_neg hfld]

/-- A P word that decodes names a stored form of the stream's own: a patch cannot turn one form opcode into another (03 R36, R38). -/
theorem decodeP_ok_mem {k : SeqKind} {form : BitVec 128} {w : BitVec 32} {i : Instr} (h : decodeP k form w = .ok i) :
    (k, formFopc form) ∈ formRows := by
  unfold decodeP at h
  split at h
  · contradiction
  · simp only [chk_eq_ok] at h
    obtain ⟨-, hsame, hform⟩ := h
    have hrow := decodeForm_ok_mem hform
    by_cases hfld : (pHead w).fld = 7
    · have hv : (pHead w).value.extractLsb' 8 8 = formFopc form := by simpa [hfld] using hsame
      rwa [hfld, formFopc_patchForm_seven, hv] at hrow
    · rwa [formFopc_patchForm_of_ne form _ hfld] at hrow

theorem decodeP_reserved {k : SeqKind} (form : BitVec 128) (w : BitVec 32) (h : k.isStream = false) : decodeP k form w = .error 2 := by
  simp [decodeP, h]

/-! ## A word of any class -/

theorem fClass_cases (w : BitVec 32) : fClass w = 0 ∨ fClass w = 1 ∨ fClass w = 2 ∨ fClass w = 3 := by
  generalize fClass w = c
  revert c
  decide

theorem condWrap_reserved {accepts : SeqKind → Bool} {r : Dec} (plain guarded : Bool)
    (h : ∃ c, r = .error c ∧ ReservedCause accepts c) : ∃ c, condWrap plain guarded r = .error c ∧ ReservedCause accepts c := by
  obtain ⟨c, rfl, hc⟩ := h
  exact ⟨c, condWrap_error_of_le plain guarded (by have := hc.le_two; omega), hc⟩

/-- An OP that 03 R46 does not mark legal on a sequencer is illegal there under the cause of 03 R47, whatever else the word breaks. -/
theorem decode_reserved {k : SeqKind} {w : BitVec 32} (form : BitVec 128) (h : opAccepts k w = false) :
    ∃ c, decode k form w = .error c ∧ ReservedCause (opAccepts · w) c := by
  obtain hc | hc | hc | hc := fClass_cases w
  · simp only [opAccepts, decode, hc] at h ⊢
    exact condWrap_reserved _ _ (decodeR_reserved h)
  · simp only [opAccepts, decode, hc] at h ⊢
    exact condWrap_reserved _ _ (decodeI_reserved h)
  · simp only [opAccepts, decode, hc] at h ⊢
    exact condWrap_reserved _ _ (decodeW_reserved h)
  · simp only [opAccepts, decode, hc] at h ⊢
    exact ⟨2, decodeP_reserved form w h, reservedCause_two .load rfl⟩

theorem decode_ok_opAccepts {k : SeqKind} {form : BitVec 128} {w : BitVec 32} {i : Instr} (h : decode k form w = .ok i) :
    opAccepts k w = true := by
  by_contra hno
  obtain ⟨c, herr, -⟩ := decode_reserved form (Bool.eq_false_of_not_eq_true hno)
  exact nomatch h.symm.trans herr

theorem decode_ok_form {k : SeqKind} {form : BitVec 128} {w : BitVec 32} {i : Instr} (h : decode k form w = .ok i)
    (hc : fClass w = 3) : (k, formFopc form) ∈ formRows :=
  decodeP_ok_mem (by rwa [decode, hc] at h)

/-! ## O3 -/

/-- Settles O3: an OP that the table leaves out has its cause by `decode_reserved`, so what decodes is marked; a P word that decodes
names a row of R38. -/
theorem reservedCodes : Obligations.ReservedCodes := by
  intro k form w
  refine ⟨fun i h => ⟨decode_ok_opAccepts h, fun hc => ?_⟩, fun hno => ?_⟩
  · have hrow := decode_ok_form h hc
    simp only [formRows, List.mem_cons, Prod.mk.injEq, List.not_mem_nil, or_false] at hrow
    obtain ⟨rfl, hop⟩ | ⟨rfl, hop⟩ | ⟨rfl, hop⟩ | ⟨rfl, hop⟩ | ⟨rfl, hop⟩ | ⟨rfl, hop⟩ | ⟨rfl, hop⟩ | ⟨rfl, hop⟩ | ⟨rfl, hop⟩ := hrow <;>
      rw [show form.extractLsb' 120 8 = _ from hop] <;> rfl
  · obtain ⟨c, herr, ⟨⟨k', hk'⟩, rfl⟩ | ⟨hnone, rfl⟩⟩ := decode_reserved form hno
    · exact ⟨fun _ => herr, fun hnone => by simp [hnone k'] at hk'⟩
    · exact ⟨fun ⟨k', hk'⟩ => by simp [hnone k'] at hk', fun _ => herr⟩

end Sys2Proof.Decoding
end

section
/-! PROOFS. How the active LOOPs of a stream change: what a word that no branch leaves does to them, what LOOP pushes, and when the
stage predicate that they give is true (05 R93, R94). -/

namespace Sys2Proof.Machine

/-! ## The tile of a stream that issued -/

/-- A region that has a tile is not the empty one, so its tile is read back. -/
theorem tile_setRegion (s : State) (rid : Nat) (r : Region) (i : Nat) (t : Tile) (h : r.tiles[i]? = some t) :
    ((s.setRegion rid r).region rid).tiles[i]? = some t := by
  have hne : r ≠ {} := by
    rintro rfl
    simp at h
  rw [region_setRegion_of_ne _ _ _ hne, h]

theorem tile_setRegion_modTile (s : State) (rid : Nat) (r : Region) (i : Nat) (f : Tile → Tile) (t : Tile)
    (h : r.tiles[i]? = some t) : ((s.setRegion rid (r.modTile i f)).region rid).tiles[i]? = some (f t) :=
  tile_setRegion _ _ _ _ _ (by rw [modTile_tile, h, Option.map_some])

theorem ctx_tile (s : State) (c : Ctx) (h : s.ctx = some c) : (s.region c.rid).tiles[c.tile]? = some c.tl := by
  obtain ⟨-, hr, -, ht, -⟩ := ctx_eq s c h
  rwa [← hr]

@[simp] theorem goOn_stream (tl : Tile) (k : SeqKind) (t pc base : Nat) (ls : List Loop) (rotb : Nat) :
    (tl.goOn k t pc base ls rotb).stream k =
      { tl.stream k with pc := pc, base := base, loops := ls, lastPc := (tl.stream k).pc, lastTick := some t,
                         st := if t + 1 < base then (tl.stream k).st else .running } := by
  cases k <;> rfl

/-- The end of a DRIFT window leaves the streams of the tile as they are. -/
theorem driftWatch_stream (c : Ctx) (s : State) (t : Tile) (h : (s.region c.rid).tiles[c.tile]? = some t) :
    ∃ u, ((c.driftWatch s).region c.rid).tiles[c.tile]? = some u ∧ ∀ k, u.stream k = t.stream k := by
  unfold Ctx.driftWatch
  split
  · exact ⟨t, h, fun _ => rfl⟩
  · exact ⟨t, h, fun _ => rfl⟩
  · split
    · exact ⟨_, tile_setRegion_modTile _ _ _ _ _ _ h, fun k => by cases k <;> rfl⟩
    · exact ⟨t, h, fun _ => rfl⟩

/-! ## The active LOOPs after a word -/

/-- Where the last body word issues the next kernel iteration begins, or the LOOP leaves (05 R93). -/
theorem stepPc_loops (x : Stream) (rotb pc : Nat) (l : Loop) (ls : List Loop) (h : x.loops = l :: ls) :
    (stepPc x rotb pc).2.1 =
      if pc ≠ l.last then l :: ls else if l.m < l.trips + l.n - 1 then { l with m := l.m + 1 } :: ls else ls := by
  simp only [stepPc, h, ne_eq, ite_not]
  split
  · split <;> rfl
  · rfl

theorem finish_done_loops (c : Ctx) (t : State) (occ : Nat) (tl : Tile) (ht : (t.region c.rid).tiles[c.tile]? = some tl) :
    ∃ u, ((c.finish (.done t occ)).region c.rid).tiles[c.tile]? = some u ∧
      (u.stream c.k).loops = (stepPc (tl.stream c.k) tl.rotb c.pc).2.1 :=
  ⟨_, tile_setRegion_modTile _ _ _ _ _ _ ht, by simp⟩

theorem finish_wait_loops (c : Ctx) (t : State) (base : Nat) (tl : Tile) (ht : (t.region c.rid).tiles[c.tile]? = some tl) :
    ∃ u, ((c.finish (.wait t base)).region c.rid).tiles[c.tile]? = some u ∧
      (u.stream c.k).loops = (stepPc (tl.stream c.k) tl.rotb c.pc).2.1 := by
  refine ⟨_, tile_setRegion_modTile _ _ _ _ _ _ ht, ?_⟩
  dsimp only
  split <;> simp

theorem finish_loop_loops (c : Ctx) (t : State) (l : Loop) (len : Nat) (tl : Tile)
    (ht : (t.region c.rid).tiles[c.tile]? = some tl) :
    ∃ u, ((c.finish (.loop t (some l) len)).region c.rid).tiles[c.tile]? = some u ∧
      (u.stream c.k).loops = l :: (tl.stream c.k).loops :=
  ⟨_, tile_setRegion_modTile _ _ _ _ _ _ ht, by simp⟩

/-! ## LOOP -/

/-- A LOOP that nests as 05 R93 allows and has a trip left pushes itself at kernel iteration 1. -/
theorem exec_loop_pushes (s : State) (c : Ctx) (h : Head) (n : BitVec 3) (rot : Bool) (a : BitVec 4) (len : BitVec 10)
    (hi : Issues s c (.loop h n rot a len)) (hroom : c.x.loops.length < 4)
    (hnest : ∀ l ls, c.x.loops = l :: ls → c.pc + 4 * len.toNat < l.last) (htrip : c.rd a ≠ 0) :
    exec (.loop h n rot a len) s = .next (c.after
      (.loop s (some ⟨c.pc + 4, c.pc + 4 * len.toNat, n.toNat, rot, 1, (c.rd a).toNat⟩) len.toNat)) := by
  refine (issue_runs _ s _ c hi.ctx hi.legal hi.guard).trans ?_
  cases hl : c.x.loops with
  | nil => simp only [Ctx.after, Bool.false_eq_true, if_false, if_neg htrip]
  | cons l ls =>
    have hlen : ¬ 4 ≤ (l :: ls).length := by rw [← hl]; omega
    have hlast : ¬ l.last ≤ c.pc + 4 * len.toNat := Nat.not_le.2 (hnest l ls hl)
    simp only [Ctx.after, decide_eq_false hlen, decide_eq_false hlast, Bool.or_self, Bool.false_eq_true, if_false,
      if_neg htrip]

/-! ## The stage predicate -/

/-- The stage predicate of a word inside a LOOP is that of the innermost one (05 R94). -/
theorem guardOn_eq (c : Ctx) (l : Loop) (ls : List Loop) (h : c.x.loops = l :: ls) :
    let i := (stageGuard c.k (tabGet 0 c.x.forms (pForm c.word).toNat) c.word).toNat
    c.guardOn = decide (i = 0 ∨ (i ≤ l.m ∧ l.m + 1 ≤ i + l.trips)) := by
  unfold Ctx.guardOn
  simp only [h]
  generalize stageGuard _ _ _ = g
  split
  case isTrue h0 => simp [h0]
  case isFalse h0 =>
    have hpos : g.toNat ≠ 0 := fun hz => h0 (BitVec.eq_of_toNat_eq hz)
    have hle : l.m ≤ g.toNat + l.trips - 1 ↔ l.m + 1 ≤ g.toNat + l.trips := by omega
    simp [hpos, hle]

/-! ## O9 -/

/-- Settles O9: the predicate by `guardOn_eq`, the iterations by `stepPc_loops`, the first one by `exec_loop_pushes`. -/
theorem stagePredicate : Obligations.StagePredicate := by
  refine ⟨guardOn_eq, ?_, ?_⟩
  · intro c t w tl l ls _ hw ht _ hl
    rw [← stepPc_loops _ tl.rotb c.pc l ls hl]
    obtain ⟨occ, rfl⟩ | ⟨base, rfl⟩ := hw
    · exact finish_done_loops c t occ tl ht
    · exact finish_wait_loops c t base tl ht
  · intro s c h n rot a len tl hi hroom hnest _ _ _ htrip
    obtain ⟨-, -, -, -, hx, -⟩ := ctx_eq s c hi.ctx
    obtain ⟨u, hu, hloops⟩ := finish_loop_loops c s ⟨c.pc + 4, c.pc + 4 * len.toNat, n.toNat, rot, 1, (c.rd a).toNat⟩
      len.toNat c.tl (ctx_tile s c hi.ctx)
    obtain ⟨v, hv, hsame⟩ := driftWatch_stream c _ u hu
    exact ⟨_, v, exec_loop_pushes s c h n rot a len hi hroom hnest htrip, hv, _,
      by rw [hsame, hloops, hx], rfl, rfl, rfl⟩

end Sys2Proof.Machine
end

section
/-! PROOFS. The per-level indices of a flat index: each lies below its level's extent, and together they give the flat index modulo the
size of the space (11 R214). -/

namespace Sys2Proof.Machine

/-! ## The index of one level -/

theorem idxOf_cons_self (n : Nest) (j : Nat) (js : List Nat) (f : Nat) : idxOf n j (j :: js) f = f % n.ext.getD j 1 := by
  simp [idxOf]

theorem idxOf_cons_of_ne (n : Nest) {i j : Nat} (js : List Nat) (f : Nat) (h : j ≠ i) :
    idxOf n i (j :: js) f = idxOf n i js (f / n.ext.getD j 1) := by
  simp [idxOf, h]

theorem idxOf_lt (n : Nest) {j : Nat} (hpos : 0 < n.ext.getD j 1) (js : List Nat) (hj : j ∈ js) (f : Nat) :
    idxOf n j js f < n.ext.getD j 1 := by
  induction js generalizing f with
  | nil => contradiction
  | cons a js ih =>
    by_cases ha : a = j
    · subst ha
      rw [idxOf_cons_self]
      exact Nat.mod_lt _ hpos
    · rw [idxOf_cons_of_ne n js f ha]
      exact ih (List.mem_of_ne_of_mem (Ne.symm ha) hj) _

/-! ## The flat index from its parts -/

/-- A level's index is a digit of the flat index in the mixed radix of the extents, the first level's the lowest: what the levels after it
put together is the quotient by its extent. -/
theorem foldr_idxOf_eq_mod (n : Nest) (js : List Nat) (hnd : js.Nodup) (f : Nat) :
    js.foldr (fun j acc => acc * n.ext.getD j 1 + idxOf n j js f) 0 = f % (js.map (fun j => n.ext.getD j 1)).prod := by
  induction js generalizing f with
  | nil => simp [Nat.mod_one]
  | cons a js ih =>
    obtain ⟨ha, hnd⟩ := List.nodup_cons.1 hnd
    have hrest : js.foldr (fun j acc => acc * n.ext.getD j 1 + idxOf n j (a :: js) f) 0 =
        js.foldr (fun j acc => acc * n.ext.getD j 1 + idxOf n j js (f / n.ext.getD a 1)) 0 :=
      List.foldr_ext _ _ _ fun j hj acc => by
        rw [idxOf_cons_of_ne n js f (ne_of_mem_of_not_mem hj ha).symm]
    rw [List.foldr_cons, hrest, ih hnd, idxOf_cons_self, List.map_cons, List.prod_cons, Nat.mod_mul, Nat.mul_comm, Nat.add_comm]

/-! ## IDX's result -/

/-- The word that IDX writes holds the whole index of a level of the nest, whose extent fits it. -/
theorem idxValue_toNat (n : Nest) (flat : Word) (j : Nat) (hlevel : j < n.depth) (hj : j ∈ n.perm.take n.depth)
    (hpos : 0 < n.ext.getD j 1) (hext : n.ext.getD j 1 < 2 ^ 32) :
    (idxValue (some n) flat j).toNat = idxOf n j (n.perm.take n.depth).reverse flat.toNat := by
  have hlt := idxOf_lt n hpos _ (List.mem_reverse.2 hj) flat.toNat
  rw [idxValue, if_neg (Nat.not_le.2 hlevel), BitVec.toNat_ofNat, Nat.mod_eq_of_lt (by omega)]

theorem idxValue_of_depth_le (n : Nest) (flat : Word) (j : Nat) (h : n.depth ≤ j) : idxValue (some n) flat j = 0 := if_pos h

theorem exec_idx (s : State) (c : Ctx) (h : Head) (d l : BitVec 4) (hi : Issues s c (.idx h d l)) :
    exec (.idx h d l) s = c.puts s 1 [c.eff 2 (.reg d (idxValue c.run.img.nest (c.rd 1) l.toNat))] :=
  issue_runs _ s _ c hi.ctx hi.legal hi.guard

/-! ## O16 -/

/-- Settles O16: the bounds by `idxOf_lt`; the flat index by `foldr_idxOf_eq_mod` over the levels in R214's order, the innermost first. -/
theorem nestIndices : Obligations.NestIndices := by
  refine ⟨?_, idxValue_of_depth_le, fun _ _ => rfl, exec_idx⟩
  rintro n flat perm rfl hnd - hlevel hext
  have hval : ∀ j ∈ n.perm.take n.depth,
      (idxValue (some n) flat j).toNat = idxOf n j (n.perm.take n.depth).reverse flat.toNat :=
    fun j hj => idxValue_toNat n flat j (hlevel j hj) hj (hext j hj).1 (hext j hj).2
  refine ⟨fun j hj => ?_, ?_⟩
  · rw [hval j hj]
    exact idxOf_lt n (hext j hj).1 _ (List.mem_reverse.2 hj) _
  · generalize hperm : n.perm.take n.depth = perm at *
    calc perm.foldl (fun acc j => acc * n.ext.getD j 1 + (idxValue (some n) flat j).toNat) 0
      _ = perm.foldl (fun acc j => acc * n.ext.getD j 1 + idxOf n j perm.reverse flat.toNat) 0 :=
        List.foldl_ext _ _ _ fun acc j hj => by rw [hval j hj]
      _ = perm.reverse.foldr (fun j acc => acc * n.ext.getD j 1 + idxOf n j perm.reverse flat.toNat) 0 :=
        List.foldr_reverse.symm
      _ = flat.toNat % (perm.reverse.map (fun j => n.ext.getD j 1)).prod :=
        foldr_idxOf_eq_mod n _ (List.nodup_reverse.2 hnd) _
      _ = flat.toNat % (perm.map (fun j => n.ext.getD j 1)).prod := by rw [List.map_reverse, List.prod_reverse]

end Sys2Proof.Machine
end
